-- ==== Sys2Proof/Word.lean ====
section
/-! DEFINITION. The plain words of the model: bytes, 32-bit registers, 64-bit registers (R8: all registers are
32-bit, all multi-byte data little-endian), and the index types of the module's dies and units (R12, R15, R74). -/

namespace Sys2Proof

/-- One byte. -/
abbrev Byte := BitVec 8

/-- One 32-bit register or F32 value (R8, R33). -/
abbrev Word := BitVec 32

/-- One 64-bit value: an Onesk register, board time, an address field (R257, R8). -/
abbrev DWord := BitVec 64

/-- One W40 value (R29). -/
abbrev W40 := BitVec 40

/-- A ring die RD0 to RD15 (R12). -/
abbrev DieId := Fin 16

/-- A stack and its sill, S0 to S11 (R12). -/
abbrev SillId := Fin 12

/-- A Mortise link 0 to 23 (R15). -/
abbrev LinkId := Fin 24

/-- An edge die E0 to E5 (R12). -/
abbrev EdgeId := Fin 6

/-- A bay of a ring die (R74). -/
abbrev BayIx := Fin 4

/-- A job ring of the host (R264). -/
abbrev RingIx := Fin 16

/-- A hardware thread of a control core (R75). -/
abbrev ThreadIx := Fin 8

/-- A bent of a ring die, B0 to B15 (R47). -/
abbrev BentIx := Fin 16

/-- A completion counter of a bay (R77). -/
abbrev CtrIx := Fin 32

/-- A stream slot of a bay (R116). -/
abbrev SlotIx := Fin 64

/-- The edge die a link belongs to: E(k/4) (R15). -/
def LinkId.edge (k : LinkId) : EdgeId := ⟨k.val / 4, by omega⟩

end Sys2Proof
end

