-- ==== Sys2Proof/Syntax.lean ====
section
/-! DEFINITION. The commands of the block, one constructor of `Instr` for each row of spec/opcode_table.json, and the
operands they carry. What the outside world supplies (the content of host memory, a sensor's value, the far side's
blocks, what an ECC check found) is an operand. -/

namespace Sys2Proof

/-! ## Small enumerations -/

/-- The six engine command queues of a bay (R76), numbered as PUSH numbers them (R258). -/
inductive QueueIx where
  | fetch | store | vector | ring | kiln | link
deriving DecidableEq, Repr, Inhabited

/-- The four functions that may be disabled one at a time (R89). -/
inductive FuncKind where
  | bay | vector | fetch | store
deriving DecidableEq, Repr, Inhabited

/-- The three kingpost cores (R289). -/
inductive CoreKind where
  | security | power | scheduler
deriving DecidableEq, Repr, Inhabited

/-- Status codes (R10). -/
inductive Status where
  | done | doneFlagged | badDescriptor | verifyFailed | shapeMismatch | featureAbsent
  | stepSkew | stepWithheld | stepReplayed | cancelled | disabled | multicastTimeout
  | linkDown | peerLost | memoryUncorrectable | firmwareRestarted | orphanAdopted
  | updateRefused | internal
deriving DecidableEq, Repr, Inhabited

/-- The states of the module (R11). -/
inductive ModState where
  | boot | idle | armed | running | quiesced | orphaned | faulted | acorn
deriving DecidableEq, Repr, Inhabited

/-- Operating modes (R375, R377). -/
inductive OpMode where
  | train | rollout | calibrate
deriving DecidableEq, Repr, Inhabited

/-! ## Names of units -/

/-- A bay of a ring die. -/
structure BayId where
  die : DieId
  bay : BayIx
deriving DecidableEq, Repr, Inhabited

/-- A hardware thread of a control core. -/
structure ThreadRef where
  bay    : BayId
  thread : ThreadIx
deriving DecidableEq, Repr, Inhabited

/-! ## Job descriptors (R271, R272) -/

/-- The common fields of a job descriptor (R271): IRQ, TAG, and whether every reserved bit and byte of it is 0. -/
structure DescHead where
  irq           : Bool
  tag           : Word
  reservedClear : Bool
deriving DecidableEq, Repr, Inhabited

/-- The fields of the CHECKPOINT descriptor beyond MODE (R362). -/
structure CkptFields where
  keepPlan     : Bool
  keepTopology : Bool
  hostAddr     : DWord
  bytes        : DWord
  snapOffset   : Word
  snapPages    : Word
  extra        : DWord
  atStep       : DWord
deriving DecidableEq, Repr, Inhabited

/-- The save modes of R362. -/
inductive SaveMode where
  | snapshot | direct
deriving DecidableEq, Repr, Inhabited

/-- What a job descriptor asks for (R272). The bytes that host memory holds for it are its operand. -/
inductive JobWork where
  | step (s : DWord) (lrFactor : Word)
  | copyToModule (hostAddr moduleAddr : DWord) (data : List Byte)
  | copyFromModule (hostAddr moduleAddr : DWord) (bytes : Nat)
  | quiesce
  | resume
  | save (mode : SaveMode) (f : CkptFields)
  | restoreHost (f : CkptFields) (image : List Byte)
  | restoreSnapshot (f : CkptFields)
  | marker
  | unknownKind (kind : Byte)
deriving DecidableEq, Repr, Inhabited

/-- A job descriptor as the scheduler reads it. -/
structure JobDesc where
  head : DescHead
  work : JobWork
deriving DecidableEq, Repr, Inhabited

/-! ## Management requests (R285, R286) -/

/-- TAG of a request, and whether every reserved byte of the entry is 0 (R286). -/
structure ReqHead where
  tag           : Word
  reservedClear : Bool
deriving DecidableEq, Repr, Inhabited

/-- The fields of ADOPT (R286). -/
structure AdoptFields where
  doorbell     : DWord
  heartbeat    : Word
  hostCtrl     : Word
  ringTable    : Word
  resultOffset : Word
  features     : BitVec 256
deriving DecidableEq, Repr, Inhabited

/-! ## Engine command records (R117, R118, R100, R259, R436) -/

/-- Bay, completion counter, and whether the record's unused bits are 0 (R259, R437). -/
structure CmdHead where
  bay         : BayId
  ctr         : CtrIx
  unusedClear : Bool
deriving DecidableEq, Repr, Inhabited

/-- OPEN of the FETCH queue (R118). -/
structure OpenFields where
  stream      : BitVec 6
  mode        : BitVec 2
  sliceMask   : BitVec 16
  minBuf      : BitVec 10
  maxBuf      : BitVec 14
  outstanding : BitVec 9
  rate        : BitVec 16
  ringBase    : BitVec 16
  ringLog2    : BitVec 4
  source      : BitVec 12
deriving DecidableEq, Repr, Inhabited

/-- STORE (R259). -/
structure StoreFields where
  stream    : BitVec 6
  isStatic  : Bool
  gated     : Bool
  src       : BitVec 30
  dst       : BitVec 40
  rows      : Word
  cols      : Word
  rowStride : DWord
  gateBlock : BitVec 16
  gateStep  : Byte
  tag       : Word
deriving DecidableEq, Repr, Inhabited

/-- OPEN of the KILN queue (R100). -/
structure KilnOpenFields where
  region    : BitVec 6
  rows      : BitVec 16
  cols256   : BitVec 8
  spill     : Bool
  baseGroup : BitVec 17
  spillAddr : BitVec 30
deriving DecidableEq, Repr, Inhabited

/-- READOUT of the KILN queue (R100). -/
structure ReadoutFields where
  region    : BitVec 6
  segment   : BitVec 16
  destElem  : BitVec 30
  destScale : BitVec 30
  adj       : BitVec 6
deriving DecidableEq, Repr, Inhabited

/-- REDUCE (R259). -/
structure ReduceFields where
  coll     : BitVec 12
  first    : BitVec 28
  count    : Word
  srcElem  : BitVec 30
  srcScale : BitVec 30
deriving DecidableEq, Repr, Inhabited

/-- GATHER (R259). -/
structure GatherFields where
  coll     : BitVec 12
  first    : BitVec 28
  count    : Word
  gatherNo : BitVec 16
deriving DecidableEq, Repr, Inhabited

/-- VOTE (R259). -/
structure VoteFields where
  coll  : BitVec 12
  first : BitVec 28
  count : Word
deriving DecidableEq, Repr, Inhabited

/-- DISPATCH (R259). -/
structure DispatchFields where
  dispatchNo : BitVec 12
  group      : BitVec 4
  tokens     : BitVec 16
  route      : BitVec 30
  rowAddr    : BitVec 30
  rowFmt     : BitVec 4
  rowBytes   : BitVec 14
  capAddr    : BitVec 16
  served     : BitVec 30
deriving DecidableEq, Repr, Inhabited

/-- COMBINE (R259). -/
structure CombineFields where
  dispatchNo : BitVec 12
  outAddr    : BitVec 30
  outFormat  : BitVec 4
  outBytes   : BitVec 14
deriving DecidableEq, Repr, Inhabited

/-- SEND (R259). -/
structure SendFields where
  dstId : BitVec 15
  src   : BitVec 30
  dst   : BitVec 40
  bytes : Word
deriving DecidableEq, Repr, Inhabited

/-- SIGN (R259). -/
structure SignFields where
  sill  : BitVec 4
  shard : BitVec 12
deriving DecidableEq, Repr, Inhabited

/-- ELEMENTWISE (R259). -/
structure ElemFields where
  op      : Byte
  inFmt   : BitVec 4
  outFmt  : BitVec 4
  delayed : Bool
  ledger  : BitVec 14
  srcA    : BitVec 30
  srcB    : BitVec 30
  srcC    : BitVec 30
  dst     : BitVec 30
  count   : Word
  release : BitVec 16
deriving DecidableEq, Repr, Inhabited

/-- ROW (R259). -/
structure RowFields where
  op      : Byte
  inFmt   : BitVec 4
  outFmt  : BitVec 4
  rowLen  : Word
  rows    : Word
  src     : BitVec 30
  aux     : BitVec 30
  dst     : BitVec 30
  eps     : Word
  release : BitVec 16
deriving DecidableEq, Repr, Inhabited

/-- MASK: the fields of R112, then SRC and DST (R259). The record gives no field for the tile's size, so the rows and
columns of the tile and its format are operands beside it (log entry 17). -/
structure MaskFields where
  qPos   : BitVec 20
  kPos   : BitVec 20
  kind   : BitVec 3
  window : BitVec 20
  segQ   : BitVec 30
  segK   : BitVec 30
  validK : BitVec 20
  src    : BitVec 30
  dst    : BitVec 30
deriving DecidableEq, Repr, Inhabited

/-- The tile a MASK command applies to: rows, columns, and whether it holds score gradients (log entry 17). -/
structure MaskTile where
  rows     : Nat
  cols     : Nat
  gradient : Bool
deriving DecidableEq, Repr, Inhabited

/-- PASS (R259, R436). -/
structure PassFields where
  quarter     : Bool
  pair        : BitVec 3
  turned      : Bool
  statStream  : BitVec 12
  statSeq     : Word
  trainStream : BitVec 12
  trainSeq    : Word
  planks      : BitVec 4
  entryBent   : BitVec 4
  firstEntry  : BitVec 11
  firstK      : Bool
  headBent    : BitVec 5
  region      : BitVec 6
  epilogue    : BitVec 2
  ledger      : BitVec 14
  out         : BitVec 30
  release     : BitVec 16
deriving DecidableEq, Repr, Inhabited

/-- MOVE (R259, R436). -/
structure MoveFields where
  src5  : BitVec 5
  dst5  : BitVec 5
  src   : BitVec 30
  dst   : BitVec 30
  bytes : Word
deriving DecidableEq, Repr, Inhabited

/-- WAKE (R259, R313). -/
structure WakeFields where
  bentMask : BitVec 16
  cycles   : Word
deriving DecidableEq, Repr, Inhabited

/-- A command as an engine takes it from its queue; `malformed` is a record with an undefined command code (R437). -/
inductive EngineCmd where
  | fetchOpen (f : OpenFields)
  | fetchPost (stream : BitVec 6) (count : BitVec 10)
  | fetchStart (stream : BitVec 6) (delay : Word)
  | fetchRelease (stream : BitVec 6) (scaleSeq : Bool) (count : BitVec 14)
  | fetchCancel (stream : BitVec 6)
  | fetchClose (stream : BitVec 6)
  | store (f : StoreFields)
  | kilnOpen (f : KilnOpenFields)
  | kilnReadout (f : ReadoutFields)
  | reduce (f : ReduceFields)
  | gather (f : GatherFields)
  | vote (f : VoteFields)
  | dispatch (f : DispatchFields)
  | combine (f : CombineFields)
  | send (f : SendFields)
  | sign (f : SignFields)
  | elementwise (f : ElemFields)
  | row (f : RowFields)
  | mask (f : MaskFields)
  | pass (f : PassFields)
  | move (f : MoveFields)
  | wake (f : WakeFields)
  /-- The start command of a segment of the private form, by its place in the switch program (R81). -/
  | segmentStart (number : Nat)
  | malformed
deriving DecidableEq, Repr, Inhabited

/-! ## Segments and slots of a ring die (R79 to R82) -/

/-- The causes for which a slot is held (R82). -/
inductive HoldCause where
  | producer | noCredit | bentAsleep | loadBank | derating (router : Fin 4)
deriving DecidableEq, Repr, Inhabited

/-- Where a beat lies in its loft slice: at a loft offset, or at a byte of a buffer that the program names by stream and sequence
number and the slice side translates (R122). -/
inductive SlicePlace where
  | offset (o : Nat)
  | buffer (stream : BitVec 12) (scale : Bool) (seq byte : Nat)
deriving DecidableEq, Repr, Inhabited

/-- The producer or the consumer of a claimed beat (R79): a loft slice, a bay's read or write port, or an edge router. A bay's
port serves its data memory at an offset, or its bents, feed stage and engines, which the ring schedule drives. -/
inductive BeatEnd where
  | slice (slice : Fin 16) (place : SlicePlace)
  | bay (bay : BayIx) (dmem : Option Nat)
  | router (r : Fin 4)
deriving DecidableEq, Repr, Inhabited

/-- A claimed beat: `bytes` bytes, at most 1,024, from a producer to a consumer (R79, R80). -/
structure ClaimedBeat where
  src   : BeatEnd
  dst   : BeatEnd
  bytes : Nat
deriving DecidableEq, Repr, Inhabited

/-- Where an epilogue writes its blocks: element and scale places of the first lane, and the step from lane to lane (R436). -/
structure EpilogueOut where
  elem      : Nat
  scale     : Nat
  elemStep  : Nat
  scaleStep : Nat
deriving DecidableEq, Repr, Inhabited

/-- One act of the ring schedule in a slot (R53 to R60, R66, R80); bays and bents are logical in a bundle and physical once
bound (R247). -/
inductive RingAct where
  /-- Lines `first` to `first + count - 1` of a plank into a bent's load bank; lines 0 to 255 hold elements and line 256 + g is
  scale line g (R51, R53). `half`: the second plank of an A4 buffer (R123). `high`: into the upper bytes of the cells, the second
  half along K of the A4 pair (R50). `across`: the block axis the program was compiled for (R54). -/
  | load (bent : BentIx) (turned high across : Bool) (stream : BitVec 12) (seq : Nat) (half : Bool) (first count : Nat)
  /-- The same lines into the load bank of a bay's feed stage, turned as the plank's axis says (R55). -/
  | feedLoad (bay : BayIx) (high : Bool) (stream : BitVec 12) (seq : Nat) (half : Bool) (first count : Nat)
  /-- A feed stage swaps its banks (R55). -/
  | feedSwap (bay : BayIx)
  /-- The operand half moves one beat: every train row goes one hop on (R56). -/
  | hop
  /-- A feed stage emits a row of its live plank at an entry bent, for an entry; `swap`: the first row of a pass (R56, R57). -/
  | emit (bay : BayIx) (entryBent : BentIx) (pair : BitVec 3) (row : Fin 256) (entry : BitVec 11) (firstK swap : Bool)
  /-- Entries of a product with K = 0 hold +0.0 (R66). -/
  | zero (bent : BentIx) (first count : Nat)
  /-- The reduction of one entry from a head bent into a row segment of a kiln region (R60). -/
  | reduce (head : BentIx) (entry : BitVec 11) (region : BitVec 6) (rowIx colGroup : Nat)
  /-- The epilogue reads 32 entries of a bent and writes one block for each valid lane (R48, R67, R436). -/
  | epilogue (bent : BentIx) (mode : BitVec 2) (first : BitVec 11) (ledger : BitVec 14) (out : EpilogueOut)
      (lanes features : Nat)
  /-- A release mark on a stream's buffer sequence (R124). -/
  | release (stream : BitVec 12) (scaleSeq : Bool) (count : Nat)
deriving DecidableEq, Repr, Inhabited

/-- One slot of a switch program (R80): its claimed beats, the beats that each router offers in and out, and its ring acts. A loft
slice's reserved beat is offered (R84), and every other beat is free. -/
structure SwitchSlot where
  claimed : List ClaimedBeat
  offerIn  : List (Fin 4 × Nat)
  offerOut : List (Fin 4 × Nat)
  acts    : List RingAct
deriving DecidableEq, Repr, Inhabited

/-- One segment of a switch program (R71, R80, R81): the bays that take part, the fetch completions its start commands name (bay,
counter, target), its ring configuration, the bents' claimed-beat mask of R22, and its slots. -/
structure SwitchSegment where
  bays        : List BayIx
  completions : List (BayIx × CtrIx × Word)
  quarter     : Bool
  mask        : BitVec 16
  slots       : List SwitchSlot
deriving DecidableEq, Repr, Inhabited

/-- Buffers that a descriptor of the program fills, and the completion that reports it (R125): stream, sequence, first number and
count, block axis, and the bay, counter and value. -/
structure BufferFill where
  stream : BitVec 12
  scale  : Bool
  first  : Nat
  count  : Nat
  across : Bool
  bay    : BayIx
  ctr    : CtrIx
  value  : Word
deriving DecidableEq, Repr, Inhabited

/-- An OPEN or a CLOSE of a bay's FETCH queue, in program order (R120). -/
inductive PoolUse where
  | take (slot : SlotIx) (mask : BitVec 16) (minBuf : Nat)
  | drop (slot : SlotIx)
deriving DecidableEq, Repr, Inhabited

/-- A command of a bay's KILN queue in program order, with the segment last issued before it (R100). -/
inductive KilnUse where
  | take (bay : BayIx) (f : KilnOpenFields) (after : Nat)
  | read (bay : BayIx) (f : ReadoutFields) (after : Nat)
deriving DecidableEq, Repr, Inhabited

/-- What a private CORE_IMAGE holds for one logical bay: code, the threads that start, each queue's producer, the pushes that a
thread can reach with their byte offsets, the data image, and the pool's use (R74, R76, R120, R254). -/
structure CoreProgram where
  code      : List Word
  entries   : List (ThreadIx × Nat)
  producers : List ThreadIx
  pushes    : List (ThreadIx × QueueIx)
  data      : List Byte
  pool      : List PoolUse
deriving DecidableEq, Repr, Inhabited

/-- What the private sections of one die say (R80, R242, R252). -/
structure DieProgram where
  cores    : List CoreProgram
  segments : List SwitchSegment
  fills    : List BufferFill
  encodes  : List (Nat × BitVec 2)
  kiln     : List KilnUse
deriving DecidableEq, Repr, Inhabited

/-- What reaches a die's clocks and loft in one cycle of a slot (R96, R307, R310, R326, R360): domains stretched, paused and
gated for want of credit, and the loft offsets at which its reads met a corrected error. -/
structure SlotCycle where
  stretched    : List (Fin 17)
  paused       : List (Fin 17)
  gatedSenders : List (Fin 17)
  corrected    : List (BitVec 30)
deriving DecidableEq, Repr, Inhabited

/-- A start command that a private-form thread pushes to its bay's RING queue (R81): bay, counter, and its segment's place in the
switch program. -/
structure StartPush where
  bay     : BayIx
  ctr     : CtrIx
  segment : Nat
deriving DecidableEq, Repr, Inhabited

/-- What a draw sample holds beside the 16 sites' power: the husk draw in W, and whether 48 V lay outside its operating range (R328,
R340, R423). -/
structure DrawReading where
  husk       : Nat
  outOfRange : Bool
deriving DecidableEq, Repr, Inhabited

/-! ## Memory stacks -/

/-- What the sill's code finds on a read of one sector; an uncorrectable one is read once more, and the second read may be clean or
correctable (R151). -/
inductive EccResult where
  | clean
  | corrected
  | uncorrectable
  | retriedClean
  | retriedCorrected
deriving DecidableEq, Repr, Inhabited

/-- What the stack's on-die ECC reported with an access: nothing, a correction, or an error it could not correct (R145, R157). -/
inductive OnDieReport where
  | none
  | corrected
  | failed
deriving DecidableEq, Repr, Inhabited

/-- One sector for which a check found something, by its stack and its number in it (R148, R151). -/
structure SectorEvent where
  sill   : SillId
  sector : Nat
  result : EccResult
  onDie  : OnDieReport
deriving DecidableEq, Repr, Inhabited

/-! ## Mortise links -/

/-- A tenon (R193, R194): head fields and payload, and whether its codewords, CRC, tail and reserved fields are good. -/
structure Tenon where
  vc      : Fin 4
  srcId   : BitVec 15
  dstId   : BitVec 15
  hops    : BitVec 4
  opcode  : Byte
  time    : DWord
  context : DWord
  payload : List Byte
deriving DecidableEq, Repr, Inhabited

/-- What the lanes of a link have met since the link's last command: corrected symbols and uncorrectable codewords of each physical
lane, 0 to 8, and control blocks of an unknown type (R191, R206, R215). -/
structure LaneErrors where
  corrected     : List Nat
  uncorrectable : List Nat
  unknownBlocks : Nat
deriving DecidableEq, Repr, Inhabited

/-- A tenon as it arrives on a link: its SEQ, what its codewords and lanes met, the CRC in its tail, and which of R195's other
checks it passes. -/
structure ArrivedTenon where
  tenon         : Tenon
  seq           : BitVec 16
  lanes         : LaneErrors
  crc           : Word
  shapeGood     : Bool
  reservedClear : Bool
deriving DecidableEq, Repr, Inhabited

/-- A CREDIT_ACK block (R192). -/
structure CreditAck where
  peerState : BitVec 3
  ackSeq    : BitVec 16
  nak       : Bool
  time      : DWord
  returns   : List (BitVec 12)
  lanes     : LaneErrors
deriving DecidableEq, Repr, Inhabited

/-- HELLO (R205). -/
structure HelloFields where
  farKind    : BitVec 2
  moduleId   : BitVec 15
  boardId    : BitVec 16
  minVersion : Byte
  maxVersion : Byte
  profile    : BitVec 2
  lanes      : BitVec 9
  credits    : List (BitVec 14)
deriving DecidableEq, Repr, Inhabited

/-- Why a receiver declares a lane failed (R206). -/
inductive LaneFault where
  | signalLost | uncorrectableCodewords | correctedSymbols
deriving DecidableEq, Repr, Inhabited

/-! ## Board time -/

/-- The time word that follows a mark (R319). -/
structure TimeWord where
  time  : DWord
  flags : Byte
  seq   : Byte
  crc   : BitVec 16
deriving DecidableEq, Repr, Inhabited

/-! ## Sensors, supplies, requesters -/

/-- The temperature sensors of R430. -/
inductive Sensor where
  | ringDie (d : DieId) | loftDie (d : DieId) | sillDie (m : SillId) | edgeDie (e : EdgeId)
  | stack (m : SillId) | kingpost (b : Bool) | coolantInlet | coolantOutlet
deriving DecidableEq, Repr, Inhabited

/-- The LO registers whose read latches a high word (R418, R410). -/
inductive LoReg where
  | clkNow
  | cycles (die : DieId) (dom : Fin 17)
  | scribeNextSeq
deriving DecidableEq, Repr, Inhabited

/-- Resets of the PCIe port that do not reset the module (R282). -/
inductive PortResetKind where
  | functionLevel | hot | perst
deriving DecidableEq, Repr, Inhabited

/-- How a read of host memory failed (R279). -/
inductive HostFailKind where
  | completionTimeout | unsupportedRequest
deriving DecidableEq, Repr, Inhabited

/-- How the active kingpost's failure is detected (R302). -/
inductive KpFailure where
  | alivePulses | clockOrSupply | holdAreaSram
deriving DecidableEq, Repr, Inhabited

/-- The transport of a PLDM or SPDM message (R338, R396). -/
inductive Transport where
  | doe | mctp
deriving DecidableEq, Repr, Inhabited

/-- How long MODULE_RESET# was held low, in nanoseconds, and the straps at its rising edge (R422, R427). -/
structure ResetPulse where
  lowNs    : Nat
  acorn    : Bool
  i3cAddr  : BitVec 4
  perst    : Bool
deriving DecidableEq, Repr, Inhabited

/-- What BOOT finds (R145, R206, R356, R393): stacks that failed training, whether the active slot's images verify and
pass self-test. -/
structure BootResult where
  failedStacks : List SillId
  selfTestOk   : Bool
  stackIds     : List Word
  failedHardRepairs : List (SillId × Nat)
deriving DecidableEq, Repr, Inhabited

/-! ## A management request as the request ring carries it (R285, R286) -/

/-- The requests of R285 with their fields: what the scheduler core holds while it, or the security core, restarts. -/
inductive Request where
  | attach (features : BitVec 256) (heartbeat : Word)
  | detach
  | adopt (f : AdoptFields)
  | reset
  | load (addr length : DWord)
  | arm (timeout : Word) (jobId : DWord)
  | disarm
  | functionQuiesce (die bay func : Byte)
  | functionForce (die bay func : Byte)
  | functionReenable (die bay func : Byte)
  | routeWrite (first count : BitVec 16) (scratch : Word)
  | verdictTree (parent : BitVec 15) (root : Bool) (childCount : Byte) (children : List (BitVec 16))
  | retiredPages (scratch : Word)
  | laneClear (link lane : Byte)
  | linkRetrain (link : Byte)
  | updateStage (addr length : DWord)
  | acornWrite (offset : DWord) (length scratch : Word) (last : Bool)
  | updateSchedule (mode : Byte) (tAct actStep : DWord)
  | updateConfirm
  | updateRevert
  | planWrite (scratch length : Word)
  | planRead (scratch : Word)
  | modeSet (mode : Byte)
  | configWrite (scratch length : Word)
  | configRestore (kind : Byte)
  | configRead (scratch : Word)
  | scribeRead (first : DWord) (count scratch : Word)
  | scribeClearPinned
  | selftest (item : Byte) (mask : Word)
  | partsRead (scratch : Word)
  | ownerLockSet (key : BitVec 768)
  | ownerLockGetNonce
  | ownerLockClear (signature : BitVec 768)
  | debugGetNonce
  | debugPresent (token : List Byte)
  | debugRelock
deriving DecidableEq, Repr, Inhabited

/-! ## The commands -/

/-- The commands of the block: one constructor for each row of spec/opcode_table.json, in its order. -/
inductive Instr where
  -- job descriptors: the scheduler reads one on a ring (R270 to R274, R362)
  | step (ring : RingIx) (h : DescHead) (s : DWord) (lrFactor : Word)
  | copyToModule (ring : RingIx) (h : DescHead) (hostAddr moduleAddr : DWord) (data : List Byte)
  | copyFromModule (ring : RingIx) (h : DescHead) (hostAddr moduleAddr : DWord) (bytes : Nat)
  | quiesce (ring : RingIx) (h : DescHead)
  | resume (ring : RingIx) (h : DescHead)
  | checkpointSnapshot (ring : RingIx) (h : DescHead) (f : CkptFields)
  | checkpointDirect (ring : RingIx) (h : DescHead) (f : CkptFields)
  | restoreHost (ring : RingIx) (h : DescHead) (f : CkptFields) (image : List Byte)
  | restoreSnapshot (ring : RingIx) (h : DescHead) (f : CkptFields)
  | marker (ring : RingIx) (h : DescHead)
  -- the scheduler's poll and the registers of BAR0 and BAR2
  | doorbellRead (produced : List Word) (heartbeat : DWord) (found : List (RingIx × JobDesc))
  | kpNudgeWrite (value : Word) (enables : BitVec 4)
  | kpPegWrite (value : Word) (enables : BitVec 4)
  | pegCheck
  | clkLoadGo (value : Word) (enables : BitVec 4)
  | ringLedgerDataWrite (die : DieId) (value : Word) (enables : BitVec 4)
  | ringLedgerDataRead (die : DieId)
  | scribeSlotDataRead (word : Fin 16)
  | latchingLoRead (r : LoReg)
  | counterClear (offset : BitVec 25) (value : Word) (enables : BitVec 4)
  | registerWrite (offset : BitVec 25) (value : Word) (enables : BitVec 4)
  | apertureWrite (offset : BitVec 36) (data : List Byte)
  | apertureRead (offset : BitVec 36) (bytes : Nat) (found : List SectorEvent)
  -- management requests (R285, R286)
  | attach (h : ReqHead) (features : BitVec 256) (heartbeat : Word)
  | detach (h : ReqHead)
  | adopt (h : ReqHead) (f : AdoptFields)
  | reset (h : ReqHead)
  | load (h : ReqHead) (addr length : DWord)
  | arm (h : ReqHead) (timeout : Word) (jobId : DWord)
  | disarm (h : ReqHead)
  | functionDisableQuiesce (h : ReqHead) (die bay func : Byte)
  | functionDisableForce (h : ReqHead) (die bay func : Byte)
  | functionReenable (h : ReqHead) (die bay func : Byte)
  | routeWrite (h : ReqHead) (first count : BitVec 16) (scratch : Word)
  | verdictTree (h : ReqHead) (parent : BitVec 15) (root : Bool) (childCount : Byte) (children : List (BitVec 16))
  | retiredPages (h : ReqHead) (scratch : Word)
  | laneClear (h : ReqHead) (link lane : Byte)
  | linkRetrain (h : ReqHead) (link : Byte)
  | updateStage (h : ReqHead) (addr length : DWord)
  | acornWrite (h : ReqHead) (offset : DWord) (length scratch : Word) (last : Bool)
  | updateSchedule (h : ReqHead) (mode : Byte) (tAct actStep : DWord)
  | updateConfirm (h : ReqHead)
  | updateRevert (h : ReqHead)
  | planWrite (h : ReqHead) (scratch length : Word)
  | planRead (h : ReqHead) (scratch : Word)
  | modeSet (h : ReqHead) (mode : Byte)
  | configWriteRecord (h : ReqHead) (scratch length : Word)
  | configWriteRestore (h : ReqHead) (kind : Byte)
  | configRead (h : ReqHead) (scratch : Word)
  | scribeRead (h : ReqHead) (first : DWord) (count scratch : Word)
  | scribeClearPinned (h : ReqHead)
  | selftest (h : ReqHead) (item : Byte) (mask : Word)
  | partsRead (h : ReqHead) (scratch : Word)
  | ownerLockSet (h : ReqHead) (key : BitVec 768)
  | ownerLockGetNonce (h : ReqHead)
  | ownerLockClear (h : ReqHead) (signature : BitVec 768)
  | debugUnlockGetNonce (h : ReqHead)
  | debugUnlockPresent (h : ReqHead) (token : List Byte)
  | debugUnlockRelock (h : ReqHead)
  -- host-side events
  | nonceExpiry
  | heartbeatTimeout
  | portReset (kind : PortResetKind)
  | busMasterDisable
  | hostReadFailure (kind : HostFailKind)
  | holdoffExpiry (ring : RingIx)
  | bootComplete (r : BootResult)
  -- Onesk instructions (R258)
  | hold (t : ThreadRef)
  | sum (t : ThreadRef) (d a b : Fin 16)
  | diff (t : ThreadRef) (d a b : Fin 16)
  | prod (t : ThreadRef) (d a b : Fin 16)
  | band (t : ThreadRef) (d a b : Fin 16)
  | bor (t : ThreadRef) (d a b : Fin 16)
  | bxor (t : ThreadRef) (d a b : Fin 16)
  | lsh (t : ThreadRef) (d a b : Fin 16)
  | rsh (t : ThreadRef) (d a b : Fin 16)
  | rshs (t : ThreadRef) (d a b : Fin 16)
  | cmps (t : ThreadRef) (d a b : Fin 16)
  | cmpu (t : ThreadRef) (d a b : Fin 16)
  | copy (t : ThreadRef) (d a : Fin 16)
  | sumi (t : ThreadRef) (d a : Fin 16) (imm : BitVec 16)
  | bandi (t : ThreadRef) (d a : Fin 16) (imm : BitVec 16)
  | bori (t : ThreadRef) (d a : Fin 16) (imm : BitVec 16)
  | lshi (t : ThreadRef) (d a : Fin 16) (imm : BitVec 16)
  | place (t : ThreadRef) (d : Fin 16) (a : BitVec 4) (imm : BitVec 16)
  | set (t : ThreadRef) (d : Fin 16) (imm : BitVec 20)
  | load8 (t : ThreadRef) (d a : Fin 16) (imm : BitVec 16)
  | store8 (t : ThreadRef) (d a : Fin 16) (imm : BitVec 16)
  | load4 (t : ThreadRef) (d a : Fin 16) (imm : BitVec 16)
  | store4 (t : ThreadRef) (d a : Fin 16) (imm : BitVec 16)
  | test (t : ThreadRef) (cond : BitVec 4) (a b : Fin 16) (off : BitVec 12)
  | call (t : ThreadRef) (d : Fin 16) (imm : BitVec 20)
  | goto (t : ThreadRef) (a : Fin 16)
  | push (t : ThreadRef) (queue : BitVec 4) (a : Fin 16) (imm : BitVec 16)
  | queueSlotFree (b : BayId) (q : QueueIx)
  | wait (t : ThreadRef) (ctr : CtrIx) (a : Fin 16)
  | readc (t : ThreadRef) (d : Fin 16) (ctr : CtrIx)
  | clock (t : ThreadRef) (d : Fin 16)
  | stop (t : ThreadRef)
  -- commands of the engine queues
  | fetchOpen (c : CmdHead) (f : OpenFields)
  | fetchPost (c : CmdHead) (stream : BitVec 6) (count : BitVec 10)
  | fetchStart (c : CmdHead) (stream : BitVec 6) (delay : Word)
  | fetchRelease (c : CmdHead) (stream : BitVec 6) (scaleSeq : Bool) (count : BitVec 14)
  | fetchCancel (c : CmdHead) (stream : BitVec 6)
  | fetchClose (c : CmdHead) (stream : BitVec 6)
  | store (c : CmdHead) (f : StoreFields)
  | kilnOpen (c : CmdHead) (f : KilnOpenFields)
  | kilnReadout (c : CmdHead) (f : ReadoutFields)
  | reduce (c : CmdHead) (f : ReduceFields)
  | gather (c : CmdHead) (f : GatherFields)
  | vote (c : CmdHead) (f : VoteFields)
  | dispatch (c : CmdHead) (f : DispatchFields)
  | combine (c : CmdHead) (f : CombineFields)
  | send (c : CmdHead) (f : SendFields)
  | sign (c : CmdHead) (f : SignFields)
  | elementwise (c : CmdHead) (f : ElemFields)
  | row (c : CmdHead) (f : RowFields)
  | mask (c : CmdHead) (f : MaskFields) (tile : MaskTile)
  | pass (c : CmdHead) (f : PassFields)
  | move (c : CmdHead) (f : MoveFields)
  | wake (c : CmdHead) (f : WakeFields)
  -- events of the ring dies and their bays
  | commandComplete (b : BayId) (q : QueueIx)
  | segmentStart (die : DieId) (starts : List StartPush)
  | slotIssue (die : DieId) (cycle : SlotCycle)
  | segmentEnd (die : DieId)
  | reductionBeat (b : BayId) (region : BitVec 6) (rowIx colGroup : Nat) (totals : List W40)
  | bentClockStop (die : DieId) (bent : BentIx)
  | bentWake (die : DieId) (bent : BentIx) (held : Bool)
  | wakeDeadline (die : DieId) (bent : BentIx)
  | bentResidueFault (die : DieId) (bent : BentIx) (inScan : Bool)
  | loftUncorrectable (die : DieId) (offset : BitVec 30)
  | routerDerateLevel (die : DieId) (router : Fin 4) (celsius : Byte)
  | descriptorBatch (b : BayId) (slot : SlotIx)
  | transferIssue (b : BayId) (slot : SlotIx)
  | sillTransferStart (sill : SillId) (found : List SectorEvent)
  | transferLand (b : BayId) (slot : SlotIx) (order : Nat)
  | storeSectorWritten (b : BayId) (slot : Option SlotIx)
  | multicastReserve (target : BayId) (source : BitVec 12) (slot : SlotIx) (buffers : Nat)
  | multicastGrant (source : BayId) (slot : SlotIx) (die : DieId) (dry : DWord)
  | multicastCommit (target : BayId) (slot : SlotIx)
  | multicastAbort (target : BayId) (slot : SlotIx)
  | multicastTimeout (source : BayId) (slot : SlotIx)
  | multicastLanded (target : BayId) (slot : SlotIx)
  -- events of the sills
  | refreshDue (sill : SillId) (channel : BitVec 6) (bank : BitVec 6) (management : Bool) (waited : Nat)
  | calibrationWindow (sill : SillId) (eyeBad : Bool)
  | patrolScrubRead (sill : SillId) (result : EccResult) (onDie : OnDieReport)
  | stackTempRead (sill : SillId) (celsius : Byte)
  -- the step, its verdict and its end
  | stepRecord
  | moduleFence (found : List (SillId × Nat))
  | verdictUp (src : BitVec 15) (context : DWord) (found : List (SillId × Nat))
  | verdictDown (src : BitVec 15) (context : DWord) (found : List (SillId × Nat))
  | verdictTimeout
  | stepEnd
  | deferLimitExpiry
  | autoBentScan
  | stepAbandon (die : DieId) (bay : BayIx)
  | drainTimeout
  -- firmware processors
  | stallWatchdog (b : BayId)
  | securityWatchdog
  | powerWatchdog
  | schedulerWatchdog
  | kingpostCoreTrap (core : CoreKind)
  | pairAliveTimeout (cause : KpFailure)
  | standbyFailure
  | edgeKingpostTimer
  | rollingActivation
  | rollingSwitch (declined : Bool)
  -- checkpoints
  | checkpointStopEnd
  | snapshotDrainEnd
  -- Mortise links
  | tenonSend (link : LinkId)
  | tenonReceive (link : LinkId) (t : ArrivedTenon)
  | creditAck (link : LinkId) (blk : CreditAck)
  | replayTimer (link : LinkId)
  | creditAckTimeout (link : LinkId)
  | linkRetraining (link : LinkId) (usable : BitVec 9) (far : Option HelloFields)
  | linkBringUp (link : LinkId) (usable far : BitVec 9)
  | hello (link : LinkId) (f : HelloFields)
  | laneFailure (link : LinkId) (lane : Fin 9) (why : LaneFault)
  | laneMap (link : LinkId) (lane : Fin 9) (replacement : Byte) (farFrame : Nat)
  | laneMapAck (link : LinkId) (farFrame : Nat)
  | laneSwitchFrame (link : LinkId)
  | creditHoldTimeout (link : LinkId) (vc : Fin 4)
  -- link-engine tenons (R220)
  | reduceData (src : BitVec 15) (context : DWord) (payload : List Byte)
  | gatherData (src : BitVec 15) (context : DWord) (payload : List Byte)
  | voteSigns (src : BitVec 15) (context : DWord) (payload : List Byte)
  | voteResult (src : BitVec 15) (context : DWord) (payload : List Byte)
  | dispatchCount (src : BitVec 15) (context : DWord) (payload : List Byte)
  | dispatchGrant (src : BitVec 15) (context : DWord) (payload : List Byte)
  | dispatchRows (src : BitVec 15) (context : DWord) (payload : List Byte)
  | combineRows (src : BitVec 15) (context : DWord) (payload : List Byte)
  | sendData (src : BitVec 15) (context : DWord) (payload : List Byte)
  -- clocks and board time
  | aonSample (cycles : List (DieId × Fin 17 × Nat × Nat))
  | marginReading (die : DieId) (dom : Fin 17) (code : BitVec 3)
  | timeMarkSend
  | timeMark (w : TimeWord) (offsetPs : Int)
  | markLoss
  -- draw, supplies, temperature
  | drawSample (watts : List Nat) (draw : DrawReading)
  | limiterShare (need : List Nat)
  | planMinuteBoundary
  | powerReserveRise
  | powerReserveFall
  | thermalSensorRead (s : Sensor) (celsius : Byte)
  | thermalTrip (s : Sensor)
  | supply48vLoss
  | supply48vReturn
  | auxLoss
  | moduleReset (p : ResetPulse)
  -- the scribe log
  | recordClose (subject : Word)
  | scribeMirror (slot : Nat)
  | i3cWriteIndex (standby : Bool) (bytes : List Byte)
  | i3cRead (standby : Bool)
  | i3cAcornWrite (bytes : List Byte)
  -- PLDM (R338)
  | getSensorReading (sensor : BitVec 16)
  | getPdr (record : Word)
  | getPdrRepositoryInfo
  | setEventReceiver (eid : Byte) (enabled : Bool)
  | getTid
  | getPldmTypes
  | getPldmVersion (type : Byte)
  | getPldmCommands (type : Byte)
  -- SPDM (R396)
  | getVersion (tr : Transport)
  | getCapabilities (tr : Transport) (flags : Word)
  | negotiateAlgorithms (tr : Transport) (offered : Word)
  | getDigests (tr : Transport)
  | getCertificate (tr : Transport) (slot : Byte) (offset length : Nat)
  | challenge (tr : Transport) (nonce : BitVec 256)
  | getMeasurements (tr : Transport) (index : Byte) (nonce : BitVec 256)
  | keyExchange (tr : Transport) (exchange : List Byte)
  | finish (tr : Transport) (session : Nat) (verify : List Byte)
  | spdmHeartbeat (tr : Transport) (session : Nat)
  | keyUpdate (tr : Transport) (session : Nat) (op : Byte)
  | endSession (tr : Transport) (session : Nat)
  | chunkSend (tr : Transport) (seqNo : Nat) (last : Bool) (data : List Byte)
  | chunkGet (tr : Transport) (handle seqNo : Nat)
  | respondIfReady (tr : Transport) (token : Nat)
  -- the remaining events
  | auxReturn
  | copyCompletion (ring : RingIx)
  | stagingComplete
  | kingpostCoreReturn (core : CoreKind)
  | evtConsumedWrite (value : Word)
  | selftestItemEnd
deriving DecidableEq, Repr

end Sys2Proof
end

