-- ==== Sys2Proof/Decode.lean ====
section
/-! DEFINITION. The command a word spells by the table's bits: no row of spec/opcode_table.json gives bits, so no word spells
a command there. The Onesk words, whose fields R258 gives and the table does not, spell the commands of the Onesk family. -/

namespace Sys2Proof

/-- The command of a word of `nbits` bits: none, since the table gives no row any bits. -/
def decodeTableWord (_nbits _w : Nat) : Option Instr := none

/-- A four-bit register field of an Onesk word (R258). -/
def oneskReg (w : BitVec 32) (at' : Nat) : Fin 16 := ⟨(w.extractLsb' at' 4).toNat, (w.extractLsb' at' 4).isLt⟩

/-- The counter that WAIT and READC name: IMM[4:0] (R258). -/
def oneskCounter (w : BitVec 32) : CtrIx := ⟨(w.extractLsb' 16 5).toNat, (w.extractLsb' 16 5).isLt⟩

/-- The command that an Onesk word spells for a thread: OP in [7:0], then D or COND, A, B or IMM, OFF or IMM20; none for an undefined
word (R258). -/
def oneskCommand (t : ThreadRef) (w : BitVec 32) : Option Instr :=
  let d := oneskReg w 8
  let a := oneskReg w 12
  let b := oneskReg w 16
  let imm : BitVec 16 := w.extractLsb' 16 16
  let imm20 : BitVec 20 := w.extractLsb' 12 20
  let rr (c : Instr) : Option Instr := if w.extractLsb' 20 12 = 0 then some c else none
  match (w.extractLsb' 0 8).toNat with
  | 0x00 => rr (.hold t)
  | 0x01 => rr (.sum t d a b)
  | 0x02 => rr (.diff t d a b)
  | 0x03 => rr (.prod t d a b)
  | 0x04 => rr (.band t d a b)
  | 0x05 => rr (.bor t d a b)
  | 0x06 => rr (.bxor t d a b)
  | 0x07 => rr (.lsh t d a b)
  | 0x08 => rr (.rsh t d a b)
  | 0x09 => rr (.rshs t d a b)
  | 0x0A => rr (.cmps t d a b)
  | 0x0B => rr (.cmpu t d a b)
  | 0x0C => rr (.copy t d a)
  | 0x11 => some (.sumi t d a imm)
  | 0x12 => some (.bandi t d a imm)
  | 0x13 => some (.bori t d a imm)
  | 0x14 => some (.lshi t d a imm)
  | 0x15 => some (.place t d (w.extractLsb' 12 4) imm)
  | 0x16 => some (.set t d imm20)
  | 0x18 => some (.load8 t d a imm)
  | 0x19 => some (.store8 t d a imm)
  | 0x1A => some (.load4 t d a imm)
  | 0x1B => some (.store4 t d a imm)
  | 0x20 => if d.val ≤ 5 then some (.test t (w.extractLsb' 8 4) a b (w.extractLsb' 20 12)) else none
  | 0x21 => some (.call t d imm20)
  | 0x22 => rr (.goto t a)
  | 0x28 => if d.val ≤ 5 then some (.push t (w.extractLsb' 8 4) a imm) else none
  | 0x29 => if d.val = 0 then some (.wait t (oneskCounter w) a) else none
  | 0x2A => some (.readc t d (oneskCounter w))
  | 0x2B => rr (.clock t d)
  | 0x3F => rr (.stop t)
  | _ => none

end Sys2Proof
end

