-- ==== Sys2Proof/Config.lean ====
section
/-! DEFINITION. What the spec leaves open: free values, which have no body, and the functions it names and does not define
(SHA-384, ECDSA, the private program form, table layouts it does not give). Nothing in Lean can evaluate one of these, so
no statement can rest on a value of it (log entries 8 to 12). -/

namespace Sys2Proof

/-- Free values: what the module shows where the spec states no value (log entry 8). The argument is the state's counter of
free values taken. -/
opaque Config.freeWord : Nat → DWord

/-- Free yes-or-no outcomes (log entry 8). -/
opaque Config.freeBit : Nat → Bool

/-- Sign of the zero that SILU, GELU, D_SILU or D_GELU, by its code, writes at minus infinity (R107; log entry 15). -/
opaque Config.zeroSign : Nat → Bool

/-- CODE of a scribe record whose event R416 names no code for, by the model's own number of the event (log entry 9). -/
opaque Config.unlistedCode : Nat → BitVec 16

/-- SHA-384, named and not defined by the spec (log entry 10). -/
opaque Config.sha384 : List Byte → BitVec 384

/-- An ECDSA P-384 signature by an Euneder update key verifies (R383; log entry 10). -/
opaque Config.verifyUpdate : List Byte → BitVec 768 → Bool

/-- An ECDSA P-384 signature by an Euneder debug key verifies (R397; log entry 10). -/
opaque Config.verifyDebug : List Byte → BitVec 768 → Bool

/-- An ECDSA P-384 signature by the given owner key verifies (R395; log entry 10). -/
opaque Config.verifyOwner : BitVec 768 → List Byte → BitVec 768 → Bool

/-- A 48-byte nonce (R395, R397; log entry 10). -/
opaque Config.nonce : Nat → BitVec 384

/-- The bytes of an SPDM response beyond its header, which SPDM 1.3 defines and the spec does not (R396; log entry 10). -/
opaque Config.spdmBody : Nat → Nat → List Byte

/-- The bytes of a MEASUREMENTS response with a block's index, its SHA-384 and the requester's nonce (R394, R396; log entry 10). -/
opaque Config.spdmMeasurement : Nat → BitVec 384 → BitVec 256 → List Byte

/-- SHA-384 of a component of an image, by the image's digest and the measurement index 1 to 7 (R394; log entry 10). -/
opaque Config.componentDigest : BitVec 384 → Nat → BitVec 384

/-- The terminus ID that the module was given (R338; log entry 29). -/
opaque Config.pldmTid : Byte

/-- The version that the module reports for a PLDM type (R338; log entry 29). -/
opaque Config.pldmVersion : Byte → Word

/-- An SPDM FINISH verifies (R396; log entry 10). -/
opaque Config.spdmFinishGood : Nat → List Byte → Bool

/-- LEDGER_MAP content: entry, FORMAT, SCALE; none where the section has the wrong length (R245; log entry 11). -/
opaque Config.parseLedgerMap : List Byte → Option (List (Nat × BitVec 2 × Byte))

/-- GROUPS content: the member lists (R216; log entry 11). -/
opaque Config.parseGroups : List Byte → Option (List (List Nat))

/-- Where the shards and the hyperparameter sets of an UPDATE_LIST section lie: the bytes of each 64-byte shard and of each
32-byte set (R162, R163; log entry 11). -/
opaque Config.splitUpdateList : List Byte → Option (List (List Byte) × List (List Byte))

/-- What the private CORE_IMAGE and SWITCH_PROGRAM sections of a die hold: their format is not documented, and what R74 to R88,
R100, R120 and R125 say of their content is not (R242; log entry 12). -/
opaque Config.privateProgram : List Byte → List Byte → DieProgram

/-- The byte offset in a private section at which the verifier finds what a reason of R252 names (R242, R252; log entry 12). -/
opaque Config.privateOffset : List Byte → Byte → Nat

/-- Slots that a die's switch-program store holds (R252; the spec gives no number; log entry 12). -/
opaque Config.switchStore : Nat

/-- What a cell or an entry that has lost its supply holds when it is powered again, by the state's counter of free values and
the place (R22, R314; log entry 8). -/
opaque Config.lostWord : Nat → Nat → Word

/-- Blocks, less one, of the last chunk of a collective entry whose lists do not own it, by the entry's CHUNKS, GRAD and ELEM (R217
says that the last chunk may be short and not where a sender learns it; log entry 130). -/
opaque Config.lastChunkBlocks : Nat → List Nat → List Nat → Nat

/-- The image that a DELTA package's copy-and-insert list makes of the source image with a given digest (R383; log 10). -/
opaque Config.applyDelta : BitVec 384 → List Byte → List Byte

/-- Settings FORMAT that an image's manifest names (R382; log entry 10). -/
opaque Config.imageFormat : List Byte → BitVec 16

/-- The interface versions of two images, by digest, meet R388 in the update order and in its reverse (log entry 10). -/
opaque Config.imagesCompatible : BitVec 384 → BitVec 384 → Bool

/-- The link-layer versions of an image, by digest, take a far side of these least and greatest versions (R385, R388; log entry
10). -/
opaque Config.linkAccepts : BitVec 384 → Byte → Byte → Bool

/-- What a conversion table makes of the entries of a record
of one settings FORMAT in another (R383, R384; log entry 10). -/
opaque Config.convertEntries : BitVec 16 → BitVec 16 → List (Word × Word) → List (Word × Word)

/-- The image reads base records of a settings FORMAT (R392; log entry 10). -/
opaque Config.readsFormat : BitVec 384 → BitVec 16 → Bool

/-- The old settings FORMAT can express a base record's entries (R389; log entry 10). -/
opaque Config.oldFormatHolds : BitVec 16 → List (Word × Word) → Bool

/-- The bytes of the parts record, by failed bents, retired bents and withdrawn buffers of each die (R349, R359, R360; the
spec gives no layout; log entry 11). -/
opaque Config.partsBytes : List (Nat × Nat × List Nat) → List Byte

/-- The three 16-bit check symbols of a sector, by its 64 bytes, its metadata symbol, and its stack, pseudo-channel and index (R150
names the code and not its polynomial; log entry 131). -/
opaque Config.checkSymbols : List Byte → Nat → Nat × Nat × Nat → BitVec 48

/-- Spare rows of each bank group of a stack (R157, R158; the spec gives no number; log entry 7). -/
opaque Config.spareRows : Nat

/-- Bank group of a pseudo-channel's bank (R157; JESD270-4 gives it and the spec does not; log entry 7). -/
opaque Config.bankGroup : Nat → Nat → Nat

end Sys2Proof
end

