-- ==== Sys2Proof/Machine/Formats.lean ====
section
/-! DEFINITION. The six number formats of the module (R26 to R38): exact dyadic values, decoding, and the one rounding rule of
R36. Every sum and product is formed exactly and rounded once. -/

namespace Sys2Proof.Machine

/-- A value as the module's units see it: NaN, an infinity, or the exact dyadic `(-1)^neg * m * 2^e`. -/
inductive Dyad where
  | nan
  | inf (neg : Bool)
  | fin (neg : Bool) (m : Nat) (e : Int)
deriving DecidableEq, Repr, Inhabited

/-- Positive zero. -/
def Dyad.zero : Dyad := .fin false 0 0

/-- One. -/
def Dyad.one : Dyad := .fin false 1 0

/-- The value of a natural number. -/
def Dyad.ofNat (n : Nat) : Dyad := .fin false n 0

/-- The value is a finite one. -/
def Dyad.isFinite : Dyad → Bool
  | .fin _ _ _ => true
  | _ => false

/-- The value is NaN. -/
def Dyad.isNan : Dyad → Bool
  | .nan => true
  | _ => false

/-- The value is a zero of either sign. -/
def Dyad.isZero : Dyad → Bool
  | .fin _ m _ => m == 0
  | _ => false

/-- The sign bit; clear for NaN (R35). -/
def Dyad.isNeg : Dyad → Bool
  | .nan => false
  | .inf n => n
  | .fin n _ _ => n

/-- Sign reversal. -/
def Dyad.negate : Dyad → Dyad
  | .nan => .nan
  | .inf n => .inf (!n)
  | .fin n m e => .fin (!n) m e

/-- Magnitude. -/
def Dyad.mag : Dyad → Dyad
  | .nan => .nan
  | .inf _ => .inf false
  | .fin _ m e => .fin false m e

/-- Multiplication by a power of two, exact. -/
def Dyad.scale2 (k : Int) : Dyad → Dyad
  | .fin n m e => .fin n m (e + k)
  | x => x

/-- `m * 2^(e - q)` for `q ≤ e`: the mantissa at a lower exponent. -/
def alignTo (m : Nat) (e q : Int) : Nat := m * 2 ^ (e - q).toNat

/-- Exact sum. A sum of finite values that is zero is +0, but for two negative zeros (IEEE 754 under R36). -/
def Dyad.add : Dyad → Dyad → Dyad
  | .nan, _ => .nan
  | _, .nan => .nan
  | .inf a, .inf b => if a == b then .inf a else .nan
  | .inf a, _ => .inf a
  | _, .inf b => .inf b
  | .fin s m e, .fin t n f =>
    let q := min e f
    let x : Int := if s then -(alignTo m e q : Int) else (alignTo m e q : Int)
    let y : Int := if t then -(alignTo n f q : Int) else (alignTo n f q : Int)
    let z := x + y
    if z = 0 then .fin (s && t) 0 0 else .fin (decide (z < 0)) z.natAbs q

/-- Exact difference. -/
def Dyad.sub (a b : Dyad) : Dyad := a.add b.negate

/-- Exact product; zero times infinity is NaN. -/
def Dyad.mul : Dyad → Dyad → Dyad
  | .nan, _ => .nan
  | _, .nan => .nan
  | .inf a, .inf b => .inf (a != b)
  | .inf a, .fin t n _ => if n = 0 then .nan else .inf (a != t)
  | .fin s m _, .inf b => if m = 0 then .nan else .inf (s != b)
  | .fin s m e, .fin t n f => .fin (s != t) (m * n) (e + f)

/-- `a < b` for values that are not NaN; false where one is. -/
def Dyad.lt (a b : Dyad) : Bool :=
  match a, b with
  | .nan, _ => false
  | _, .nan => false
  | .inf s, .inf t => s && !t
  | .inf s, .fin _ _ _ => s
  | .fin _ _ _, .inf t => !t
  | .fin s m e, .fin t n f =>
    let q := min e f
    let x : Int := if s then -(alignTo m e q : Int) else (alignTo m e q : Int)
    let y : Int := if t then -(alignTo n f q : Int) else (alignTo n f q : Int)
    decide (x < y)

/-- `a ≤ b` for values that are not NaN; false where one is. -/
def Dyad.le (a b : Dyad) : Bool := !a.isNan && !b.isNan && !b.lt a

/-- Exponent of the leading bit: `⌊log₂ |x|⌋` of a nonzero finite value. -/
def leadExp (m : Nat) (e : Int) : Int := (Nat.log2 m : Int) + e

/-! ## Rounding (R36) -/

/-- `m / 2^k` rounded to nearest, ties to even. -/
def shiftRound (m k : Nat) : Nat :=
  let d := m >>> k
  let r := m % 2 ^ k
  if k = 0 then m
  else if r > 2 ^ (k - 1) || (r == 2 ^ (k - 1) && d % 2 == 1) then d + 1 else d

/-- The magnitude bits of `m * 2^e` in a format with `f` fraction bits and least normal exponent `emin`: exponent field and
fraction field as one number, before any limit at the top of the range. -/
def roundBits (f : Nat) (emin : Int) (m : Nat) (e : Int) : Nat :=
  if m = 0 then 0
  else
    let q := max (leadExp m e - f) (emin - f)
    let n := if q ≤ e then m * 2 ^ (e - q).toNat else shiftRound m (q - e).toNat
    (q - (emin - f)).toNat * 2 ^ f + n

/-! ## H16, F32 and W40 (R33) -/

/-- Decoding of the layout of R33 with `f` fraction bits. -/
def decFloat (f : Nat) (bits : Nat) : Dyad :=
  let frac := bits % 2 ^ f
  let ex := bits / 2 ^ f % 256
  let neg := bits / 2 ^ (f + 8) % 2 == 1
  if ex = 255 then (if frac = 0 then .inf neg else .nan)
  else if ex = 0 then .fin neg frac (-126 - f)
  else .fin neg (2 ^ f + frac) ((ex : Int) - 127 - f)

/-- Encoding into the layout of R33: one rounding, canonical NaN (R35), infinity at the top (R36). -/
def encFloat (f : Nat) : Dyad → Nat
  | .nan => 511 * 2 ^ (f - 1)
  | .inf neg => (if neg then 2 ^ (f + 8) else 0) + 255 * 2 ^ f
  | .fin neg m e =>
    (if neg then 2 ^ (f + 8) else 0) + min (roundBits f (-126) m e) (255 * 2 ^ f)

/-- F32 decoding (R33). -/
def decF32 (w : Word) : Dyad := decFloat 23 w.toNat
/-- F32 encoding (R33, R36). -/
def encF32 (x : Dyad) : Word := BitVec.ofNat 32 (encFloat 23 x)
/-- H16 decoding (R33). -/
def decH16 (w : BitVec 16) : Dyad := decFloat 7 w.toNat
/-- H16 encoding (R33, R36). -/
def encH16 (x : Dyad) : BitVec 16 := BitVec.ofNat 16 (encFloat 7 x)
/-- W40 decoding (R33). -/
def decW40 (w : W40) : Dyad := decFloat 31 w.toNat
/-- W40 encoding (R33, R36). -/
def encW40 (x : Dyad) : W40 := BitVec.ofNat 40 (encFloat 31 x)

/-- One rounding to F32, as a value. -/
def rndF32 (x : Dyad) : Dyad := decF32 (encF32 x)

/-- F32 addition with one rounding (R36). -/
def addF32 (a b : Word) : Word := encF32 ((decF32 a).add (decF32 b))
/-- F32 multiplication with one rounding (R36). -/
def mulF32 (a b : Word) : Word := encF32 ((decF32 a).mul (decF32 b))
/-- W40 addition with one rounding (R44). -/
def addW40 (a b : W40) : W40 := encW40 ((decW40 a).add (decW40 b))

/-- The F32 value 1.0. -/
def f32One : Word := 0x3F800000

/-- An F32 word that holds an infinity or a NaN. -/
def f32NonFinite (w : Word) : Bool := !(decF32 w).isFinite

/-! ## A8, G8 and A4 elements (R30 to R32) -/

/-- The block formats. -/
inductive BlockFmt where
  | a8 | g8 | a4
deriving DecidableEq, Repr, Inhabited

/-- Elements in a block (R26). -/
def BlockFmt.size : BlockFmt → Nat
  | .a8 => 32
  | .g8 => 32
  | .a4 => 16

/-- Fraction bits of an element. -/
def BlockFmt.frac : BlockFmt → Nat
  | .a8 => 3
  | .g8 => 2
  | .a4 => 1

/-- Least normal exponent of an element. -/
def BlockFmt.emin : BlockFmt → Int
  | .a8 => -6
  | .g8 => -14
  | .a4 => 0

/-- Code of the largest finite magnitude. -/
def BlockFmt.maxCode : BlockFmt → Nat
  | .a8 => 0x7E
  | .g8 => 0x7B
  | .a4 => 0x7

/-- R as a dyadic: 448, 57,344 or 6 (R37). -/
def BlockFmt.limit : BlockFmt → Nat × Int
  | .a8 => (7, 6)
  | .g8 => (7, 13)
  | .a4 => (3, 1)

/-- Weight of the sign bit in a code. -/
def BlockFmt.signBit : BlockFmt → Nat
  | .a8 => 0x80
  | .g8 => 0x80
  | .a4 => 0x8

/-- The value of an element code before the block scale (R30, R31, R32). -/
def BlockFmt.element (k : BlockFmt) (code : Nat) : Dyad :=
  let neg := code / k.signBit % 2 == 1
  let mag := code % k.signBit
  let frac := mag % 2 ^ k.frac
  let ex := mag / 2 ^ k.frac
  let value : Dyad :=
    if ex = 0 then .fin neg frac (k.emin - k.frac)
    else .fin neg (2 ^ k.frac + frac) (k.emin - k.frac + (ex : Int) - 1)
  match k with
  | .a8 => if mag = 0x7F then .nan else value
  | .g8 => if mag = 0x7C then .inf neg else if mag > 0x7C then .nan else value
  | .a4 => value

/-- The value of an element under a scale byte: X = 0xFF is the NaN block (R27). -/
def BlockFmt.decode (k : BlockFmt) (x : Nat) (code : Nat) : Dyad :=
  if x = 0xFF then .nan else (k.element code).scale2 ((x : Int) - 127)

/-- The magnitude code of a finite quotient, saturated at the largest finite magnitude (R36, R39). -/
def BlockFmt.roundCode (k : BlockFmt) (m : Nat) (e : Int) : Nat := min (roundBits k.frac k.emin m e) k.maxCode

/-- The least `e` with `amax ≤ R * 2^e` for `amax = m * 2^e0` nonzero (R37). -/
def BlockFmt.scaleExp (k : BlockFmt) (m : Nat) (e0 : Int) : Int :=
  let (rm, re) := k.limit
  let c := leadExp m e0 - leadExp rm re
  if m * 2 ^ Nat.log2 rm ≤ rm * 2 ^ Nat.log2 m then c else c + 1

/-- The largest magnitude among the finite values of a block, as a dyadic (R37). -/
def amaxOf : List Dyad → Nat × Int
  | [] => (0, 0)
  | .fin _ m e :: rest =>
    let (n, f) := amaxOf rest
    if (Dyad.fin false n f).lt (.fin false m e) then (m, e) else (n, f)
  | _ :: rest => amaxOf rest

/-- The scale byte of the exact rule (R37). -/
def BlockFmt.exactScale (k : BlockFmt) (block : List Dyad) : Nat :=
  let (m, e) := amaxOf block
  if m = 0 then 0 else (127 + k.scaleExp m e).toNat

/-- An encoded block: its scale byte and element codes. -/
structure BlockCode where
  scale : Nat
  codes : List Nat
deriving DecidableEq, Repr, Inhabited

/-- The block is a NaN block by R35. -/
def BlockFmt.nanBlock (k : BlockFmt) (block : List Dyad) : Bool :=
  match k with
  | .g8 => false
  | _ => block.any fun x => !x.isFinite

/-- The code of one value under scale byte `x` (R35, R37, R39); a non-finite value only in G8. -/
def BlockFmt.codeOf (k : BlockFmt) (x : Nat) : Dyad → Nat
  | .nan => 0x7F
  | .inf neg => (if neg then 0x80 else 0) + 0x7C
  | .fin neg m e => (if neg then k.signBit else 0) + k.roundCode m (e - ((x : Int) - 127))

/-- Encoding of a block under a given scale byte, with the NaN block of R35. -/
def BlockFmt.encodeAt (k : BlockFmt) (x : Nat) (block : List Dyad) : BlockCode :=
  if k.nanBlock block then ⟨0xFF, block.map fun _ => 0⟩ else ⟨x, block.map (k.codeOf x)⟩

/-- Encoding under the exact rule (R37). -/
def BlockFmt.encodeExact (k : BlockFmt) (block : List Dyad) : BlockCode := k.encodeAt (k.exactScale block) block

/-! ## Bytes (R8: little-endian) -/

/-- `n` bytes of a number, least significant first. -/
def leBytes : Nat → Nat → List Byte
  | 0, _ => []
  | n + 1, v => BitVec.ofNat 8 v :: leBytes n (v / 256)

/-- The number whose little-endian bytes these are. -/
def leNat : List Byte → Nat
  | [] => 0
  | b :: rest => b.toNat + 256 * leNat rest

/-- Element codes as bytes: one each, or two nibbles a byte in A4 (R28). -/
def BlockFmt.packCodes (k : BlockFmt) (codes : List Nat) : List Byte :=
  match k with
  | .a4 =>
    let rec pair : List Nat → List Byte
      | [] => []
      | [a] => [BitVec.ofNat 8 a]
      | a :: b :: rest => BitVec.ofNat 8 (a + 16 * b) :: pair rest
    pair codes
  | _ => codes.map (BitVec.ofNat 8)

/-- Element codes from bytes. -/
def BlockFmt.unpackCodes (k : BlockFmt) (bytes : List Byte) : List Nat :=
  match k with
  | .a4 => bytes.flatMap fun b => [b.toNat % 16, b.toNat / 16]
  | _ => bytes.map BitVec.toNat

/-- Bytes that `n` elements take. -/
def BlockFmt.bytes (k : BlockFmt) (n : Nat) : Nat :=
  match k with
  | .a4 => (n + 1) / 2
  | _ => n

/-- The list cut into pieces of `n`, with fuel. -/
def chunksOf {α : Type} (n : Nat) : Nat → List α → List (List α)
  | 0, _ => []
  | fuel + 1, l => if l.isEmpty then [] else l.take n :: chunksOf n fuel (l.drop n)

/-- Blocks that `n` elements take. -/
def ceilDiv (n b : Nat) : Nat := (n + b - 1) / b

end Sys2Proof.Machine
end

