-- ==== Sys2Proof/Machine/Elementary.lean ====
section
/-! DEFINITION. The vector engine's functions (R107): quotients and roots are formed with a sticky bit, so that one rounding of the
result is correct; the transcendental ones are formed by integer series to about 300 bits of the result, far beyond what decides
a rounding to F32 (log entry 15). -/

namespace Sys2Proof.Machine

/-! ## Quotients and roots, exact under one rounding -/

/-- A natural quotient whose last bit is set when it is not exact. -/
def stickyDiv (a b : Nat) : Nat := 2 * (a / b) + (if a % b = 0 then 0 else 1)

/-- Bits kept in a quotient or a series. -/
def workBits : Nat := 400

/-- Quotient, IEEE 754 for zeros and infinities. -/
def Dyad.div : Dyad → Dyad → Dyad
  | .nan, _ => .nan
  | _, .nan => .nan
  | .inf _, .inf _ => .nan
  | .inf s, .fin t _ _ => .inf (s != t)
  | .fin s _ _, .inf t => .fin (s != t) 0 0
  | .fin s m e, .fin t n f =>
    if n = 0 then (if m = 0 then .nan else .inf (s != t))
    else
      let k := workBits + Nat.log2 n
      .fin (s != t) (stickyDiv (m * 2 ^ k) n) (e - f - k - 1)

/-- Integer square root by bits: the greatest `r` with `r * r ≤ n`, for `n < 4^fuel`. -/
def natSqrtBits (n : Nat) : Nat → Nat → Nat
  | 0, r => r
  | k + 1, r =>
    let c := r + 2 ^ k
    natSqrtBits n k (if c * c ≤ n then c else r)

/-- Integer square root. -/
def natSqrt (n : Nat) : Nat := natSqrtBits n (Nat.log2 n / 2 + 1) 0

/-- Square root; of a negative value NaN, of a zero the zero itself. -/
def Dyad.sqrt : Dyad → Dyad
  | .nan => .nan
  | .inf s => if s then .nan else .inf false
  | .fin s m e =>
    if m = 0 then .fin s 0 0
    else if s then .nan
    else
      let odd := e % 2 ≠ 0
      let m' := (if odd then 2 * m else m) * 4 ^ workBits
      let e' := if odd then e - 1 else e
      let r := natSqrt m'
      .fin false (2 * r + (if r * r = m' then 0 else 1)) (e' / 2 - workBits - 1)

/-- Reciprocal square root. -/
def Dyad.rsqrt : Dyad → Dyad
  | .nan => .nan
  | .inf s => if s then .nan else .fin false 0 0
  | .fin s m e =>
    if m = 0 then .inf s
    else if s then .nan
    else
      let odd := e % 2 ≠ 0
      let m' := if odd then 2 * m else m
      let e' := if odd then e - 1 else e
      let k := workBits + Nat.log2 m'
      let r := natSqrt (4 ^ k / m')
      .fin false (2 * r + (if m' * (r * r) = 4 ^ k then 0 else 1)) (-(e' / 2) - k - 1)

/-! ## Series in fixed point -/

/-- A value in fixed point with `p` fraction bits, rounded down in magnitude. -/
def Dyad.fixed (p : Nat) : Dyad → Int
  | .fin s m e =>
    let v : Nat := if 0 ≤ e + p then m * 2 ^ (e + p).toNat else m / 2 ^ (-(e + p)).toNat
    if s then -(v : Int) else v
  | _ => 0

/-- A fixed-point number as a value. -/
def ofFixed (p : Nat) (x : Int) : Dyad := .fin (decide (x < 0)) x.natAbs (-(p : Int))

/-- `sum over j of t * x^j / (a (a+1) ... )`: Horner-free Taylor sum with term ratio `x / (k + j)`. -/
def expTerms (p : Nat) (x : Int) : Nat → Nat → Int → Int
  | 0, _, t => t
  | fuel + 1, k, t => if t = 0 then 0 else t + expTerms p x fuel (k + 1) (t * x / (2 ^ p * (k : Int)))

/-- `sum of z^(2j) / (2j+1)` from a term `t = z^(2j)`. -/
def atanhTerms (p : Nat) (z2 : Int) : Nat → Nat → Int → Int
  | 0, _, _ => 0
  | fuel + 1, k, t => if t = 0 then 0 else t / (k : Int) + atanhTerms p z2 fuel (k + 2) (t * z2 / 2 ^ p)

/-- Series steps: enough for 600 bits at the slowest ratio used. -/
def seriesFuel : Nat := 700

/-- ln 2 = 2 atanh(1/3), with `p` fraction bits. -/
def ln2Fixed (p : Nat) : Int := 2 * atanhTerms p (2 ^ p / 9) seriesFuel 1 (2 ^ p / 3)

/-- atan(1/n) with `p` fraction bits. -/
def atanInv (p n : Nat) : Int := atanhTerms p (-(2 ^ p / ((n * n : Nat) : Int))) seriesFuel 1 (2 ^ p / (n : Int))

/-- pi by Machin's formula, with `p` fraction bits. -/
def piFixed (p : Nat) : Int := 16 * atanInv p 5 - 4 * atanInv p 239

/-- A value too small for any format, of a sign. -/
def tiny (neg : Bool) : Dyad := .fin neg 1 (-1000)

/-- A value too large for any format, of a sign. -/
def huge (neg : Bool) : Dyad := .fin neg 1 1000

/-- The value is above `k` in magnitude. -/
def Dyad.beyond (x : Dyad) (k : Nat) : Bool := (Dyad.ofNat k).lt x.mag

/-- e^x for a finite x. -/
def expFin (x : Dyad) : Dyad :=
  if x.beyond 400 then (if x.isNeg then tiny false else huge false)
  else
    let p := workBits
    let l := ln2Fixed p
    let v := x.fixed p
    let k := v / l
    let r := v - k * l
    (ofFixed p (expTerms p r seriesFuel 1 (2 ^ p))).scale2 k

/-- e^x - 1 for a finite x, without cancellation near zero. -/
def expm1Fin (x : Dyad) : Dyad :=
  if x.isZero then x
  else if x.beyond 1 then (expFin x).sub .one
  else
    let p := workBits
    x.mul (ofFixed p (expTerms p (x.fixed p) seriesFuel 2 (2 ^ p)))

/-- 2 atanh(z) for a small z, without cancellation near zero. -/
def atanh2 (z : Dyad) : Dyad :=
  let p := workBits
  let f := z.fixed p
  ((z.mul (ofFixed p (atanhTerms p (f * f / 2 ^ p) seriesFuel 1 (2 ^ p))))).scale2 1

/-- ln x for a positive finite x. -/
def logFin : Dyad → Dyad
  | .fin _ m e =>
    let top := leadExp m e
    let f := Dyad.fin false m (e - top)
    let (f, k) := if (Dyad.fin false 3 (-1)).lt f then (f.scale2 (-1), top + 1) else (f, top)
    let part := atanh2 ((f.sub .one).div (f.add .one))
    if k = 0 then part else ((ofFixed workBits (k * ln2Fixed workBits))).add part
  | x => x

/-- ln (1 + x) for a finite x above -1. -/
def log1pFin (x : Dyad) : Dyad :=
  if x.isZero then x
  else if x.mag.lt (.fin false 1 (-2)) then atanh2 (x.div ((Dyad.ofNat 2).add x))
  else logFin (Dyad.one.add x)

/-- 1 / (1 + e^-x). -/
def sigmoidFin (x : Dyad) : Dyad := Dyad.one.div (Dyad.one.add (expFin x.negate))

/-- tanh x for a finite x. -/
def tanhFin (x : Dyad) : Dyad :=
  if x.isZero then x
  else
    let a := x.mag
    let t := expm1Fin (a.scale2 1)
    let r := t.div (t.add (Dyad.ofNat 2))
    if x.isNeg then r.negate else r

/-- ln (1 + e^x). -/
def softplusFin (x : Dyad) : Dyad := if x.beyond 400 && !x.isNeg then x else log1pFin (expFin x)

/-- The argument `u` of GELU's tanh and its derivative (R107), with constants to the working precision. -/
def geluInner (x : Dyad) : Dyad × Dyad :=
  let p := workBits
  let c := (((Dyad.ofNat 2).div (ofFixed p (piFixed p)))).sqrt
  let k := (Dyad.ofNat 44715).div (Dyad.ofNat 1000000)
  let x2 := x.mul x
  (c.mul (x.mul (Dyad.one.add (k.mul x2))), c.mul (Dyad.one.add ((Dyad.ofNat 3).mul (k.mul x2))))

/-- GELU in its tanh form: x / (1 + e^(-2u)). -/
def geluFin (x : Dyad) : Dyad :=
  if x.isZero then x else x.div (Dyad.one.add (expFin ((geluInner x).1.scale2 1).negate))

/-- SiLU: x / (1 + e^-x). -/
def siluFin (x : Dyad) : Dyad := if x.isZero then x else x.div (Dyad.one.add (expFin x.negate))

/-- SiLU' = s (1 + x (1 - s)). -/
def dSiluFin (x : Dyad) : Dyad :=
  (sigmoidFin x).mul (Dyad.one.add (x.mul (sigmoidFin x.negate)))

/-- GELU' = s (1 + 2 x u' (1 - s)) with s = 1 / (1 + e^(-2u)). -/
def dGeluFin (x : Dyad) : Dyad :=
  let (u, du) := geluInner x
  let w := u.scale2 1
  (sigmoidFin w).mul (Dyad.one.add (((x.mul du).scale2 1).mul (sigmoidFin w.negate)))

/-- Terms of sine or cosine: `t - t r2 / (k (k+1)) + ...`. -/
def trigTerms (p : Nat) (r2 : Int) : Nat → Nat → Int → Int
  | 0, _, t => t
  | fuel + 1, k, t =>
    if t = 0 then 0 else t + trigTerms p r2 fuel (k + 2) (-(t * r2) / (2 ^ p * ((k * (k + 1) : Nat) : Int)))

/-- Fraction bits of the sine's argument reduction: an F32 argument reaches 2^128. -/
def trigBits : Nat := 640

/-- The quadrant and the rest of a finite argument, the rest in fixed point. -/
def quadrant (x : Dyad) : Int × Int :=
  let p := trigBits
  let h := piFixed (p + 160) / 2 ^ 161
  let hp := piFixed (p + 160)
  let v := x.fixed (p + 160)
  let q := (2 * v + hp / 2) / hp
  let r := (2 * v - q * hp) / 2 ^ 161
  (q % 4, if h = 0 then 0 else r)

/-- sin r near zero, keeping the relative precision. -/
def sinNear (r : Int) : Dyad :=
  let p := trigBits
  (ofFixed p r).mul (ofFixed p (trigTerms p (r * r / 2 ^ p) seriesFuel 2 (2 ^ p)))

/-- cos r near zero. -/
def cosNear (r : Int) : Dyad :=
  let p := trigBits
  ofFixed p (trigTerms p (r * r / 2 ^ p) seriesFuel 1 (2 ^ p))

/-- Sine of a finite argument. -/
def sinFin (x : Dyad) : Dyad :=
  if x.isZero then x
  else
    let (q, r) := quadrant x
    if q = 0 then sinNear r else if q = 1 then cosNear r else if q = 2 then (sinNear r).negate else (cosNear r).negate

/-- Cosine of a finite argument. -/
def cosFin (x : Dyad) : Dyad :=
  let (q, r) := quadrant x
  if q = 0 then cosNear r else if q = 1 then (sinNear r).negate else if q = 2 then (cosNear r).negate else sinNear r

/-! ## The functions with their non-finite cases (IEEE 754 for NaN, infinities and domain errors) -/

/-- A function given by its finite case and its values at the two infinities. -/
def byCase (fin : Dyad → Dyad) (atPlus atMinus : Dyad) : Dyad → Dyad
  | .nan => .nan
  | .inf s => if s then atMinus else atPlus
  | x => fin x

/-- Exponential. -/
def Dyad.exp : Dyad → Dyad := byCase expFin (.inf false) .zero
/-- Base-two exponential: 2^x. -/
def Dyad.exp2 : Dyad → Dyad :=
  byCase (fun x =>
    if x.beyond 400 then (if x.isNeg then tiny false else huge false)
    else
      let p := workBits
      let v := x.fixed p
      let k := v / 2 ^ p
      let r := v - k * 2 ^ p
      (ofFixed p (expTerms p (r * ln2Fixed p / 2 ^ p) seriesFuel 1 (2 ^ p))).scale2 k) (.inf false) .zero
/-- e^x - 1. -/
def Dyad.expm1 : Dyad → Dyad := byCase expm1Fin (.inf false) Dyad.one.negate
/-- A logarithm: of a zero minus infinity, of a negative value NaN. -/
def logCase (f : Dyad → Dyad) : Dyad → Dyad :=
  byCase (fun x => if x.isZero then .inf true else if x.isNeg then .nan else f x) (.inf false) .nan
/-- Natural logarithm. -/
def Dyad.log : Dyad → Dyad := logCase logFin
/-- Base-two logarithm. -/
def Dyad.log2 : Dyad → Dyad := logCase fun x => (logFin x).div (ofFixed workBits (ln2Fixed workBits))
/-- ln (1 + x): at -1 minus infinity, below it NaN. -/
def Dyad.log1p : Dyad → Dyad :=
  byCase (fun x =>
    let y := Dyad.one.add x
    if y.isZero then .inf true else if y.isNeg then .nan else log1pFin x) (.inf false) .nan
/-- Logistic function. -/
def Dyad.sigmoid : Dyad → Dyad := byCase sigmoidFin .one .zero
/-- Hyperbolic tangent. -/
def Dyad.tanh : Dyad → Dyad := byCase tanhFin .one Dyad.one.negate
/-- Softplus. -/
def Dyad.softplus : Dyad → Dyad := byCase softplusFin (.inf false) .zero
/-- The zero that an operation with limit zero gives at minus infinity; its sign is free (R107; log entry 15). -/
def freeZero (op : Nat) : Dyad := .fin (Config.zeroSign op) 0 0
/-- SiLU; at minus infinity the limit zero. -/
def Dyad.silu : Dyad → Dyad := byCase siluFin (.inf false) (freeZero 0x19)
/-- GELU, tanh form; at minus infinity the limit zero. -/
def Dyad.gelu : Dyad → Dyad := byCase geluFin (.inf false) (freeZero 0x1A)
/-- Derivative of SiLU; at the infinities its limits (log entry 15). -/
def Dyad.dSilu : Dyad → Dyad := byCase dSiluFin .one (freeZero 0x1B)
/-- Derivative of GELU; at the infinities its limits (log entry 15). -/
def Dyad.dGelu : Dyad → Dyad := byCase dGeluFin .one (freeZero 0x1C)
/-- Sine; of an infinity NaN. -/
def Dyad.sin : Dyad → Dyad := byCase sinFin .nan .nan
/-- Cosine; of an infinity NaN. -/
def Dyad.cos : Dyad → Dyad := byCase cosFin .nan .nan
/-- Reciprocal. -/
def Dyad.recip (x : Dyad) : Dyad := Dyad.one.div x

end Sys2Proof.Machine
end

