-- ==== Sys2Proof/Machine/State.lean ====
section
/-! DEFINITION. The state of one Diuth module as plain data. Every field's docstring gives its width, the rule that
names it, and its reset value; the default value of the field IS its reset value, so `State.reset` is the structure of
all defaults. "log n" names notes/assumptions/n.md. -/

namespace Sys2Proof.Machine

/-- Sparse byte memory in canonical form: addresses strictly rising, no byte that an unlisted address reads as. -/
abbrev Memory := List Host.Cell

/-- A sparse array in the same canonical form. -/
abbrev Sparse (α : Type) := List (Nat × α)

/-! ## Why a step can stop -/

/-- Faults of a step. -/
inductive Fault where
  /-- No meaning raises this: the spec gives every command an effect (a dropped write, a status code, a fault record).
  It stands so that the type is inhabited. Safe: a stop where hardware goes on. -/
  | none
deriving DecidableEq, Repr

/-- Refusals of a step. -/
inductive Refusal where
  /-- Raised by `exec` for a command that has no meaning yet; no arm raises it. Safe. -/
  | notModelled (mnemonic : String)
deriving DecidableEq, Repr

/-! ## KP block (R401 to R403) -/

/-- The KP block and the module state. -/
structure Kp where
  /-- 128 bits; 19 R401: fused unique ID; reset DESIGN CHOICE 0 (log 1). -/
  uid : BitVec 128 := 0
  /-- 8 bits; 19 R402: KP_IDENTITY.PART, fused; reset DESIGN CHOICE 0x01, a DTH-256 (log 1). -/
  part : Byte := 0x01
  /-- 8 bits; 19 R402: KP_IDENTITY.STEPPING; reset 0xB1 (spec). -/
  stepping : Byte := 0xB1
  /-- 5 bits; 00 R1, 19 R402: KP_IDENTITY.GRADE, fused; reset DESIGN CHOICE 16 (log 1). -/
  grade : Nat := 16
  /-- 5 bits; 00 R2, 19 R402: present shape; reset the grade (spec: "grade"). -/
  shape : Nat := 16
  /-- 32 bits; 19 R401: KP_BOOT_COUNT, from MRAM; reset DESIGN CHOICE 0 (log 1). -/
  bootCount : Nat := 0
  /-- 3 bits; 00 R11, 19 R402: KP_STATE.STATE; reset BOOT (spec 0b000). -/
  state : ModState := .boot
  /-- 6 bits; 16 R357, 19 R402: KP_STATE.REPLACE_CAUSE; reset 0 (spec). -/
  causes : BitVec 6 := 0
  /-- 1 bit; 19 R401: KP_PEG.PEG; reset 0 (spec). -/
  peg : Bool := false
  /-- 1 bit; 19 R403: a peg write accepted and not yet answered; reset DESIGN CHOICE clear (log 2). -/
  pegPending : Bool := false
  /-- 32 bits; 12 R266: KP_SETUP_ERROR; reset 0 (spec). -/
  setupError : Word := 0
  /-- 32 bits; 19 R401: KP_MODULE_ID; reset 0 (spec). -/
  moduleId : Word := 0
  /-- 32 bits; 19 R401: KP_BOARD_ID; reset 0 (spec). -/
  boardId : Word := 0
  /-- 32 bits; 19 R401: KP_DROPPED_WRITES; reset 0 (spec). -/
  droppedWrites : Word := 0
  /-- 32 bits; 19 R401: KP_DROPPED_LAST; reset 0 (spec). -/
  droppedLast : Word := 0
  /-- 1 bit; 13 R301: KP_FW_STATUS.TAKEOVER, sticky; reset 0 (spec). -/
  takeover : Bool := false
deriving DecidableEq, Repr

/-! ## Host port (R261 to R282) -/

/-- A descriptor read from a ring and not yet completed (R270). -/
structure HeldDesc where
  seqNo   : Nat
  index   : Word
  desc    : JobDesc
  started : Bool
deriving DecidableEq, Repr

/-- A completion record (R275) with its ring. -/
structure Completion where
  ring    : RingIx
  tag     : Word
  index   : Word
  status  : Status
  kind    : Byte
  attempt : BitVec 4
  verdict : BitVec 3
  detail  : Word
  step    : DWord
  time    : Word
  irq     : Bool
deriving DecidableEq, Repr

/-- One job ring (R264, R270, R276). -/
structure HostRing where
  /-- 32 bits; 12 R264: HOST_RING_LO; reset 0 (spec). -/
  lo : Word := 0
  /-- 32 bits; 12 R264: HOST_RING_HI; reset 0 (spec). -/
  hi : Word := 0
  /-- 32 bits; 12 R264: HOST_CPL_LO; reset 0 (spec). -/
  cplLo : Word := 0
  /-- 32 bits; 12 R264: HOST_CPL_HI; reset 0 (spec). -/
  cplHi : Word := 0
  /-- 32 bits; 19 R404: HOST_RING_CTRL; reset 0 (spec). -/
  ctrl : Word := 0
  /-- 32 bits; 12 R264: HOST_RING_CONSUMED; reset 0 (spec). -/
  consumed : Word := 0
  /-- 32 bits; 12 R264: HOST_RING_COMPLETED; reset 0 (spec). -/
  completed : Word := 0
  /-- list of up to 64 descriptors; 12 R270: read and not completed, oldest first; reset empty, DESIGN CHOICE (log 2). -/
  held : List HeldDesc := []
  /-- 1 bit; 12 R276: an interrupt hold-off is running; reset DESIGN CHOICE clear (log 2). -/
  holdoff : Bool := false
  /-- 1 bit; 12 R276: a record was written during the hold-off with IRQ; reset DESIGN CHOICE clear (log 2). -/
  owed : Bool := false
  /-- count; 12 R269: ring errors; reset DESIGN CHOICE 0 (log 2). -/
  errors : Nat := 0
  /-- count; 12 R280: records that overflowed the journal; reset DESIGN CHOICE 0 (log 2). -/
  overflowed : Nat := 0
deriving DecidableEq, Repr

/-- The HOST block, the port and the doorbell poll. -/
structure HostPort where
  /-- 32 bits; 12 R264: HOST_DB_LO; reset 0 (spec). -/
  dbLo : Word := 0
  /-- 32 bits; 12 R264: HOST_DB_HI; reset 0 (spec). -/
  dbHi : Word := 0
  /-- 32 bits; 19 R404: HOST_CTRL; reset 0 (spec). -/
  ctrl : Word := 0
  /-- 1 bit; 19 R404: HOST_STATUS.ATTACHED; reset 0 (spec). -/
  attached : Bool := false
  /-- 1 bit; 19 R404: HOST_STATUS.DRIVER_LOST; reset 0 (spec). -/
  driverLost : Bool := false
  /-- 1 bit; 19 R404: HOST_STATUS.ADOPTED; reset 0 (spec). -/
  adopted : Bool := false
  /-- 3 bits; 12 R279: cause 1 to 5 of the loss in force, 0 none; reset DESIGN CHOICE 0 (log 2). -/
  lossCause : Nat := 0
  /-- 1 bit; 12 R279: ORPHANED is due at the next fence; reset DESIGN CHOICE clear (log 2). -/
  orphanDue : Bool := false
  /-- 32 bits; 12 R264: HOST_APERTURE_LO; reset 0 (spec). -/
  apertureLo : Word := 0
  /-- 32 bits; 12 R264: HOST_APERTURE_HI; reset 0 (spec). -/
  apertureHi : Word := 0
  /-- 32 bits; 12 R264: HOST_DROPS; reset 0 (spec). -/
  drops : Word := 0
  /-- 16 rings; 12 R264; reset see the ring's fields. -/
  rings : Vector HostRing 16 := Vector.replicate 16 {}
  /-- count; 12 R273: descriptors read on all rings, which orders MARKER; reset DESIGN CHOICE 0 (log 2). -/
  readSeq : Nat := 0
  /-- 64 bits; 12 R278: HEARTBEAT as last read; reset DESIGN CHOICE 0 (log 2). -/
  heartbeat : DWord := 0
  /-- microseconds of AON time; 12 R278: when HEARTBEAT last changed; reset DESIGN CHOICE 0 (log 2). -/
  heartbeatAt : Nat := 0
  /-- seconds; 12 R278: the heartbeat timeout; reset 30 (spec: default). -/
  heartbeatTimeout : Nat := 30
  /-- 1 bit; 12 R268: KP_NUDGE has woken the scheduler; reset DESIGN CHOICE clear (log 2). -/
  nudged : Bool := false
  /-- 1 bit; 12 R279: Bus Master Enable; reset 0, PRESUMED (log 4: the PCI command register's). -/
  busMaster : Bool := false
  /-- 1 bit; 19 R418: MSI-X Enable; reset 0, PRESUMED (log 4). -/
  msixEnable : Bool := false
  /-- 64 entries of 16 bytes; 12 R262: MSI-X table; reset every vector masked and all else 0, PRESUMED (log 4). -/
  msixTable : Memory := (List.range 64).map fun v => (16 * v + 12, 1)
  /-- 64 bits; 12 R262: MSI-X pending bits; reset 0, PRESUMED (log 4). -/
  msixPending : BitVec 64 := 0
  /-- list; 12 R276, R283: vectors raised so far, newest last; reset DESIGN CHOICE empty (log 2). -/
  raised : List Nat := []
  /-- bytes; 12: host memory as the module has written it; reset DESIGN CHOICE nothing written (log 3). -/
  memory : Memory := []
  /-- list; 13 R290, R303: completions the restarting scheduler core has yet to write; reset DESIGN CHOICE empty (log 2). -/
  paused : List Completion := []
  /-- 16 bits; 12 R261: Link Status, the rate in [3:0] and the width in [9:4]; reset 0, PRESUMED (log 4: a link that has not
  trained). -/
  linkStatus : BitVec 16 := 0
  /-- count; 12 R261: AER uncorrectable errors reported; reset DESIGN CHOICE 0 (log 2). -/
  aer : Nat := 0
deriving DecidableEq, Repr

/-! ## Management area (R277, R283 to R287) -/

/-- An event entry (R287), its bytes 16 to 63 as one number. -/
structure Event where
  kind   : Byte
  status : Status
  state  : BitVec 3
  tag    : Word
  time   : DWord
  data   : BitVec 384
deriving DecidableEq, Repr

/-- The management area of BAR2 and the request and event rings. -/
structure Mgmt where
  /-- 256 bits; 12 R283, R284: OFFER; reset bits 0 to 8 (spec). -/
  offer : BitVec 256 := 0x1FF
  /-- 256 bits; 12 R283: ACCEPTED; reset 0 (spec). -/
  accepted : BitVec 256 := 0
  /-- 32 bits; 12 R283: REQ_PRODUCED; reset DESIGN CHOICE 0 (log 2). -/
  reqProduced : Word := 0
  /-- 32 bits; 12 R283: REQ_CONSUMED; reset DESIGN CHOICE 0 (log 2). -/
  reqConsumed : Word := 0
  /-- 32 bits; 12 R283: EVT_PRODUCED; reset DESIGN CHOICE 0 (log 2). -/
  evtProduced : Word := 0
  /-- 32 bits; 12 R283: EVT_CONSUMED; reset DESIGN CHOICE 0 (log 2). -/
  evtConsumed : Word := 0
  /-- up to 4,096 entries; 12 R277, R283: the event ring's entries, oldest first, those already read among them; reset DESIGN
  CHOICE empty (log 2). -/
  events : List Event := []
  /-- list; 12 R283: events that wait for room in the ring; reset DESIGN CHOICE empty (log 2). -/
  waiting : List Event := []
  /-- up to 65,536 records; 12 R280: the completion journal, in order; reset DESIGN CHOICE empty (log 2). -/
  journal : List Completion := []
  /-- 1 MiB; 12 R277: payload scratch; reset DESIGN CHOICE bytes 0 (log 3). -/
  scratch : Memory := []
  /-- 64 KiB; 12 R277: what the host has written to the request ring; reset DESIGN CHOICE bytes 0 (log 3). -/
  reqRing : Memory := []
  /-- list; 13 R290: requests held while the scheduler core restarts; reset DESIGN CHOICE empty (log 2). -/
  heldScheduler : List (ReqHead × Request) := []
  /-- optional AON microseconds; 12 R283: when the event vector was last raised; reset DESIGN CHOICE none (log 2). -/
  raisedAt : Option Nat := none
  /-- 1 bit; 12 R283: the event vector is owed; reset DESIGN CHOICE clear (log 2). -/
  owed : Bool := false
  /-- list; 13 R290: LOAD and update requests held while the security core restarts; reset DESIGN CHOICE empty (log 2). -/
  heldSecurity : List (ReqHead × Request) := []
deriving DecidableEq, Repr

/-! ## What a read or a reply last returned -/

/-- The answers of the block's ports, as the requester last saw them. -/
structure Io where
  /-- 32 bits; 19 R400: the value the last BAR0 read returned; reset DESIGN CHOICE 0 (log 2). -/
  bar0 : Word := 0
  /-- bytes; 12 R263: what the last aperture read returned; reset DESIGN CHOICE empty (log 2). -/
  bar2 : List Byte := []
  /-- bytes; 16 R350: what the last I3C private read returned; reset DESIGN CHOICE empty (log 2). -/
  i3c : List Byte := []
  /-- bytes; 15 R338: the last PLDM response; reset DESIGN CHOICE empty (log 2). -/
  pldm : List Byte := []
  /-- bytes; 18 R396: the last SPDM response; reset DESIGN CHOICE empty (log 2). -/
  spdm : List Byte := []
deriving DecidableEq, Repr

/-! ## Clocks and board time (R315 to R325) -/

/-- The CLK block and the time unit. -/
structure Clk where
  /-- 32 bits; 14 R324: CLK_TIME_CTRL; reset 0 (spec). -/
  timeCtrl : Word := 0
  /-- 32 bits; 14 R323: CLK_IN_DELAY; reset 0 (spec). -/
  inDelay : Word := 0
  /-- 32 bits; 14 R323: CLK_FAST_MAX; reset 0x0000_4848 (spec). -/
  fastMax : Word := 0x4848
  /-- 1 bit; 14 R325: TIME_VALID; reset 0 (spec). -/
  valid : Bool := false
  /-- 1 bit; 14 R325: TIME_LOCKED; reset 0 (spec). -/
  locked : Bool := false
  /-- 1 bit; 14 R325: FREE_RUNNING of a follower in holdover; reset 0 (spec). -/
  holdover : Bool := false
  /-- 1 bit; 14 R325: SLEWING; reset 0 (spec). -/
  slewing : Bool := false
  /-- 1 bit; 14 R325: SOURCE_BEHIND; reset 0 (spec). -/
  behind : Bool := false
  /-- 4 bits; 14 R325: CLK_EVENTS; reset 0 (spec). -/
  events : BitVec 4 := 0
  /-- 32 bits; 14 R323: CLK_OFFSET, picoseconds; reset 0 (spec). -/
  offset : Word := 0
  /-- 32 bits; 14 R323: CLK_NOW_HI as latched; reset 0 (spec). -/
  nowHi : Word := 0
  /-- 32 bits; 14 R323: CLK_LOAD_LO; reset 0 (spec). -/
  loadLo : Word := 0
  /-- 32 bits; 14 R323: CLK_LOAD_HI; reset 0 (spec). -/
  loadHi : Word := 0
  /-- optional 64 bits; 14 R322: a load waiting for the next whole millisecond; reset DESIGN CHOICE none (log 2). -/
  pendingLoad : Option DWord := none
  /-- 32 bits; 14 R323: CLK_MARK_ERRORS; reset 0 (spec). -/
  markErrors : Word := 0
  /-- 64 bits; 14 R322: board time in ns; reset 0 (spec: from 0 after BOOT). -/
  boardTime : DWord := 0
  /-- 64 bits; 14 R315: board time T_s of the latest AON sample; reset DESIGN CHOICE 0 (log 2). -/
  sampledAt : DWord := 0
  /-- microseconds; 14 R317: elapsed AON time since BOOT; reset 0 (log 2). -/
  aonMicros : Nat := 0
  /-- optional 8 bits; 14 R320: SEQ of the previous mark; reset DESIGN CHOICE none (log 2). -/
  lastSeq : Option Byte := none
  /-- optional 64 bits; 14 R320: TIME of the previous mark; reset DESIGN CHOICE none (log 2). -/
  lastTime : Option DWord := none
  /-- 8 bits; 14 R319: SEQ of the next mark sent; reset DESIGN CHOICE 0 (log 2). -/
  outSeq : Byte := 0
  /-- optional word; 14 R319: the time word last driven on TIME_OUT; reset DESIGN CHOICE none (log 2). -/
  lastSent : Option TimeWord := none
  /-- signed tenths of a ns; 14 R320, R321: what steering or a slew has still to make up; reset DESIGN CHOICE 0 (log 2). -/
  slewLeft : Int := 0
  /-- optional ns; 14 R321: a forward step due at the next mark; reset DESIGN CHOICE none (log 2). -/
  stepDue : Option Nat := none
deriving DecidableEq, Repr

/-! ## Power (R328 to R341) -/

/-- One draw-plan entry (R329). -/
structure PlanEntry where
  ceiling : BitVec 16
  floor   : BitVec 16
  ramp    : BitVec 16
deriving DecidableEq, Repr

/-- The PWR block and the power core's working state. -/
structure Pwr where
  /-- 32 bits; 15 R341: PWR_DEFAULT; reset 0x0000_00B4 (spec). -/
  default : Word := 0xB4
  /-- 32 bits; 15 R340: PWR_DEFAULT_RAMP; reset 0 (spec). -/
  defaultRamp : Word := 0
  /-- 32 bits; 15 R340: PWR_RESERVE_CEIL; reset 0x0000_0032 (spec). -/
  reserveCeil : Word := 0x32
  /-- minute number to entry; 15 R329, R330: the draw plan; reset empty (spec: a module reset discards it). -/
  plan : List (Nat × Nat × PlanEntry) := []
  /-- 1 bit; 15 R331: the reserve ceiling is in force; reset 0 (spec). -/
  reserve : Bool := false
  /-- 1 bit; 15 R340: THROTTLING; reset 0 (spec). -/
  throttling : Bool := false
  /-- 1 bit; 15 R340: GATING; reset 0 (spec). -/
  gating : Bool := false
  /-- 1 bit; 15 R340: FLOOR_SHORT; reset 0 (spec). -/
  floorShort : Bool := false
  /-- 16 sites, up to 1,024 samples each, newest first, in W; 13 R291; reset DESIGN CHOICE empty (log 2). -/
  samples : Vector (List Nat) 16 := Vector.replicate 16 []
  /-- 16 sites, W; 13 R291, 15 R334: the 10 ms share written to each limiter; reset DESIGN CHOICE 1,406 each, 1.25 x 18 kW / 16
  (log 5). -/
  shares : Vector Nat 16 := Vector.replicate 16 1406
  /-- W; 15 R328: A10; reset 0 (spec). -/
  a10 : Nat := 0
  /-- W; 15 R328: A100; reset 0 (spec). -/
  a100 : Nat := 0
  /-- up to 1,000 values in W, newest first; 15 R328, R332: A100 at each sample of the last 100 ms; reset DESIGN CHOICE empty
  (log 2). -/
  a100s : List Nat := []
  /-- tenths of a W; 15 R332: the most that A100 may be by every rise since each instant at least 100 ms ago, none without a ramp
  limit; reset DESIGN CHOICE none (log 2). -/
  rampHigh : Option Nat := none
  /-- tenths of a W; 15 R332: the least that A100 may be by every descent since each instant at least 100 ms ago, none without a
  ramp limit; reset DESIGN CHOICE none (log 2). -/
  rampLow : Option Nat := none
  /-- W; 15 R340: AMIN of the last completed minute; reset 0 (spec). -/
  amin : Nat := 0
  /-- W x samples; 15 R328: sum of the present minute's samples; reset DESIGN CHOICE 0 (log 2). -/
  minuteSum : Nat := 0
  /-- count; 15 R328: samples of the present minute; reset DESIGN CHOICE 0 (log 2). -/
  minuteCount : Nat := 0
  /-- minute number; 15 R328: the plan minute in progress; reset DESIGN CHOICE 0 (log 2). -/
  minute : Nat := 0
  /-- 4 bits; 15 R339: bounds breached in the present minute; reset DESIGN CHOICE 0 (log 2). -/
  breach : BitVec 4 := 0
  /-- units of 10 W; 15 R339: worst excess or shortfall; reset DESIGN CHOICE 0 (log 2). -/
  worst : Nat := 0
  /-- 8 bits; 15 R339: cause of the breach; reset DESIGN CHOICE 0 (log 2). -/
  breachCause : Nat := 0
  /-- 1 bit; 15 R339, 20 R423: 48 V has left its operating range in the present minute; reset DESIGN CHOICE clear (log 2). -/
  outOfRange : Bool := false
  /-- W; 15 R340: husk draw, last 100 ms; reset 0 (spec). -/
  husk : Nat := 0
  /-- up to 1,000 values in W, newest first; 15 R340: husk draw at each sample of the last 100 ms; reset DESIGN CHOICE empty
  (log 2). -/
  huskSamples : List Nat := []
  /-- 1/64 steps; 15 R337: husk rate per bent; reset DESIGN CHOICE 0 (log 2). -/
  huskRate : Nat := 0
  /-- W x 100 us; 15 R340: husk energy not yet a whole kJ; reset DESIGN CHOICE 0 (log 2). -/
  huskRest : Nat := 0
  /-- 32 bits; 15 R340: PWR_HUSK_ENERGY; reset 0 (spec). -/
  huskEnergy : Word := 0
  /-- 32 bits; 15 R340: PWR_BREACH_MINUTES; reset 0 (spec). -/
  breachMinutes : Word := 0
  /-- 32 bits; 15 R340: PWR_GATED_US; reset 0 (spec). -/
  gatedUs : Word := 0
  /-- 8 bits; 14 R309, 15 R334: the draw cap; reset DESIGN CHOICE 0x54, no cap (log 5). -/
  drawCap : Byte := 0x54
  /-- tenths of a W; 15 R335: the floor envelope in force; reset DESIGN CHOICE 0 (log 2). -/
  envelope : Nat := 0
  /-- optional EID; 15 R338: the event receiver; reset DESIGN CHOICE none (log 2). -/
  receiver : Option Byte := none
  /-- list of sensor and value; 15 R338: platform events sent, newest last; reset DESIGN CHOICE empty (log 2). -/
  sent : List (BitVec 16 × Nat) := []
deriving DecidableEq, Repr

/-- Supplies, temperatures and sideband lands (R421 to R431). -/
structure Package where
  /-- 1 bit; 20 R424: AUX present; reset 1, DESIGN CHOICE: BOOT runs on AUX (log 6). -/
  aux : Bool := true
  /-- 1 bit; 20 R423: 48 V valid; reset 1, DESIGN CHOICE (log 6). -/
  v48 : Bool := true
  /-- 1 bit; 20 R421: MODULE_PG; reset 1, DESIGN CHOICE (log 6). -/
  powerGood : Bool := true
  /-- 1 bit; 20 R431: THERMTRIP# latched; reset clear (spec: it clears at a reset). -/
  thermTrip : Bool := false
  /-- 1 bit; 20 R428: POWER_RESERVE as filtered; reset DESIGN CHOICE low (log 6). -/
  reserve : Bool := false
  /-- 4 bits; 20 R422: I3C address strap as sampled; reset DESIGN CHOICE 0 (log 6). -/
  i3cAddr : BitVec 4 := 0
  /-- list; 20 R430: last reading of each sensor in degrees C; reset DESIGN CHOICE empty, read as 25 (log 6). -/
  temps : List (Sensor × Nat) := []
  /-- list; 20 R430: sensors at or above their warning level; reset DESIGN CHOICE empty (log 6). -/
  warned : List Sensor := []
  /-- 1 bit; 20 R431: a thermal trip came before this BOOT, which waits for every sensor to cool; reset DESIGN CHOICE clear
  (log 6). -/
  cooling : Bool := false
  /-- 1 bit; 20 R425, R426: AUX has come back and MODULE_RESET# has not yet been released; reset clear: BOOT has begun (log 6). -/
  inReset : Bool := false
deriving DecidableEq, Repr

/-! ## Ring dies: control cores, engines, bents (R47 to R96, R107, R116 to R144, R257, R315) -/

/-- What a thread of a control core is doing (R75). -/
inductive ThreadMode where
  | ready
  | wait (ctr : CtrIx) (target : Word)
  | stall (q : QueueIx) (ctr : CtrIx) (unusedClear : Bool) (cmd : EngineCmd)
  | halted
deriving DecidableEq, Repr

/-- A hardware thread (R75, R257). -/
structure Thread where
  /-- ready, WAIT, STALL or HALTED; 04 R75; reset HALTED, DESIGN CHOICE: no program has started (log 2). -/
  mode : ThreadMode := .halted
  /-- 16 bits; 11 R257: instruction index; reset DESIGN CHOICE 0 (log 2). -/
  pc : Nat := 0
  /-- 16 registers of 64 bits; 11 R257: Q0 to Q15; reset 0 (spec: every register reads 0 when the thread starts). -/
  regs : Vector DWord 16 := Vector.replicate 16 0
deriving DecidableEq, Repr

/-- A completion counter (R77). -/
structure CompCounter where
  /-- 32 bits; 04 R77: the count; reset DESIGN CHOICE 0 (log 2). -/
  value : Word := 0
  /-- 1 bit; 04 R77: sticky error; reset DESIGN CHOICE 0 (log 2). -/
  error : Bool := false
  /-- 8 bits; 04 R77: last-error status; reset DESIGN CHOICE 0 (log 2). -/
  last : Byte := 0
  /-- list; 06 R143: the counts that completions reported as CANCELLED; reset DESIGN CHOICE empty (log 2). -/
  cancelledAt : List Word := []
deriving DecidableEq, Repr

/-- A command waiting in a queue (R76, R259). -/
structure QueuedCmd where
  ctr         : CtrIx
  unusedClear : Bool
  cmd         : EngineCmd
deriving DecidableEq, Repr

/-- The command an engine has taken and not finished, with the status it will report (R77). -/
structure RunningCmd where
  ctr     : CtrIx
  cmd     : EngineCmd
  status  : Status
deriving DecidableEq, Repr

/-- One engine command queue (R76). -/
structure EngineQueue where
  /-- up to 64 commands, oldest first; 04 R76; reset empty (spec R93: reset state has queues empty). -/
  waiting : List QueuedCmd := []
  /-- optional command; 04 R76: the command in execution; reset none (log 2). -/
  running : Option RunningCmd := none
  /-- 3 bits; 04 R76: the queue's producer thread; reset DESIGN CHOICE 0 (log 2). -/
  producer : ThreadIx := 0
deriving DecidableEq, Repr

/-- The state of a function (R95). -/
inductive FuncState where
  | enabled | quiescing | disabled | aborted
deriving DecidableEq, Repr

/-- A FUNCTION request that waits its turn (R93). -/
inductive FuncAction where
  | quiesce | force | reenable
deriving DecidableEq, Repr

/-- A plank record (R435): format, axis, valid rows and columns, where its scale lines lie. -/
structure PlankRec where
  format    : BitVec 4
  across    : Bool
  validRows : Nat
  validCols : Nat
  scaleSeq  : Nat
  scaleLine : Nat
deriving DecidableEq, Repr

/-- A loft buffer held by a stream (R120, R122, R140). -/
structure Buffer where
  seqNo  : Nat
  scale  : Bool
  number : Nat
  epoch  : BitVec 16
  filled : Bool
  bytes  : Nat
  inUse  : Bool
  planks : List PlankRec
deriving DecidableEq, Repr

/-- A fetch or store descriptor as the fetch engine holds it (R126, R128). -/
structure FetchDesc where
  /-- which descriptor of its stream it is. -/
  ident       : Nat
  kind        : Byte
  format      : BitVec 4
  across      : Bool
  rowsInner   : Bool
  complete    : Bool
  gated       : Bool
  multicast   : Bool
  isStatic    : Bool
  counter     : CtrIx
  gateBlock   : BitVec 16
  gateStep    : Byte
  src         : DWord
  aux         : DWord
  rows        : Word
  cols        : Word
  rowStride   : DWord
  scaleStride : Word
  dest        : Word
  mcMask      : BitVec 16
  mcStream    : Byte
  mcCounter   : CtrIx
  tag         : Word
  wellFormed  : Bool
  /-- transfers issued so far. -/
  issued      : Nat
  /-- transfers landed, or sectors written, so far. -/
  landed      : Nat
  /-- the status its completion will carry. -/
  status      : Status
  /-- the descriptor has started (R140). -/
  started     : Bool
  /-- parts of the index table read so far, those that read uncorrectable, and the indices as they were read (R127). -/
  tableRead   : Nat
  badTable    : List Nat
  table       : List Word
  /-- it came as a STORE command of the bay's queue, not from the stream's ring (R128). -/
  command     : Bool
deriving DecidableEq, Repr

/-- A transfer issued and not yet landed (R131): which descriptor and part of it, its buffer's sequence number. -/
structure Transfer where
  ident   : Nat
  part    : Nat
  bufSeq  : Nat
  epoch   : BitVec 16
  dry     : DWord
  bytes   : Nat
  /-- sills that have not started their part. -/
  sills   : List SillId
  /-- some sill has started. -/
  begun   : Bool
  /-- sectors that land as zero bytes: stack and sector number (R153). -/
  zeroed  : List (SillId × Nat)
  /-- scale buffer its scale lines go to (R131). -/
  scaleSeq : Nat
  /-- it reads a part of an index table (R127). -/
  isTable : Bool
deriving DecidableEq, Repr

/-- A multicast of a source stream (R138): its descriptor, its targets and what they have answered. -/
structure Multicast where
  ident     : Nat
  targets   : BitVec 16
  granted   : BitVec 16
  landed    : BitVec 16
  earliest  : DWord
  committed : Bool
  /-- board time of the first RESERVE. -/
  since     : DWord
deriving DecidableEq, Repr

/-- A multicast at a RECEIVE stream (R138). -/
structure McTarget where
  source    : BitVec 12
  ident     : Nat
  count     : Nat
  granted   : Bool
  committed : Bool
  /-- an ABORT is on its way (R139). -/
  aborting  : Bool
  epoch     : BitVec 16
  counter   : CtrIx
  /-- the sequence numbers its first buffers take. -/
  firstElem  : Nat
  firstScale : Nat
  /-- element buffers still to land. -/
  left      : Nat
  /-- its stream's dry time as it granted. -/
  dry       : DWord
deriving DecidableEq, Repr

/-- A stream slot (R116 to R123). -/
structure Stream where
  /-- 1 bit; 06 R117: the slot is open; reset DESIGN CHOICE closed (log 2). -/
  isOpen : Bool := false
  /-- the OPEN fields in force; 06 R118; reset DESIGN CHOICE 0 (log 2). -/
  conf : OpenFields := default
  /-- count; 06 R130: descriptors posted; reset DESIGN CHOICE 0 (log 2). -/
  posted : Nat := 0
  /-- count; 06 R130: descriptors read from the ring; reset DESIGN CHOICE 0 (log 2). -/
  fetched : Nat := 0
  /-- up to 32 descriptors, oldest first; 06 R130; reset DESIGN CHOICE empty (log 2). -/
  descs : List FetchDesc := []
  /-- 16 bits; 06 R140: fetch epoch; reset DESIGN CHOICE 0 (log 2). -/
  epoch : BitVec 16 := 0
  /-- 64 bits; 06 R134: anchor A; reset DESIGN CHOICE 0 (log 2). -/
  anchor : DWord := 0
  /-- count; 06 R134: B, bytes filled or in flight and not released; reset DESIGN CHOICE 0 (log 2). -/
  bytes : Nat := 0
  /-- count; 06 R132: descriptors the stream has taken, which tells them apart; reset DESIGN CHOICE 0 (log 2). -/
  nextIdent : Nat := 0
  /-- count; 06 R122: next element sequence number; reset DESIGN CHOICE 0 (log 2). -/
  nextElem : Nat := 0
  /-- count; 06 R123: next scale sequence number; reset DESIGN CHOICE 0 (log 2). -/
  nextScale : Nat := 0
  /-- count; 06 R128: element sequence number of the next buffer that a store writes; reset DESIGN CHOICE 0 (log 2). -/
  nextDrain : Nat := 0
  /-- list; 06 R120: buffers held, oldest first; reset DESIGN CHOICE empty (log 2). -/
  buffers : List Buffer := []
  /-- optional slice; 06 R121: the stream waits for a shared buffer there; reset DESIGN CHOICE none (log 2). -/
  waitsFor : Option Nat := none
  /-- list; 06 R131: transfers in flight, in issue order; reset DESIGN CHOICE empty (log 2). -/
  flights : List Transfer := []
  /-- list; 06 R138: multicasts past COMMIT, then the one in its reserve phase; reset DESIGN CHOICE empty (log 2). -/
  mcasts : List Multicast := []
  /-- list; 06 R128: STORE commands taken before the ring's posted descriptors were read, each with the count of those
  posted; reset DESIGN CHOICE empty (log 2). -/
  appended : List (Nat × FetchDesc) := []
  /-- list; 06 R138: reservations at a RECEIVE stream, oldest first; reset DESIGN CHOICE empty (log 2). -/
  mcTargets : List McTarget := []
  /-- 1 bit; 06 R117, R141: a CLOSE waits for the drain; reset DESIGN CHOICE clear (log 2). -/
  closing : Bool := false
deriving DecidableEq, Repr

/-- The state of a kiln region (R101). -/
inductive RegionState where
  | closed | isOpen | isRead
deriving DecidableEq, Repr

/-- A kiln region (R99 to R102). -/
structure KilnRegion where
  /-- CLOSED, OPEN or READ; 05 R101; reset CLOSED (spec). -/
  state : RegionState := .closed
  /-- 16 bits; 05 R100: ROWS; reset DESIGN CHOICE 0 (log 2). -/
  rows : Nat := 0
  /-- 8 bits; 05 R100: COLS_256; reset DESIGN CHOICE 0 (log 2). -/
  cols256 : Nat := 0
  /-- 1 bit; 05 R100: SPILL; reset DESIGN CHOICE 0 (log 2). -/
  spill : Bool := false
  /-- 17 bits; 05 R100: BASE_GROUP; reset DESIGN CHOICE 0 (log 2). -/
  baseGroup : Nat := 0
  /-- 30 bits; 05 R100: SPILL_ADDR; reset DESIGN CHOICE 0 (log 2). -/
  spillAddr : Nat := 0
  /-- row segments; 05 R102: written bits, as the list of those set; reset empty (spec: OPEN clears every bit). -/
  written : List Nat := []
deriving DecidableEq, Repr

/-- Whether a bent runs (R22, R312, R313). -/
inductive BentPower where
  | awake | stopped | gated
deriving DecidableEq, Repr

/-- One bank of a bent or of a feed stage (R47, R55). -/
structure BankImage where
  /-- 256 x 256 cells of 16 bits; 03 R47: by r x 256 + c, two elements of 8 bits in the A4 pair; reset DESIGN CHOICE 0 (log 2). -/
  cells : Sparse (BitVec 16) := []
  /-- scale registers; 03 R53: by r x 32 + g, the upper plank of a pair from g = 16; reset DESIGN CHOICE 0 (log 2). -/
  scales : Sparse Byte := []
  /-- lines loaded, 0 to 255 elements, 256 + g scales, the upper plank from 272; 03 R53; reset none loaded (log 2). -/
  lines : BitVec 544 := 0
  /-- the plank's axis is ACROSS, as its record gives it; 03 R54, R55; reset DESIGN CHOICE clear (log 2). -/
  across : Bool := false
  /-- array rows that hold tensor elements, lower and upper plank; 03 R67, R73; reset DESIGN CHOICE 0 (log 2). -/
  valid : Nat × Nat := (0, 0)
  /-- scale lines of the plank; 03 R51; reset DESIGN CHOICE 0 (log 2). -/
  groups : Nat := 0
deriving DecidableEq, Repr

/-- A bay's feed stage (R55). -/
structure FeedStage where
  /-- a bank; 03 R55: the bank that emits; reset see the bank's fields. -/
  live : BankImage := {}
  /-- a bank; 03 R55: the bank that loads; reset see the bank's fields. -/
  loadBank : BankImage := {}
deriving DecidableEq, Repr

/-- A row of a train as it travels: its codes and scales by column and block, and what the program gives for it (R50, R55, R56). -/
structure TrainBeat where
  pair    : Nat
  codes   : List Nat
  scales  : List Nat
  entry   : Nat
  firstK  : Bool
  /-- the first row of a pass: each bent swaps its banks as it arrives (R57). -/
  swap    : Bool
  station : BentIx
  hop     : Nat
deriving DecidableEq, Repr

/-- A bay (R74). -/
structure Bay where
  /-- 8 threads; 04 R74; reset see the thread's fields. -/
  threads : Vector Thread 8 := Vector.replicate 8 {}
  /-- 2 banks of up to 16,384 words; 04 R74, 11 R253: instruction banks; reset DESIGN CHOICE empty (log 2). -/
  banks : Vector (List Word) 2 := Vector.replicate 2 []
  /-- 1 bit; 11 R253: the active instruction bank; reset DESIGN CHOICE 0 (log 2). -/
  activeBank : Fin 2 := 0
  /-- threads and their entry points; 11 R257: what a program start starts; reset DESIGN CHOICE none (log 2). -/
  entries : List (ThreadIx × Nat) := []
  /-- bytes; 11 R254: data image of the program in effect; reset DESIGN CHOICE empty (log 2). -/
  dataImage : List Byte := []
  /-- 64 KiB; 04 R74: data memory; reset DESIGN CHOICE bytes 0 (log 3). -/
  dmem : Memory := []
  /-- 32 counters; 04 R77; reset see the counter's fields. -/
  counters : Vector CompCounter 32 := Vector.replicate 32 {}
  /-- 6 queues in the order FETCH, STORE, VECTOR, RING, KILN, LINK; 04 R76; reset see the queue's fields. -/
  queues : Vector EngineQueue 6 := Vector.replicate 6 {}
  /-- 4 states in the order BAY, VECTOR, FETCH, STORE; 04 R95: RING_FUNC_STATE; reset ENABLED (spec). -/
  funcs : Vector FuncState 4 := Vector.replicate 4 .enabled
  /-- list; 04 R93: FUNCTION requests waiting, with the TAG each answers; reset DESIGN CHOICE empty (log 2). -/
  funcWaiting : List (FuncKind × FuncAction × Word) := []
  /-- list; 04 R90, R91: disables in progress and the TAG each answers; reset DESIGN CHOICE empty (log 2). -/
  funcActive : List (FuncKind × FuncAction × Word) := []
  /-- 1 bit; 13 R296: the control core has crashed and not restarted; reset DESIGN CHOICE clear (log 2). -/
  crashed : Bool := false
  /-- 3 bits; 04 R75: the thread that issued last; reset DESIGN CHOICE 7, so thread 0 is next (log 2). -/
  lastIssued : ThreadIx := 7
  /-- 64 slots; 06 R116; reset see the slot's fields. -/
  streams : Vector Stream 64 := Vector.replicate 64 {}
  /-- 104,857 groups of 32 W40; 05 R99: kiln values by index; reset DESIGN CHOICE +0 (log 3). -/
  kiln : Sparse W40 := []
  /-- 64 regions; 05 R99; reset see the region's fields. -/
  regions : Vector KilnRegion 64 := Vector.replicate 64 {}
  /-- 64 registers of 2,048 F32; 05 R107: the vector register file by index; reset DESIGN CHOICE +0 (log 3). -/
  vregs : Sparse Word := []
  /-- the feed stage; 03 R55, 04 R74, R91; reset see its fields. -/
  feed : FeedStage := {}
  /-- awake, clock-stopped or power-gated; 01 R22, 04 R74: the vector engine, which follows the bents' rules; reset gated, in BOOT
  the rails are off (spec R314). -/
  vecPower : BentPower := .gated
  /-- list; 04 R91: for each group of 2,048 elements that the vector command in execution writes, its loft ranges with the bytes
  that stood there before; reset DESIGN CHOICE empty (log 2). -/
  vecOld : List (List (Nat × List Byte)) := []
  /-- optional; 04 R91, 02 R40: the ledger entry of that command with its word before the first group and after each; reset DESIGN
  CHOICE none (log 2). -/
  vecLedger : Option (Nat × List Word) := none
deriving DecidableEq, Repr

/-- A bent (R47, R48). -/
structure Bent where
  /-- a bank; 03 R47: the live bank; reset see the bank's fields. -/
  live : BankImage := {}
  /-- a bank; 03 R47: the load bank; reset see the bank's fields. -/
  loadBank : BankImage := {}
  /-- 256 lanes x 2,048 entries of F32; 03 R48: by entry x 256 + lane; reset DESIGN CHOICE +0.0 (log 3). -/
  acc : Sparse Word := []
  /-- awake, clock-stopped or power-gated; 01 R22, 14 R314; reset gated, in BOOT the rails are off (spec R314). -/
  power : BentPower := .gated
  /-- optional 64 bits; 14 R313: wake deadline; reset none (log 2). -/
  deadline : Option DWord := none
  /-- 1 bit; 15 R333: the bent carries husk load; reset DESIGN CHOICE clear (log 2). -/
  husk : Bool := false
  /-- AON microseconds of faults in the last 24 h; 16 R358; reset DESIGN CHOICE empty (log 2). -/
  faults : List Nat := []
deriving DecidableEq, Repr

/-- A fast clock domain (R306 to R309, R315, R410). -/
structure Domain where
  /-- 8 bits; 14 R306: target code; reset PRESUMED 0x48, the nominal code (log 5). -/
  target : Byte := 0x48
  /-- 8 bits; 14 R308: margin cap; reset DESIGN CHOICE 0x54, no cap (log 5). -/
  marginCap : Byte := 0x54
  /-- 8 bits; 20 R430: thermal cap; reset DESIGN CHOICE 0x54, no cap (log 5). -/
  thermalCap : Byte := 0x54
  /-- 3 bits; 14 R308: least margin code of the last reading; reset DESIGN CHOICE 0 (log 2). -/
  margin : BitVec 3 := 0
  /-- count; 14 R308: consecutive readings of code 0 or 1; reset DESIGN CHOICE 0 (log 2). -/
  lowRun : Nat := 0
  /-- count; 14 R308: consecutive readings of code 4 or more; reset DESIGN CHOICE 0 (log 2). -/
  highRun : Nat := 0
  /-- 48 bits; 14 R315: cycle counter; reset 0 (spec: resets at BOOT). -/
  cycles : BitVec 48 := 0
  /-- 32 bits; 14 R315: stretch tally; reset 0 (spec: resets at BOOT). -/
  tally : Word := 0
  /-- 1 bit; 19 R410: clock stopped or paused; reset DESIGN CHOICE clear (log 2). -/
  stopped : Bool := false
  /-- 1 bit; 14 R307, R327: the clock was paused at the last AON sample; reset DESIGN CHOICE clear (log 2). -/
  paused : Bool := false
  /-- 16 bits; 19 R410: CYCLES_HI as latched; reset DESIGN CHOICE 0 (log 2). -/
  cyclesHi : BitVec 16 := 0
  /-- 32 bits; 19 R410: TALLY as latched; reset DESIGN CHOICE 0 (log 2). -/
  tallyHeld : Word := 0
deriving DecidableEq, Repr

/-- An edge router (R88, R407). -/
structure Router where
  /-- 2 bits; 04 R88: derating level; reset 0 (spec). -/
  level : Nat := 0
  /-- 8 bits; 19 R407: temperature in degrees C; reset 0 (spec). -/
  temp : Byte := 0
  /-- count; 04 R88: carrying slots since the last hold slot; reset DESIGN CHOICE 0 (log 2). -/
  carried : Nat := 0
  /-- up to 8 beats of up to 1,024 bytes; 04 R82, 14 R310: what the neighbour has sent on claimed beats and this die has not yet
  taken; reset empty (log 2). -/
  inbox : List (List Byte) := []
  /-- count; 04 R80, R85, 07 R160: beats of outside traffic that wait for an offered beat inward; reset DESIGN CHOICE 0 (log 2). -/
  waitIn : Nat := 0
  /-- count; 04 R80, R85, 07 R160: beats of outside traffic that wait for an offered beat outward; reset DESIGN CHOICE 0 (log 2). -/
  waitOut : Nat := 0
deriving DecidableEq, Repr

/-- The segment in progress on a die (R81): its bays, the bents that its beats claim (R22), its number (R100), the slots issued so
far, and what it holds of the switch program; a segment that the translator built for one RING command has no slots here. -/
structure Segment where
  bays    : List BayIx
  claimed : BitVec 16
  number  : Nat
  issued  : Nat
  quarter : Bool
  slots   : List SwitchSlot
deriving DecidableEq, Repr

/-- A ring die with its loft (R12, R39, R74, R119, R407). -/
structure RingDie where
  /-- 16 bits; 00 R1, 03 R70: bents not fused off at the factory; reset DESIGN CHOICE 0xFFFF, the DTH-256 (log 1).
  RING_BENT_ENABLED reads these less FAILED and RETIRED (19 R407). -/
  enabled : BitVec 16 := 0xFFFF
  /-- 16 bits; 19 R407: RING_BENT_HEALTH.FAILED, from MRAM; reset DESIGN CHOICE 0 (log 1). -/
  failed : BitVec 16 := 0
  /-- 16 bits; 19 R407: RING_BENT_HEALTH.RETIRED, from MRAM; reset DESIGN CHOICE 0 (log 1). -/
  retired : BitVec 16 := 0
  /-- 32 bits; 19 R408: RING_ROUTER_DERATE; reset 0x0369_645F (spec). -/
  derate : Word := 0x0369645F
  /-- 32 bits; 06 R139, 19 R407: RING_FETCH_MCAST_TIMEOUT; reset 0x0000_0032 (spec). -/
  mcastTimeout : Word := 0x32
  /-- 32 bits; 19 R409: RING_LEDGER_INDEX; reset 0 (spec). -/
  ledgerIndex : Word := 0
  /-- 16,384 entries of 32 bits; 02 R39, R43: the scale ledger, unlisted entries 0x0000_007F; reset 0x7F (spec). -/
  ledger : Sparse Word := []
  /-- 16,384 entries; 02 R39, R43: the start-of-step copy; reset 0x7F (spec). -/
  ledgerStart : Sparse Word := []
  /-- 16 bents; 03 R47; reset see the bent's fields. -/
  bents : Vector Bent 16 := Vector.replicate 16 {}
  /-- 4 bays; 04 R74; reset see the bay's fields. -/
  bays : Vector Bay 4 := Vector.replicate 4 {}
  /-- 17 domains; 14 R305: BENT0 to BENT15 and FABRIC; reset see the domain's fields. -/
  domains : Vector Domain 17 := Vector.replicate 17 {}
  /-- 4 routers N, E, S, W; 04 R79; reset see the router's fields. -/
  routers : Vector Router 4 := Vector.replicate 4 {}
  /-- 181 counters of 32 bits; 19 R411: sparse by index; reset 0, index 0x55 0xFFFF_FFFF (spec R406). -/
  counters : Sparse Word := [(0x55, 0xFFFFFFFF)]
  /-- 5 counts below 1,024: bytes not yet a whole KiB of the counters fetch landed, store written, wasted, spill read and
  spill written; 06 R144, 05 R114; reset DESIGN CHOICE 0 (log 2). -/
  kibRest : Vector Nat 5 := Vector.replicate 5 0
  /-- 1 GiB; 00 R4, 06 R119: the loft; reset DESIGN CHOICE bytes 0 (log 3). -/
  loft : Memory := []
  /-- 16,384 bits; 06 R119: the loft map, 1 for a pooled buffer; reset DESIGN CHOICE 0, none pooled (log 2). -/
  pooled : BitVec 16384 := 0
  /-- 1 bit; 06 R144: a loft map has defined the pool; reset clear (spec R406). -/
  poolDefined : Bool := false
  /-- list; 16 R360: withdrawn buffers, from the parts record; reset DESIGN CHOICE none (log 1). -/
  withdrawn : List Nat := []
  /-- list of rows of 8 KiB; 16 R360: failed rows that wait for a fence; reset DESIGN CHOICE none (log 2). -/
  failedRows : List Nat := []
  /-- list of rows of 8 KiB with AON microseconds; 16 R360: corrected loft reads of the last 24 h; reset DESIGN CHOICE none
  (log 2). -/
  corrections : List (Nat × Nat) := []
  /-- 16 slices; 16 R356: spare rows used; reset DESIGN CHOICE 0 (log 1). -/
  sparesUsed : Vector Nat 16 := Vector.replicate 16 0
  /-- optional segment; 04 R81: the segment in progress; reset DESIGN CHOICE none (log 2). -/
  segment : Option Segment := none
  /-- 2 halves; 04 R80, 11 R253: the switch-program store, its bays and stations physical (R247); reset DESIGN CHOICE empty
  (log 2). -/
  switchHalves : Vector (List SwitchSegment) 2 := Vector.replicate 2 []
  /-- 1 bit; 11 R253: the active half; reset DESIGN CHOICE 0 (log 2). -/
  activeHalf : Fin 2 := 0
  /-- 1 bit; 03 R71: the ring configuration in force, set in QUARTER; reset DESIGN CHOICE FULL (log 2). -/
  quarter : Bool := false
  /-- list; 03 R49, R56: train rows on the operand half, oldest first; reset DESIGN CHOICE empty (log 2). -/
  train : List TrainBeat := []
  /-- count; 04 R84, R85: beats of sill-side data that wait for a reserved loft beat; reset DESIGN CHOICE 0 (log 2). -/
  sillBeats : Nat := 0
  /-- 16 bits; 05 R100: number the next segment takes; reset 0 (spec: the first after a program start is segment 0). -/
  nextSegment : Nat := 0
  /-- optional 16 bits; 05 R100: number of the last segment to have ended; reset none (log 2). -/
  lastEnded : Option Nat := none
  /-- 2 bits; 11 R247: rotation of the binding; reset DESIGN CHOICE 0 (log 2). -/
  rho : Fin 4 := 0
  /-- 1 bit; 13 R297: this die drives the step-abandon line; reset DESIGN CHOICE clear (log 2). -/
  abandonLine : Bool := false
  /-- AON microseconds; 20 R430: when a thermal cap last moved the die's targets; reset DESIGN CHOICE 0 (log 2). -/
  thermalAt : Nat := 0
deriving DecidableEq, Repr

/-! ## Sills and stacks (R145 to R186) -/

/-- The update rules (R163). -/
inductive UpdateRule where
  | plain | signed | adaptive | precond
deriving DecidableEq, Repr, Inhabited

/-- A shard descriptor (R163), offsets in units of 32 bytes. -/
structure Shard where
  rule      : UpdateRule
  vote      : Bool
  sparse    : Bool
  a4        : Bool
  hyper     : BitVec 4
  rootEvery : BitVec 16
  blocks    : Word
  header    : Word
  master    : Word
  state     : Word
  grad      : Word
  copyElem  : Word
  copyScale : Word
  aux       : Word
  geom      : Word
  tag       : Word
  /-- reserved bits 0 and RULE defined. -/
  encodingGood : Bool
deriving DecidableEq, Repr, Inhabited

/-- A hyperparameter set (R163), F32 values. -/
structure Hyper where
  eta      : Word
  beta1    : Word
  beta2    : Word
  lambda   : Word
  eps      : Word
  damp     : Word
  pivotEps : Word
  gscale   : Word
deriving DecidableEq, Repr, Inhabited

/-- An update list (R162). -/
structure UpdateList where
  shards : List Shard := []
  hypers : List Hyper := []
deriving DecidableEq, Repr, Inhabited

/-- A request pending at a sill: which stream, transfer and dry time (R136). -/
structure SillRequest where
  stream : BitVec 12
  ident  : Nat
  part   : Nat
  dry    : DWord
deriving DecidableEq, Repr

/-- A retired-page entry (R159). -/
structure RetiredPage where
  page  : Nat
  cause : BitVec 4
  time  : Word
deriving DecidableEq, Repr

/-- A sill die and its stack. -/
structure Sill where
  /-- 64 x 10^9 bytes; 07 R147: the stack's module memory by offset; reset DESIGN CHOICE bytes 0 (log 3). -/
  dram : Memory := []
  /-- list of sector numbers; 07 R150, R153: sectors with POISON set; reset DESIGN CHOICE none (log 2). -/
  poison : List Nat := []
  /-- 1 bit; 19 R412: SILL_STATUS.TRAINED; reset 0 (spec). -/
  trained : Bool := false
  /-- 1 bit; 19 R412: SILL_STATUS.RETRAIN_PENDING; reset 0 (spec). -/
  retrainPending : Bool := false
  /-- 32 bits; 19 R412: SILL_STACK_ID, from the stack; reset DESIGN CHOICE 0 (log 1). -/
  stackId : Word := 0
  /-- up to 1,024 entries; 07 R159: the retired-page list, in MRAM; reset DESIGN CHOICE empty (log 1). -/
  retired : List RetiredPage := []
  /-- rows (channel, bank, row); 07 R157: rows that wait for a fence, with a cause; reset DESIGN CHOICE none (log 2). -/
  failedRows : List (Nat × BitVec 4) := []
  /-- row, sector and AON microseconds; 07 R157: corrected errors of the last 24 h; reset DESIGN CHOICE none (log 2). -/
  corrections : List (Nat × Nat × Nat) := []
  /-- rows; 07 R157: rows soft-repaired since the last BOOT; reset DESIGN CHOICE none (log 1). -/
  softRepaired : List Nat := []
  /-- bank group to count; 07 R158: spare rows used; reset DESIGN CHOICE none (log 7). -/
  sparesUsed : Sparse Nat := []
  /-- list; 07 R136: requests pending; reset DESIGN CHOICE empty (log 2). -/
  requests : List SillRequest := []
  /-- list; 07 R152: corrective write-backs queued; reset DESIGN CHOICE empty (log 2). -/
  writeBacks : List Nat := []
  /-- row to count; 07 R145: on-die ECC reports of each row; reset DESIGN CHOICE none (log 2). -/
  onDieRows : Sparse Nat := []
  /-- list of channel and bank; 07 R154: banks in refresh, with whether by refresh management; reset DESIGN CHOICE none (log 2). -/
  refreshing : List (BitVec 6 × BitVec 6 × Bool) := []
  /-- 1 bit; 07 R154: the refresh interval is halved; reset DESIGN CHOICE clear (log 2). -/
  halfInterval : Bool := false
  /-- 5 bits; 07 R155: next channel to calibrate; reset DESIGN CHOICE 0 (log 2). -/
  calChannel : BitVec 5 := 0
  /-- degrees C; 07 R156: temperature at the last full training; reset DESIGN CHOICE 25 (log 6). -/
  trainTemp : Nat := 25
  /-- sector number; 07 R152: where the patrol scrub stands; reset DESIGN CHOICE 0 (log 2). -/
  scrubAt : Nat := 0
  /-- 2 halves; 11 R253: the update list; reset DESIGN CHOICE empty (log 2). -/
  lists : Vector UpdateList 2 := Vector.replicate 2 {}
  /-- 1 bit; 11 R253: the active half; reset DESIGN CHOICE 0 (log 2). -/
  activeList : Fin 2 := 0
  /-- 47 counters of 32 bits; 19 R412: sparse by index; reset 0 (spec R406). -/
  counters : Sparse Word := []
  /-- below 1,024; 08 R186: parameters updated and not yet a whole 1,024 of the counter; reset DESIGN CHOICE 0 (log 2). -/
  paramRest : Nat := 0
  /-- below 1,024; 07 R161: bytes read and not yet a whole KiB of the counter; reset DESIGN CHOICE 0 (log 2). -/
  readRest : Nat := 0
  /-- below 1,024; 07 R161: bytes written and not yet a whole KiB of the counter; reset DESIGN CHOICE 0 (log 2). -/
  writeRest : Nat := 0
deriving DecidableEq, Repr

/-! ## Mortise links and edge dies (R187 to R241) -/

/-- LINK_STATUS.STATE (R213). -/
inductive LinkState where
  | down | training | hello | up | retraining | refused | disabled
deriving DecidableEq, Repr

/-- A sent tenon in the retry buffer (R200, R201). -/
structure Unacked where
  seq     : BitVec 16
  resends : Nat
  tenon   : Tenon
deriving DecidableEq, Repr

/-- A tenon that waits to be sent; a forward keeps its receive buffer on the link it came by until it is sent (R197, R198). -/
structure QueuedTenon where
  tenon : Tenon
  via   : Option LinkId
deriving DecidableEq, Repr

/-- A lane change in progress (R207): its own switch frame, the far side's once it has named it, and whether this side declared the
failure. -/
structure LaneChange where
  lane        : Fin 9
  replacement : Option (Fin 9)
  ownFrame    : DWord
  farFrame    : Option Nat
  mine        : Bool
deriving DecidableEq, Repr

/-- A LANE_MAP or LANE_MAP_ACK row as sent (R207). -/
structure LaneRow where
  ack         : Bool
  lane        : Fin 9
  replacement : Byte
  frame       : DWord
deriving DecidableEq, Repr

/-- One Mortise link. -/
structure Link where
  /-- 32 bits; 09 R211: LINK_CTRL; reset ENABLE 1, RETRY_LIMIT 8, REPLAY_TIMER 0x14, RETRAIN_LIMIT 3 (spec). -/
  ctrl : Word := 0x00031481
  /-- 32 bits; 09 R212: LINK_CREDIT0; reset 0x1800_2000 (spec). -/
  credit0 : Word := 0x18002000
  /-- 32 bits; 09 R212: LINK_CREDIT1; reset 0x03FC_0404 (spec). -/
  credit1 : Word := 0x03FC0404
  /-- 3 bits; 09 R213: STATE; reset DOWN (spec). -/
  state : LinkState := .down
  /-- 1 bit; 09 R213: SPARE_USED; reset 0 (spec). -/
  spareUsed : Bool := false
  /-- 1 bit; 09 R213: DEGRADED; reset 0 (spec). -/
  degraded : Bool := false
  /-- 9 bits; 09 R213: LANE_OK; reset 0 (spec). -/
  laneOk : BitVec 9 := 0
  /-- 2 bits; 09 R213: FAR_KIND; reset 0 (spec). -/
  farKind : BitVec 2 := 0
  /-- 15 bits; 09 R213: FAR_ID; reset 0 (spec). -/
  farId : BitVec 15 := 0
  /-- physical lanes in ascending order; 09 R190: the lane map; reset DESIGN CHOICE empty (log 2). -/
  laneMap : List (Fin 9) := []
  /-- 9 bits; 09 R209: lane records in MRAM; reset DESIGN CHOICE 0 (log 1). -/
  laneRecords : BitVec 9 := 0
  /-- 16 bits; 09 R200: SEQ of the next new tenon; reset 0 (spec R204). -/
  txSeq : BitVec 16 := 0
  /-- 16 bits; 09 R200: SEQ of the next tenon expected; reset 0 (spec R204). -/
  rxSeq : BitVec 16 := 0
  /-- list; 09 R200: the retry buffer, oldest first; reset DESIGN CHOICE empty (log 2). -/
  retry : List Unacked := []
  /-- count; 09 R200: how many of the retry buffer's tenons wait to be resent; reset DESIGN CHOICE 0 (log 2). -/
  resendLeft : Nat := 0
  /-- 4 counts; 09 R198: credits held per VC; reset DESIGN CHOICE 0 (log 2). -/
  credits : Vector Nat 4 := Vector.replicate 4 0
  /-- 4 counts; 09 R198: blocks per VC that have left the buffer and are not yet in a CREDIT_ACK sent; reset DESIGN CHOICE 0 (log
  2). -/
  returned : Vector Nat 4 := Vector.replicate 4 0
  /-- 4 lists; 09 R198, R199: tenons ready to send per VC, oldest first; reset DESIGN CHOICE empty (log 2). -/
  queues : Vector (List QueuedTenon) 4 := Vector.replicate 4 []
  /-- 2 bits; 09 R199: the VC served last of VC0, VC1 and VC3; reset DESIGN CHOICE 3 (log 2). -/
  lastVc : Fin 4 := 3
  /-- 1 bit; 09 R200: a NAK is outstanding; reset DESIGN CHOICE clear (log 2). -/
  nakSent : Bool := false
  /-- 3 bits; 09 R192: the far PEER_STATE; reset DESIGN CHOICE BOOT 0 (log 2). -/
  peerState : BitVec 3 := 0
  /-- 1 bit; 09 R214: a PEER_STATE has come since the last HELLO that brought the link UP; reset DESIGN CHOICE clear (log 2). -/
  peerKnown : Bool := false
  /-- 1 bit; 09 R214: the far module has been UP; reset DESIGN CHOICE clear (log 2). -/
  farWasUp : Bool := false
  /-- count; 09 R202: consecutive failed retrainings; reset DESIGN CHOICE 0 (log 2). -/
  retrainFails : Nat := 0
  /-- optional HELLO; 09 R202: the previous HELLO; reset DESIGN CHOICE none (log 2). -/
  lastHello : Option HelloFields := none
  /-- list; 09 R207: lane changes, the one in progress first; reset DESIGN CHOICE empty (log 2). -/
  changes : List LaneChange := []
  /-- optional HELLO; 09 R205: the HELLO last sent; reset DESIGN CHOICE none (log 2). -/
  helloSent : Option HelloFields := none
  /-- optional block; 09 R192: the CREDIT_ACK last sent; reset DESIGN CHOICE none (log 2). -/
  ackSent : Option CreditAck := none
  /-- bytes; 09 R193, R194: the tenon last sent, head to tail; reset DESIGN CHOICE empty (log 2). -/
  tenonSent : List Byte := []
  /-- optional row; 09 R207: the lane row last sent; reset DESIGN CHOICE none (log 2). -/
  laneSent : Option LaneRow := none
  /-- below 1,024; 09 R215: payload bytes sent and not yet a whole KiB of the counter; reset DESIGN CHOICE 0 (log 2). -/
  sentRest : Nat := 0
  /-- below 1,024; 09 R215: payload bytes received and not yet a whole KiB of the counter; reset DESIGN CHOICE 0 (log 2). -/
  receivedRest : Nat := 0
  /-- 54 counters of 32 bits; 19 R413: sparse by index; reset 0, least d 0x7FFF_FFFF, greatest d 0x8000_0000 (spec R406). -/
  counters : Sparse Word := [(0x34, 0x7FFFFFFF), (0x35, 0x80000000)]
deriving DecidableEq, Repr

/-- A chunk slot of a vote counter (R226). -/
structure VoteSlot where
  coll    : BitVec 12
  chunk   : Nat
  arrived : List Nat
  counts  : List Nat
deriving DecidableEq, Repr

/-- An edge die's link engine and vote counter. -/
structure Edge where
  /-- up to 128 slots; 10 R226: chunks being counted; reset DESIGN CHOICE empty (log 2). -/
  slots : List VoteSlot := []
  /-- list; 10 R226: VOTE_SIGNS that wait for a slot, each in the receive buffer it came through; reset DESIGN CHOICE empty
  (log 2). -/
  waiting : List QueuedTenon := []
  /-- below 1,600; 10 R223, R241: cycles of the sum engine not yet a whole microsecond of the counter; reset DESIGN CHOICE 0
  (log 2). -/
  sumRest : Nat := 0
  /-- 15 counters of 32 bits; 19 R414: sparse by index; reset 0 (spec R406). -/
  counters : Sparse Word := []
deriving DecidableEq, Repr


/-! ## Bundles and program stores (R242 to R257) -/

/-- One Onesk image of a bay (R257): entry indices, threads that start, producers, code and data. -/
structure OneskImage where
  entry    : List Nat
  threads  : Byte
  producer : List Nat
  code     : List Word
  data     : List Byte
deriving DecidableEq, Repr, Inhabited

/-- A program of one die for one shape and one variant (R246, R256); the private form is carried as its bytes. -/
structure Program where
  shape   : Nat
  die     : Option DieId
  variant : List Nat
  onesk   : Option (List OneskImage)
  core    : Option (List Byte)
  switch  : Option (List Byte)
deriving DecidableEq, Repr, Inhabited

/-- One entry of a LEDGER_MAP (R245): entry, FORMAT, initial SCALE. -/
structure LedgerInit where
  entry  : Nat
  format : BitVec 2
  scale  : Byte
deriving DecidableEq, Repr, Inhabited

/-- A collective entry (R217). -/
structure CollEntry where
  vote     : Bool
  copyA4   : Bool
  group    : Nat
  chunks   : Nat
  stage    : List Nat
  grad     : List Nat
  elem     : List Nat
  scale    : List Nat
  reserved : Bool
deriving DecidableEq, Repr, Inhabited

/-- An expert entry (R234). -/
structure ExpertEntry where
  home     : BitVec 15
  die      : Nat
  land     : Nat
  reserved : Bool
deriving DecidableEq, Repr, Inhabited

/-- A bundle the loader has accepted (R243 to R249). Each loft map, ledger map, update list and module table stands with the SHAPE
of its section, 0 for every shape (R244). -/
structure Bundle where
  addr     : Nat
  length   : Nat
  digest   : BitVec 384
  shapes   : Byte
  features : BitVec 256
  mode     : OpMode
  programs : List Program
  loftMaps : List (Nat × Option DieId × BitVec 16384)
  ledger   : List (Nat × Option DieId × List LedgerInit)
  lists    : List (Nat × Option SillId × UpdateList)
  groups   : List (Nat × List (List Nat))
  colls    : List (Nat × List CollEntry)
  experts  : List (Nat × List ExpertEntry)
deriving DecidableEq, Repr, Inhabited

/-- The group, collective and expert tables of the edge dies (R216, R217, R234, R253). -/
structure LinkTables where
  groups  : List (List Nat) := []
  colls   : List CollEntry := []
  experts : List ExpertEntry := []
deriving DecidableEq, Repr, Inhabited

/-- The loader and the program stores (R251 to R256). -/
structure Loader where
  /-- optional bundle; 11 R253: what the active halves hold; reset none, DESIGN CHOICE (log 2). -/
  inEffect : Option Bundle := none
  /-- optional bundle with its LOAD's TAG; 11 R254: what the inactive halves hold; reset none, DESIGN CHOICE (log 2). -/
  pending : Option (Bundle × Word) := none
  /-- shape; 11 R249, R255: the shape at which the inactive halves were bound; reset DESIGN CHOICE 0 (log 2). -/
  stagedAt : Nat := 0
  /-- 1 bit; 18 R378: a mode change has not been followed by a load; reset DESIGN CHOICE clear (log 2). -/
  modeChanged : Bool := false
  /-- 1 bit; 11 R249, 16 R359: the program in effect is bound at the present shape; reset DESIGN CHOICE clear (log 2). -/
  bound : Bool := false
deriving DecidableEq, Repr

/-! ## Collectives and the verdict tree (R196, R216 to R241) -/

/-- The verdict-tree entry (R231). -/
structure TreeEntry where
  parent   : BitVec 15
  root     : Bool
  children : List (BitVec 15)
deriving DecidableEq, Repr

/-- A dispatch as its source runs it (R235, R236, R238). -/
structure DispatchSource where
  bay      : BayId
  fields   : DispatchFields
  /-- the filled routing slots of each token as read from ROUTE: slot, expert, gate. -/
  slots    : List (List (Nat × Nat × Word))
  /-- grants received: expert, tokens admitted. -/
  grants   : List (Nat × Nat)
  /-- the COMBINE of this number, once it runs, with its bay. -/
  combine  : Option (BayId × CombineFields)
  /-- COMBINE_ROWS payloads received, by home, oldest first. -/
  returned : List (BitVec 15 × List Byte)
  /-- the sums stand at OUT_ADDR. -/
  summed   : Bool
deriving DecidableEq, Repr

/-- A row that a home has landed: expert, row number, source module, token index there (R236). -/
structure LandedRow where
  expert : Nat
  row    : Nat
  source : BitVec 15
  token  : Nat
deriving DecidableEq, Repr

/-- A dispatch at a home (R236). -/
structure DispatchHome where
  dispatchNo : BitVec 12
  /-- group, and capacity of each hosted expert, once this module's own DISPATCH has run. -/
  own        : Option (Nat × List (Nat × Nat))
  /-- counts received: source module, tokens for each hosted expert in ascending order. -/
  counts     : List (BitVec 15 × List Nat)
  /-- the grants stand. -/
  done       : Bool
  /-- grants in admission order: expert, source module, tokens admitted. -/
  granted    : List (Nat × BitVec 15 × Nat)
  landed     : List LandedRow
  /-- its output rows have gone back. -/
  combined   : Bool
deriving DecidableEq, Repr

/-- The tables and working state of the link engines. -/
structure Coll where
  /-- 2 halves; 11 R253: the group, collective and expert tables, which the six edge dies hold alike; reset DESIGN CHOICE empty
  (log 2). -/
  tables : Vector LinkTables 2 := Vector.replicate 2 {}
  /-- 1 bit; 11 R253: the active half; reset DESIGN CHOICE 0 (log 2). -/
  activeTables : Fin 2 := 0
  /-- 32,768 entries of one byte; 09 R196: route table, by module ID; reset DESIGN CHOICE 0, no route valid (log 2). -/
  routes : Sparse Byte := []
  /-- optional entry; 10 R231: the verdict-tree entry; reset DESIGN CHOICE none (log 2). -/
  tree : Option TreeEntry := none
  /-- collective, chunk, member, bytes; 10 R222: staging slots filled in this attempt; reset DESIGN CHOICE empty (log 2). -/
  staged : List (Nat × Nat × Nat × Nat) := []
  /-- collective, chunk; 10 R223: chunks summed in this attempt; reset DESIGN CHOICE empty (log 2). -/
  summed : List (Nat × Nat) := []
  /-- collective, chunk; 10 R224: copies standing for this step; reset DESIGN CHOICE empty (log 2). -/
  copies : List (Nat × Nat) := []
  /-- collective, chunk; 10 R229: vote results standing for this step; reset DESIGN CHOICE empty (log 2). -/
  results : List (Nat × Nat) := []
  /-- collective, chunk; 13 R297: chunks this module has sent in this attempt; reset DESIGN CHOICE empty (log 2). -/
  sent : List (Nat × Nat) := []
  /-- low byte of the step, 16-bit gather number, status; 06 R133: gathers that have completed; reset DESIGN CHOICE empty
  (log 2). -/
  gathers : List (Byte × BitVec 16 × Status) := []
  /-- sill, shard; 08 R172: sign passes done in this attempt; reset DESIGN CHOICE empty (log 2). -/
  signed : List (Nat × Nat) := []
  /-- list; 10 R235: dispatches this module sends; reset DESIGN CHOICE empty (log 2). -/
  sources : List DispatchSource := []
  /-- list; 10 R236: dispatches this module hosts; reset DESIGN CHOICE empty (log 2). -/
  homes : List DispatchHome := []
  /-- list; 01 R18: GATHER_DATA of the present attempt that came before its verdict here; reset DESIGN CHOICE empty (log 2). -/
  held : List QueuedTenon := []
  /-- list; 10 R219: tenons that a link engine has made for modules without a usable link; reset DESIGN CHOICE empty (log 2). -/
  undeliverable : List Tenon := []
deriving DecidableEq, Repr

/-! ## The job and its step (R164, R178 to R184, R274, R288, R296 to R300, R351 to R372) -/

/-- The verdict bits (R178). -/
structure Bits where
  nonfinite : Bool := false
  skew      : Bool := false
  replay    : Bool := false
deriving DecidableEq, Repr, Inhabited

/-- Where a step stands between its record and its end (R164, R179, R182). -/
inductive StepPhase where
  /-- no step is in progress. -/
  | none
  /-- the record is posted and has not reached the sills. -/
  | posted
  /-- the program runs. -/
  | running
  /-- the module has reached its fence and waits for the verdict. -/
  | fence
  /-- the verdict is settled; commits and gathers run. -/
  | settled
deriving DecidableEq, Repr, Inhabited

/-- A step record (R164, R274) with the ring and index of its descriptor. -/
structure StepRec where
  s       : DWord
  lr      : Word
  attempt : BitVec 4
  ring    : RingIx
  seqNo   : Nat
deriving DecidableEq, Repr, Inhabited

/-- A maintenance item (R351): what runs, which SELFTEST asked for it (TAG), since when it waits. -/
structure Item where
  code  : Nat
  mask  : Word
  tag   : Option Word
  since : Nat
deriving DecidableEq, Repr, Inhabited

/-- A save or restore in progress or waiting (R363, R367, R368). -/
structure Ckpt where
  ring   : RingIx
  seqNo  : Nat
  work   : JobWork
  /-- the image as cut, for the drain and the end of the stop. -/
  image  : List Byte
  status : Status
  /-- its fence has come (R363, R367). -/
  due    : Bool
deriving DecidableEq, Repr, Inhabited

/-- The job. -/
structure Job where
  /-- 64 bits; 12 R288: job identifier; reset DESIGN CHOICE 0 (log 2). -/
  id : DWord := 0
  /-- seconds; 12 R288, 08 R181: verdict timeout; reset 10 (spec: 0 means 10 s). -/
  verdictTimeout : Nat := 10
  /-- optional s; 12 R274: the previous STEP's s and its ATTEMPT; reset DESIGN CHOICE none (log 2). -/
  previous : Option (DWord × BitVec 4) := none
  /-- 1 bit; 12 R274: a STEP has run since arming; reset DESIGN CHOICE clear (log 2). -/
  ran : Bool := false
  /-- optional record; 08 R164: the step in progress; reset DESIGN CHOICE none (log 2). -/
  current : Option StepRec := none
  /-- phase; 08 R179, R182; reset no step (log 2). -/
  phase : StepPhase := .none
  /-- 3 bits; 08 R178: the module's own verdict bits for the present step; reset clear (log 2). -/
  own : Bits := {}
  /-- 3 bits; 08 R179: bits set after the fence, for the next step; reset clear (log 2). -/
  next : Bits := {}
  /-- optional 3 bits; 08 R180: the settled verdict; reset DESIGN CHOICE none (log 2). -/
  verdict : Option Bits := none
  /-- the module's own bits as they stood at its fence; 13 R300; reset clear (log 2). -/
  contributed : Bits := {}
  /-- child ID and bits; 10 R232: VERDICT_UP messages of the present step; reset DESIGN CHOICE empty (log 2). -/
  children : List (BitVec 15 × Bits) := []
  /-- count; 13 R300: REPLAY verdicts of one step; reset DESIGN CHOICE 0 (log 2). -/
  replays : Nat := 0
  /-- optional s; 13 R300: the step the replay count belongs to; reset DESIGN CHOICE none (log 2). -/
  replayOf : Option DWord := none
  /-- count; 08 R182, 12 R275: ledger entries flagged in the step; reset DESIGN CHOICE 0 (log 2). -/
  flagged : Nat := 0
  /-- 1 bit; 12 R274: a QUIESCE waits for the fence; reset DESIGN CHOICE clear (log 2). -/
  quiesceDue : Bool := false
  /-- optional status; 08 R177, R181, 13 R300: a cause that takes the module to QUIESCED at the fence; reset none (log 2). -/
  holdDue : Option Status := none
  /-- list; 17 R363: saves that wait for their fence; reset DESIGN CHOICE empty (log 2). -/
  saves : List Ckpt := []
  /-- optional save or restore; 17 R367: the stop in progress; reset DESIGN CHOICE none (log 2). -/
  stop : Option Ckpt := none
  /-- optional save; 17 R367: the snapshot drain in progress; reset DESIGN CHOICE none (log 2). -/
  drain : Option Ckpt := none
  /-- list; 16 R353: maintenance items waiting, in request order; reset DESIGN CHOICE empty (log 2). -/
  items : List Item := []
  /-- optional item; 16 R353: the item that runs; reset DESIGN CHOICE none (log 2). -/
  running : Option Item := none
  /-- 1 bit; 16 R354: DEFER_LIMIT passed, the next ATTEMPT 0 record is claimed; reset DESIGN CHOICE clear (log 2). -/
  claimDue : Bool := false
  /-- 1 bit; 16 R354: the present attempt is claimed; reset DESIGN CHOICE clear (log 2). -/
  claimed : Bool := false
  /-- 1 bit; 13 R297: the present attempt is abandoned; reset DESIGN CHOICE clear (log 2). -/
  abandoned : Bool := false
  /-- bays the drain of an abandoned attempt disabled; 13 R297, R298; reset DESIGN CHOICE empty (log 2). -/
  drained : List BayId := []
  /-- 1 bit; 13 R297: void fill answers for this attempt; reset DESIGN CHOICE clear (log 2). -/
  voidFill : Bool := false
  /-- sill, shard: shards whose commit has ended; 08 R182; reset DESIGN CHOICE empty (log 2). -/
  doneShards : List (SillId × Nat) := []
  /-- sill, shard, STEP read: shards found skewed at the step record; 08 R177; reset DESIGN CHOICE empty (log 2). -/
  skewed : List (SillId × Nat × DWord) := []
  /-- sills whose commit has ended; 08 R182; reset DESIGN CHOICE empty (log 2). -/
  committed : List SillId := []
  /-- 1 bit; 18 R375: a 24-hour scan waits for a mode with AUTO_SCAN 1; reset DESIGN CHOICE clear (log 2). -/
  scanDue : Bool := false
  /-- list of die and bent; 16 R359: failed bents that wait for a fence; reset DESIGN CHOICE empty (log 2). -/
  failedBents : List (DieId × BentIx) := []
  /-- optional verdict; 08 R184, 17 R372: the rest of a fence waits for a save's stop, with the verdict of the step that ended;
  reset none (log 2). -/
  fenceLeft : Option Bits := none
  /-- optional s; 17 R365, R366: the s expected next; reset DESIGN CHOICE none (log 2). -/
  expected : Option DWord := none
  /-- 32 bits; 17 R365: LR_FACTOR of the last STEP; reset DESIGN CHOICE 0 (log 2). -/
  lrFactor : Word := 0
deriving DecidableEq, Repr

/-! ## The scribe log (R342 to R350, R415) -/

/-- A scribe record (R346), all but its CRC, which is computed where the record is read as bytes. -/
structure Record where
  seqNo      : Nat
  firstTime  : DWord
  span       : Nat
  reports    : Nat
  cls        : BitVec 4
  status     : Byte
  state      : BitVec 3
  timeValid  : Bool
  pinned     : Bool
  earlyClose : Bool
  updated    : Bool
  isOpen     : Bool
  subject    : Word
  reporter   : Word
  code       : BitVec 16
  bootCount  : BitVec 16
  step       : DWord
  tag        : Word
  detail     : DWord
deriving DecidableEq, Repr, Inhabited

/-- An open record: the record, its slots, the AON microseconds of its first and last report, and whether it opened after
the last clear of the pinned region (R344, R347). -/
structure OpenRec where
  record   : Record
  slot     : Nat
  pinSlot  : Option Nat
  firstAt  : Nat
  lastAt   : Nat
  fresh    : Bool
deriving DecidableEq, Repr, Inhabited

/-- What the MRAM of a kingpost holds of the log: the four fields of its header and its slots (R347). -/
structure LogImage where
  nextSeq   : Nat := 1
  oldest    : Nat := 65
  pinned    : Nat := 0
  bootCount : Nat := 0
  slots     : List (Nat × Record) := []
deriving DecidableEq, Repr, Inhabited

/-- The log and the SCRIBE block. -/
structure Scribe where
  /-- 64 bits; 16 R346, R347: next SEQ, in MRAM; reset 1 (spec: record numbers run from 1; log 1). -/
  nextSeq : Nat := 1
  /-- 1,048,576 slots of MRAM; 16 R347: records by slot; reset DESIGN CHOICE empty, a new part (log 1). -/
  slots : List (Nat × Record) := []
  /-- slot number; 16 R347: where the next record of the circular region goes; reset DESIGN CHOICE 65 (log 1). -/
  nextSlot : Nat := 65
  /-- slot number; 16 R347: index of the oldest slot of the circular region; reset DESIGN CHOICE 65 (log 1). -/
  oldest : Nat := 65
  /-- 7 bits; 16 R347: pinned count; reset DESIGN CHOICE 0 (log 1). -/
  pinned : Nat := 0
  /-- up to 256 records; 16 R344: open records, oldest first; reset 0 of them (spec: SCRIBE_OPEN 0). -/
  opens : List OpenRec := []
  /-- 32 bits; 16 R345: SCRIBE_EARLY_CLOSES; reset 0 (spec). -/
  earlyCloses : Nat := 0
  /-- slots; 16 R348: record writes not yet copied to the SPI NOR; reset none (spec: SCRIBE_MIRROR_LAG 0). -/
  mirror : List Nat := []
  /-- the SPI NOR image; 16 R348: records by slot; reset DESIGN CHOICE empty (log 1). -/
  nor : List (Nat × Record) := []
  /-- 32 bits; 19 R415: SCRIBE_SLOT; reset 0 (spec). -/
  slotReg : Word := 0
  /-- 32 bits; 19 R415: SCRIBE_NEXT_SEQ_HI as latched; reset DESIGN CHOICE 0 (log 2). -/
  seqHi : Word := 0
  /-- two slot indices; 16 R350: the I3C reader of KP-A and of KP-B; reset DESIGN CHOICE 0 (log 2). -/
  i3c : Nat × Nat := (0, 0)
  /-- optional image; 13 R302, 16 R348: the standby kingpost's MRAM where it is not a copy of the active one's; reset a new part's
  (log 1): it is a copy from the BOOT that sets STANDBY_OK. -/
  standby : Option LogImage := some {}
deriving DecidableEq, Repr

/-! ## Configuration and firmware update (R373 to R392, R405) -/

/-- The states of an image slot (R382). -/
inductive SlotState where
  | empty | staged | active | trial | fallback
deriving DecidableEq, Repr, Inhabited

/-- An image slot: its state, the image's digest, version, SVN and settings FORMAT (R382, R383). -/
structure ImageSlot where
  state   : SlotState
  digest  : BitVec 384
  version : Word
  svn     : Nat
  format  : BitVec 16
deriving DecidableEq, Repr, Inhabited

/-- A scheduled activation (R386). -/
structure Schedule where
  rolling : Bool
  revert  : Bool
  tAct    : DWord
  actStep : DWord
  tag     : Word
deriving DecidableEq, Repr, Inhabited

/-- The CFG block, the configuration store and the update machinery. -/
structure Cfg where
  /-- 32 bits; 07 R149, 19 R405: CFG_MEM_MAP; reset 0x0000_0010 (spec). -/
  memMap : Word := 0x10
  /-- 32 bits; 16 R355, 19 R405: CFG_DEFER; reset 0x003C_01F4 (spec). -/
  defer : Word := 0x003C01F4
  /-- 2 bits; 18 R380: CFG_STATE.MODE; reset TRAIN (spec 0b01). -/
  mode : OpMode := .train
  /-- 1 bit; 18 R380: CFG_STATE.FALLBACK, sticky; reset 0 (spec). -/
  fallback : Bool := false
  /-- entries of KEY and VALUE; 18 R373: the base record, in SPI NOR; reset the shipped base values, no register key (log 1). -/
  base : List (Word × Word) :=
    [(0x80000001, 1), (0x80000002, 1), (0x80000003, 1), (0x80000010, 0)]
  /-- KIND to entries; 18 R379: overlays written by CONFIG_WRITE, in SPI NOR; reset DESIGN CHOICE none (log 1). -/
  written : List (Byte × List (Word × Word)) := []
  /-- two images; 18 R382: slots A and B, in SPI NOR; reset slot A active, slot B empty, DESIGN CHOICE (log 1). -/
  slots : Vector ImageSlot 2 := #v[⟨.active, 0, 0, 0, 0⟩, ⟨.empty, 0, 0, 0, 0⟩]
  /-- 1 bit; 18 R380: ACTIVE_SLOT; reset slot A (spec 0b0). -/
  activeSlot : Fin 2 := 0
  /-- 1 bit; 18 R389: the trial image came by RELOAD_AT_START; reset DESIGN CHOICE clear (log 1). -/
  reloadTrial : Bool := false
  /-- optional request; 18 R384: UPDATE_STAGE in progress: its TAG, the resulting slot and its verdict; reset none (log 2). -/
  staging : Option (Word × ImageSlot × Option Byte) := none
  /-- optional schedule; 18 R386; reset DESIGN CHOICE none (log 2). -/
  schedule : Option Schedule := none
  /-- optional position; 18 R381, R388: components a ROLLING sequence has switched, and whether it goes back; reset none (log 2). -/
  rolling : Option (Nat × Bool) := none
  /-- bytes by offset; 18 R391: chunks of a package received in ACORN; reset DESIGN CHOICE empty (log 2). -/
  acorn : Memory := []
  /-- count; 18 R391: consecutive BOOT failures of the slots; reset DESIGN CHOICE 0 (log 2). -/
  bootFailures : Nat := 0
  /-- 1 bit; 18 R389: the next BOOT returns to the fallback image; reset DESIGN CHOICE clear (log 1). -/
  revertDue : Bool := false
  /-- 1 bit; 18 R390: a core of the trial image has failed, and the next BOOT falls back; reset DESIGN CHOICE clear (log 1). -/
  fallbackDue : Bool := false
  /-- optional base record and overlays; 18 R382, R384, R389: the settings in the FORMAT of the slot that does not run; reset
  DESIGN CHOICE none (log 1). -/
  converted : Option (List (Word × Word) × List (Byte × List (Word × Word))) := none
  /-- 1 bit; 18 R392: the image that ACORN wrote does not read the base record's FORMAT; reset DESIGN CHOICE clear (log 1). -/
  baseLost : Bool := false
deriving DecidableEq, Repr

/-! ## Security (R393 to R398) -/

/-- An SPDM session (R396). -/
structure SpdmSession where
  id          : Nat
  established : Bool
  updates     : Nat
deriving DecidableEq, Repr, Inhabited

/-- What a transport's SPDM connection has negotiated (R396). -/
structure SpdmConn where
  /-- 0 to 3: nothing, version, capabilities, algorithms; 18 R396; reset DESIGN CHOICE 0 (log 2). -/
  stage : Nat := 0
  /-- 32 bits; 18 R396: the requester's capability flags; reset DESIGN CHOICE 0 (log 2). -/
  flags : Word := 0
  /-- up to four; 18 R396: sessions; reset DESIGN CHOICE none (log 2). -/
  sessions : List SpdmSession := []
  /-- next session number; 18 R396; reset DESIGN CHOICE 1 (log 2). -/
  nextId : Nat := 1
  /-- bytes; 18 R396: a request arriving by CHUNK_SEND, with the next sequence number; reset DESIGN CHOICE none (log 2). -/
  chunksIn : Option (Nat × List Byte) := none
  /-- bytes; 18 R396: a response read by CHUNK_GET; reset DESIGN CHOICE none (log 2). -/
  chunksOut : List Byte := []
deriving DecidableEq, Repr

/-- The SEC block and the security core. -/
structure Sec where
  /-- 1 bit; 18 R398: SECURE_BOOT; reset 1 (spec). -/
  secureBoot : Bool := true
  /-- optional P-384 key; 18 R395, R398: owner lock, in MRAM; reset none (spec: OWNER_LOCK 0). -/
  owner : Option (BitVec 768) := none
  /-- 2 bits; 18 R397, R398: DEBUG_LEVEL; reset 0 (spec). -/
  debug : BitVec 2 := 0
  /-- 8 bits; 18 R393, R398: SVN_MIN, fused; reset 0 (spec). -/
  svnMin : Nat := 0
  /-- 16 bits; 18 R393, R398: KEYS_REVOKED, fused; reset 0 (spec). -/
  revoked : BitVec 16 := 0
  /-- optional 384 bits; 18 R395: the owner-lock nonce in force; reset DESIGN CHOICE none (log 2). -/
  ownerNonce : Option (BitVec 384) := none
  /-- optional 384 bits and AON microseconds; 18 R397: the debug nonce and when it was given; reset none (log 2). -/
  debugNonce : Option (BitVec 384 × Nat) := none
  /-- SPDM on PCIe DOE; 18 R396; reset see the connection's fields. -/
  doe : SpdmConn := {}
  /-- SPDM on MCTP over I3C; 18 R396; reset see the connection's fields. -/
  mctp : SpdmConn := {}
deriving DecidableEq, Repr

/-! ## Firmware processors (R289 to R304) -/

/-- The kingposts and their cores. -/
structure Fw where
  /-- 1 bit; 13 R301: ACTIVE_KP, set for KP-B; reset KP-A (spec 0b0). -/
  activeB : Bool := false
  /-- 1 bit; 13 R301: STANDBY_OK; reset 0 (spec). -/
  standbyOk : Bool := false
  /-- 1 bit; 13 R303, R304, 16 R357: the standby has failed or taken over; reset DESIGN CHOICE clear (log 2). -/
  standbyLost : Bool := false
  /-- 1 bit; 13 R304: no kingpost is left; reset DESIGN CHOICE clear (log 2). -/
  dead : Bool := false
  /-- 3 bits, security, power, scheduler; 13 R290: cores that restart; reset DESIGN CHOICE none (log 2). -/
  restarting : Vector Bool 3 := Vector.replicate 3 false
  /-- AON microseconds of restarts in the last 60 s, per core; 13 R295, R301: the RESTARTS fields; reset 0 of them (spec). -/
  restarts : Vector (List Nat) 3 := Vector.replicate 3 []
  /-- 3 bits; 13 R301: FAILED_CORE; reset none (spec 0b000). -/
  failedCore : Option CoreKind := none
  /-- 9 bits; 13 R301: CC_CRASHES; reset 0 (spec). -/
  ccCrashes : Nat := 0
  /-- 1 bit; 13 R301: the edge dies report PEER_STATE FAULTED; reset DESIGN CHOICE clear (log 2). -/
  edgeFaulted : Bool := false
deriving DecidableEq, Repr

/-! ## The whole state -/

/-- One Diuth module. -/
structure State where
  /-- the model's own queue of commands that wait, first in, first out; reset empty. -/
  pending : List Instr := []
  /-- the KP block. -/
  kp : Kp := {}
  /-- the host port. -/
  host : HostPort := {}
  /-- the management area. -/
  mgmt : Mgmt := {}
  /-- what the ports last answered. -/
  io : Io := {}
  /-- clocks and board time. -/
  clk : Clk := {}
  /-- power. -/
  pwr : Pwr := {}
  /-- supplies and temperatures. -/
  pkg : Package := {}
  /-- 16 ring dies; 01 R12. -/
  dies : Vector RingDie 16 := Vector.replicate 16 {}
  /-- 12 sills with their stacks; 01 R12. -/
  sills : Vector Sill 12 := Vector.replicate 12 {}
  /-- 24 Mortise links; 01 R15. -/
  links : Vector Link 24 := Vector.replicate 24 {}
  /-- 6 edge dies; 01 R12. -/
  edges : Vector Edge 6 := Vector.replicate 6 {}
  /-- the loader. -/
  loader : Loader := {}
  /-- collectives and the verdict tree. -/
  coll : Coll := {}
  /-- the job. -/
  job : Job := {}
  /-- the scribe log. -/
  scribe : Scribe := {}
  /-- configuration and update. -/
  cfg : Cfg := {}
  /-- security. -/
  sec : Sec := {}
  /-- firmware processors. -/
  fw : Fw := {}
  /-- the model's own counter of free values taken; no register of the module; reset DESIGN CHOICE 0 (log 8). -/
  free : Nat := 0
deriving DecidableEq, Repr

/-- The machine right after reset: every field at its default, which its docstring names with its source. -/
def State.reset : State := {}

end Sys2Proof.Machine
end

