-- ==== Sys2Proof/Machine/Ops.lean ====
section
/-! DEFINITION. The shared operations over State: sparse memories in canonical form, units, codes, counters, events, the scribe log,
completions, module memory and the verdict bits. -/

namespace Sys2Proof.Machine

/-- The outcome of a command. -/
abbrev Out := Host.Outcome State Fault Refusal

/-! ## Sparse arrays and memories in canonical form -/

/-- The value at an index; an unlisted one reads as `d`. -/
def Sparse.get {α : Type} (d : α) : Sparse α → Nat → α
  | [], _ => d
  | (b, v) :: rest, a => if b = a then v else Sparse.get d rest a

/-- An entry put before the first one of a higher index. -/
def Sparse.put {α : Type} (a : Nat) (v : α) : Sparse α → Sparse α
  | [] => [(a, v)]
  | (b, w) :: rest => if a < b then (a, v) :: (b, w) :: rest else (b, w) :: Sparse.put a v rest

/-- Writing the value an unlisted index reads as removes the entry; any other value is put in its place in order. -/
def Sparse.set {α : Type} [DecidableEq α] (d : α) (m : Sparse α) (a : Nat) (v : α) : Sparse α :=
  let rest := m.filter fun x => x.1 ≠ a
  if v = d then rest else Sparse.put a v rest

/-- The entries of consecutive indices from `base` on, in canonical form. -/
def Sparse.entries {α : Type} [DecidableEq α] (d : α) (base : Nat) (vals : List α) : Sparse α :=
  vals.zipIdx.filterMap fun v => if v.1 = d then none else some (base + v.2, v.1)

/-- Consecutive indices written at once. -/
def Sparse.setRange {α : Type} [DecidableEq α] (d : α) (m : Sparse α) (base : Nat) (vals : List α) : Sparse α :=
  (m.filter fun x => decide (x.1 < base)) ++ Sparse.entries d base vals ++
    m.filter fun x => decide (base + vals.length ≤ x.1)

/-- The canonical form: indices strictly rising from `lo` up, no entry equal to `d`. -/
def Sparse.wfFrom {α : Type} [DecidableEq α] (d : α) : Nat → Sparse α → Bool
  | _, [] => true
  | lo, (b, v) :: rest => decide (lo ≤ b) && decide (v ≠ d) && Sparse.wfFrom d (b + 1) rest

/-- A memory is in canonical form. -/
def Memory.wf (m : Memory) : Bool := Sparse.wfFrom (0 : Byte) 0 m

/-- One byte of a memory; what no write has touched reads as 0 (log entry 3). -/
def Memory.get (m : Memory) (a : Nat) : Byte := Sparse.get (0 : Byte) m a

/-- Writing one byte. -/
def Memory.set (m : Memory) (a : Nat) (v : Byte) : Memory := Sparse.set (0 : Byte) m a v

/-- Reading `n` bytes. -/
def Memory.read (m : Memory) (a : Nat) : Nat → List Byte
  | 0 => []
  | n + 1 => m.get a :: Memory.read m (a + 1) n

/-- Writing bytes at rising addresses. -/
def Memory.write (m : Memory) (a : Nat) : List Byte → Memory
  | [] => m
  | b :: rest => Memory.write (m.set a b) (a + 1) rest

/-- A little-endian number of `n` bytes (R8). -/
def Memory.readNat (m : Memory) (a n : Nat) : Nat := leNat (m.read a n)

/-! ## Vectors: one element changed -/

/-- The element of a vector changed by a function. -/
def updAt {α : Type} {n : Nat} (v : Vector α n) (i : Fin n) (f : α → α) : Vector α n := v.set i (f v[i])

/-! ## Units of the module -/

/-- A ring die. -/
def State.die (s : State) (d : DieId) : RingDie := s.dies[d]
/-- A ring die changed. -/
def State.modDie (s : State) (d : DieId) (f : RingDie → RingDie) : State := { s with dies := updAt s.dies d f }
/-- Every ring die changed. -/
def State.mapDies (s : State) (f : RingDie → RingDie) : State := { s with dies := s.dies.map f }
/-- A bay. -/
def State.bay (s : State) (b : BayId) : Bay := (s.die b.die).bays[b.bay]
/-- A bay changed. -/
def RingDie.modBay (r : RingDie) (b : BayIx) (f : Bay → Bay) : RingDie := { r with bays := updAt r.bays b f }
/-- A bay changed. -/
def State.modBay (s : State) (b : BayId) (f : Bay → Bay) : State := s.modDie b.die fun r => r.modBay b.bay f
/-- Every bay changed. -/
def State.mapBays (s : State) (f : Bay → Bay) : State := s.mapDies fun r => { r with bays := r.bays.map f }
/-- A bent. -/
def State.bent (s : State) (d : DieId) (b : BentIx) : Bent := (s.die d).bents[b]
/-- A bent changed. -/
def State.modBent (s : State) (d : DieId) (b : BentIx) (f : Bent → Bent) : State :=
  s.modDie d fun r => { r with bents := updAt r.bents b f }
/-- Every bent changed. -/
def State.mapBents (s : State) (f : Bent → Bent) : State := s.mapDies fun r => { r with bents := r.bents.map f }
/-- A stream slot. -/
def State.stream (s : State) (b : BayId) (k : SlotIx) : Stream := (s.bay b).streams[k]
/-- A stream slot changed. -/
def State.modStream (s : State) (b : BayId) (k : SlotIx) (f : Stream → Stream) : State :=
  s.modBay b fun y => { y with streams := updAt y.streams k f }
/-- A kiln region. -/
def State.region (s : State) (b : BayId) (k : SlotIx) : KilnRegion := (s.bay b).regions[k]
/-- A kiln region changed. -/
def State.modRegion (s : State) (b : BayId) (k : SlotIx) (f : KilnRegion → KilnRegion) : State :=
  s.modBay b fun y => { y with regions := updAt y.regions k f }
/-- A sill with its stack. -/
def State.sill (s : State) (m : SillId) : Sill := s.sills[m]
/-- A sill changed. -/
def State.modSill (s : State) (m : SillId) (f : Sill → Sill) : State := { s with sills := updAt s.sills m f }
/-- A link. -/
def State.link (s : State) (k : LinkId) : Link := s.links[k]
/-- A link changed. -/
def State.modLink (s : State) (k : LinkId) (f : Link → Link) : State := { s with links := updAt s.links k f }
/-- An edge die. -/
def State.edge (s : State) (e : EdgeId) : Edge := s.edges[e]
/-- An edge die changed. -/
def State.modEdge (s : State) (e : EdgeId) (f : Edge → Edge) : State := { s with edges := updAt s.edges e f }
/-- A job ring. -/
def State.ring (s : State) (n : RingIx) : HostRing := s.host.rings[n]
/-- A job ring changed. -/
def State.modRing (s : State) (n : RingIx) (f : HostRing → HostRing) : State :=
  { s with host := { s.host with rings := updAt s.host.rings n f } }
/-- A clock domain changed. -/
def RingDie.modDomain (r : RingDie) (d : Fin 17) (f : Domain → Domain) : RingDie :=
  { r with domains := updAt r.domains d f }
/-- An engine queue changed. -/
def Bay.modQueue (y : Bay) (q : Fin 6) (f : EngineQueue → EngineQueue) : Bay := { y with queues := updAt y.queues q f }
/-- A completion counter changed. -/
def Bay.modCounter (y : Bay) (c : CtrIx) (f : CompCounter → CompCounter) : Bay :=
  { y with counters := updAt y.counters c f }
/-- A thread changed. -/
def Bay.modThread (y : Bay) (t : ThreadIx) (f : Thread → Thread) : Bay := { y with threads := updAt y.threads t f }

/-- The vertices of the 4 x 4 grid without a stack or links: the inner ring dies (R12, R407). -/
def innerDie (d : DieId) : Bool := d.val == 5 || d.val == 6 || d.val == 9 || d.val == 10

/-- Every ring die, in ascending number. -/
def allDies : List DieId := List.finRange 16
/-- Every sill, in ascending number. -/
def allSills : List SillId := List.finRange 12

/-- The six edge dies. -/
def allEdges : List EdgeId := List.finRange 6

/-- The update list that a sill reads: the active half (R253). -/
def Sill.active (x : Sill) : UpdateList := x.lists[x.activeList]
/-- Every link, in ascending number. -/
def allLinks : List LinkId := List.finRange 24
/-- Every bay, die by die. -/
def allBays : List BayId := allDies.flatMap fun d => (List.finRange 4).map fun b => ⟨d, b⟩

/-! ## Codes -/

/-- Status codes (R10). -/
def statusCode : Status → Byte
  | .done => 0x00
  | .doneFlagged => 0x01
  | .badDescriptor => 0x10
  | .verifyFailed => 0x11
  | .shapeMismatch => 0x12
  | .featureAbsent => 0x13
  | .stepSkew => 0x20
  | .stepWithheld => 0x21
  | .stepReplayed => 0x22
  | .cancelled => 0x30
  | .disabled => 0x31
  | .multicastTimeout => 0x32
  | .linkDown => 0x40
  | .peerLost => 0x41
  | .memoryUncorrectable => 0x50
  | .firmwareRestarted => 0x60
  | .orphanAdopted => 0x61
  | .updateRefused => 0x70
  | .internal => 0x7F

/-- The codes of R402, which are the PEER_STATE codes of R192 with ACORN added. -/
def stateCode : ModState → BitVec 3
  | .boot => 0
  | .idle => 1
  | .armed => 2
  | .running => 3
  | .quiesced => 4
  | .orphaned => 5
  | .faulted => 6
  | .acorn => 7

/-- Mode codes (R377). -/
def modeCode : OpMode → Byte
  | .train => 1
  | .rollout => 2
  | .calibrate => 3

/-- The queue's number (R258). -/
def queueNo : QueueIx → Fin 6
  | .fetch => 0
  | .store => 1
  | .vector => 2
  | .ring => 3
  | .kiln => 4
  | .link => 5

/-- The function's number in RING_FUNC_STATE (R95). -/
def funcNo : FuncKind → Fin 4
  | .bay => 0
  | .vector => 1
  | .fetch => 2
  | .store => 3

/-- The core's number, security 0, power 1, scheduler 2. -/
def coreNo : CoreKind → Fin 3
  | .security => 0
  | .power => 1
  | .scheduler => 2

/-- FAILED_CORE codes (R301). -/
def coreCode : CoreKind → BitVec 3
  | .security => 1
  | .power => 2
  | .scheduler => 3

/-- Error classes (R342). -/
inductive Class where
  | corrected | work | degraded | fatal | environment | notice
deriving DecidableEq, Repr, Inhabited

/-- Class codes (R342). -/
def Class.code : Class → BitVec 4
  | .corrected => 1
  | .work => 2
  | .degraded => 3
  | .fatal => 4
  | .environment => 5
  | .notice => 6

/-- Severity of a class code (R342). -/
def severity (c : BitVec 4) : Nat :=
  if c = 1 then 1 else if c = 6 then 2 else if c = 5 then 3 else if c = 2 then 4 else if c = 3 then 5 else 6

/-! ## Identities of units (R343) -/

/-- A unit of a ring die by its unit number. -/
def idDie (d : DieId) (unit : Nat) (row : Nat := 0) : Word :=
  BitVec.ofNat 32 (0x10000000 + d.val * 2 ^ 24 + unit * 2 ^ 16 + row)
/-- A row of a stack. -/
def idStack (m : SillId) (pc row : Nat) : Word :=
  BitVec.ofNat 32 (0x20000000 + m.val * 2 ^ 24 + pc * 2 ^ 18 + row)
/-- A link, or one of its lanes. -/
def idLink (k : LinkId) (lane : Nat := 0xF) : Word := BitVec.ofNat 32 (0x30000000 + k.val * 2 ^ 23 + lane * 2 ^ 19)
/-- An edge die's unit. -/
def idEdge (e : EdgeId) (unit : Nat) : Word := BitVec.ofNat 32 (0x40000000 + e.val * 2 ^ 25 + unit * 2 ^ 23)
/-- A kingpost's unit. -/
def idKp (b : Bool) (unit : Nat) : Word := BitVec.ofNat 32 (0x50000000 + (if b then 2 ^ 27 else 0) + unit * 2 ^ 24)
/-- A regulator site. -/
def idSite (n : Nat) : Word := BitVec.ofNat 32 (0x60000000 + n * 2 ^ 24)
/-- A peer module. -/
def idPeer (m : BitVec 15) : Word := BitVec.ofNat 32 (0x70000000 + m.toNat)
/-- A job ring of the host, or the driver as a whole (15). -/
def idHost (n : Nat) : Word := BitVec.ofNat 32 (0x80000000 + n * 2 ^ 24)
/-- The module as a whole. -/
def idModule : Word := 0

/-! ## Counters (R406) -/

/-- Saturating addition of 32-bit counters. -/
def satAdd (w : Word) (n : Nat) : Word := BitVec.ofNat 32 (min (w.toNat + n) 0xFFFFFFFF)

/-- A counter of a sparse counter array raised by n. -/
def Sparse.bump (c : Sparse Word) (i n : Nat) : Sparse Word :=
  Sparse.set (0 : Word) c i (satAdd (Sparse.get (0 : Word) c i) n)

/-- A counter that holds a greatest value. -/
def Sparse.raiseTo (c : Sparse Word) (i n : Nat) : Sparse Word :=
  if n > (Sparse.get (0 : Word) c i).toNat then Sparse.set (0 : Word) c i (BitVec.ofNat 32 n) else c

/-- A RING counter raised (R411). -/
def RingDie.count (r : RingDie) (i : Nat) (n : Nat := 1) : RingDie := { r with counters := Sparse.bump r.counters i n }
/-- A RING counter raised. -/
def State.countRing (s : State) (d : DieId) (i : Nat) (n : Nat := 1) : State := s.modDie d fun r => r.count i n
/-- A SILL counter raised (R412). -/
def Sill.count (m : Sill) (i : Nat) (n : Nat := 1) : Sill := { m with counters := Sparse.bump m.counters i n }
/-- A SILL counter raised. -/
def State.countSill (s : State) (m : SillId) (i : Nat) (n : Nat := 1) : State := s.modSill m fun x => x.count i n
/-- A LINK counter raised (R413). -/
def Link.count (l : Link) (i : Nat) (n : Nat := 1) : Link := { l with counters := Sparse.bump l.counters i n }
/-- A LINK counter raised. -/
def State.countLink (s : State) (k : LinkId) (i : Nat) (n : Nat := 1) : State := s.modLink k fun x => x.count i n
/-- A link-engine counter raised (R414). -/
def State.countEdge (s : State) (e : EdgeId) (i : Nat) (n : Nat := 1) : State :=
  s.modEdge e fun x => { x with counters := Sparse.bump x.counters i n }

/-- A dropped write to a BAR0 offset (R9, R400). -/
def State.dropWrite (s : State) (offset : Nat) : State :=
  { s with kp := { s.kp with droppedWrites := satAdd s.kp.droppedWrites 1, droppedLast := BitVec.ofNat 32 offset } }

/-- Bytes moved on a stack's data pins, counted in KiB (R161): reads in counter 1, writes in counter 2. -/
def Sill.moveBytes (m : Sill) (isWrite : Bool) (n : Nat) : Sill :=
  if isWrite then { (m.count 0x02 ((m.writeRest + n) / 1024)) with writeRest := (m.writeRest + n) % 1024 }
  else { (m.count 0x01 ((m.readRest + n) / 1024)) with readRest := (m.readRest + n) % 1024 }

/-- Bytes counted in KiB by one of a die's five byte counters (R144, R114). -/
def RingDie.moveBytes (r : RingDie) (which : Fin 5) (n : Nat) : RingDie :=
  let index := [0x50, 0x51, 0x52, 0x42, 0x43].getD which.val 0x50
  let total := r.kibRest[which] + n
  { (r.count index (total / 1024)) with kibRest := r.kibRest.set which (total % 1024) }

/-! ## CRC-32C (R194) -/

/-- One bit step of CRC-32C in its reflected form. -/
def crc32cBit (c : Nat) : Nat := if c % 2 = 1 then (c / 2) ^^^ 0x82F63B78 else c / 2

/-- One byte of CRC-32C. -/
def crc32cByte (c : Nat) (b : Byte) : Nat := Nat.repeat crc32cBit 8 (c ^^^ b.toNat)

/-- CRC-32C of bytes. -/
def crc32c (bytes : List Byte) : Word := BitVec.ofNat 32 ((bytes.foldl crc32cByte 0xFFFFFFFF) ^^^ 0xFFFFFFFF)

/-! ## Free values -/

/-- The next free value of the module's own, and the state that has taken it (log entry 8). -/
def State.takeFree (s : State) : DWord × State := (Config.freeWord s.free, { s with free := s.free + 1 })

/-- The next free yes-or-no outcome (log entry 8). -/
def State.takeFreeBit (s : State) : Bool × State := (Config.freeBit s.free, { s with free := s.free + 1 })

/-- The PCIe port trains: at 64 GT/s or a lower rate, and at x16, x8 or x4. The result is free, and Link Status reports it (R261;
log entry 4). -/
def State.trainPort (s : State) : State :=
  let (w, s) := s.takeFree
  let rate := 1 + w.toNat % 6
  let width := 4 * 2 ^ (w.toNat / 6 % 3)
  { s with host := { s.host with linkStatus := BitVec.ofNat 16 (rate + 16 * width) } }

/-! ## Vectors and events (R261, R283, R287) -/

/-- A vector is masked in the MSI-X table: bit 0 of its last word (PCIe; log entry 4). -/
def State.vectorMasked (s : State) (v : Nat) : Bool := (s.host.msixTable.get (16 * v + 12)).getLsbD 0

/-- An MSI-X message can go out: after driver loss the module writes no host memory (R279). -/
def State.vectorGoes (s : State) (v : Nat) : Bool :=
  s.host.busMaster && s.host.msixEnable && !s.host.driverLost && !s.vectorMasked v

/-- The module raises an MSI-X vector: a message, or the pending bit where none can go out. -/
def State.raiseVector (s : State) (v : Nat) : State :=
  if s.vectorGoes v then
    { s with host := { s.host with raised := s.host.raised ++ [v] } }
  else { s with host := { s.host with msixPending := s.host.msixPending ||| BitVec.ofNat 64 (2 ^ v) } }

/-- Pending vectors are sent once MSI-X and bus mastering are on and they are not masked (PCIe; log entry 4). -/
def State.sendPending (s : State) : State :=
  (List.range 64).foldl
    (fun s v =>
      if s.host.msixPending.getLsbD v && s.vectorGoes v then
        { s with host := { s.host with
            raised := s.host.raised ++ [v], msixPending := s.host.msixPending &&& ~~~BitVec.ofNat 64 (2 ^ v) } }
      else s) s

/-- The MSI-X vector of the event ring (R404). -/
def State.eventVector (s : State) : Nat := (s.host.ctrl.extractLsb' 8 6).toNat

/-- The event vector is raised at most once per 10 us (R283). -/
def State.raiseEvent (s : State) : State :=
  let due := match s.mgmt.raisedAt with
    | none => true
    | some t => decide (t + 10 ≤ s.clk.aonMicros)
  if due then ({ s with mgmt := { s.mgmt with raisedAt := some s.clk.aonMicros, owed := false } }).raiseVector s.eventVector
  else { s with mgmt := { s.mgmt with owed := true } }

/-- Events written and not yet read (R283). -/
def Mgmt.unread (m : Mgmt) : Nat := (m.evtProduced - m.evtConsumed).toNat

/-- The event ring has room and its core runs (R283, R290). -/
def State.eventRoom (s : State) : Bool := decide (s.mgmt.unread < 4096) && !s.fw.restarting[2] && !s.fw.dead

/-- An entry put into the ring in place of the oldest of 4,096 (R277, R283). -/
def Mgmt.append (m : Mgmt) (e : Event) : Mgmt :=
  { m with events := m.events.drop (m.events.length - 4095) ++ [e], evtProduced := m.evtProduced + 1 }

/-- An event is written, or waits for room; no event is dropped (R283). -/
def State.putEvent (s : State) (e : Event) : State :=
  if s.eventRoom && s.mgmt.waiting.isEmpty then
    ({ s with mgmt := s.mgmt.append e }).raiseEvent
  else { s with mgmt := { s.mgmt with waiting := s.mgmt.waiting ++ [e] } }

/-- Board time in nanoseconds (R322). -/
def State.now (s : State) : DWord := s.clk.boardTime

/-- An event of a kind with its data bytes 16 to 63 as a number (R287). -/
def State.postEvent (s : State) (kind : Byte) (status : Status) (tag : Word) (data : BitVec 384) : State :=
  s.putEvent ⟨kind, status, stateCode s.kp.state, tag, s.now, data⟩

/-- Events that wait are written while there is room. -/
def drainEvents : Nat → State → State
  | 0, s => s
  | n + 1, s =>
    match s.mgmt.waiting with
    | [] => s
    | e :: rest =>
      if s.eventRoom then
        drainEvents n (({ s with mgmt := { s.mgmt with waiting := rest }.append e }).raiseEvent)
      else s

/-- The RESPONSE event of a request (R283, R287). -/
def State.respond (s : State) (tag : Word) (status : Status) (data : BitVec 384 := 0) : State :=
  s.postEvent 0x01 status tag data

/-! ## The scribe log (R344 to R347) -/

/-- A slot of the log written. -/
def putSlot : List (Nat × Record) → Nat → Record → List (Nat × Record)
  | [], k, r => [(k, r)]
  | (j, q) :: rest, k, r =>
    if k < j then (k, r) :: (j, q) :: rest
    else if k = j then (k, r) :: rest
    else (j, q) :: putSlot rest k r

/-- A record written to MRAM and due for the mirror (R347, R348). -/
def Scribe.write (c : Scribe) (slot : Nat) (r : Record) : Scribe :=
  { c with slots := putSlot c.slots slot r, mirror := c.mirror ++ [slot] }

/-- The slot after another in the circular region (R347). -/
def nextCircular (slot : Nat) : Nat := if slot = 1048575 then 65 else slot + 1

/-- An open record as its slots hold it. -/
def Scribe.rewrite (c : Scribe) (o : OpenRec) : Scribe :=
  let c := c.write o.slot o.record
  match o.pinSlot with
  | none => c
  | some p => c.write p o.record

/-- The record closes and is rewritten (R344). -/
def Scribe.close (c : Scribe) (o : OpenRec) (early : Bool) : Scribe :=
  let r := { o.record with isOpen := false, earlyClose := early, span := o.lastAt - o.firstAt }
  { (c.rewrite { o with record := r }) with
    opens := c.opens.filter fun x => x.slot ≠ o.slot,
    earlyCloses := if early then min (c.earlyCloses + 1) 0xFFFFFFFF else c.earlyCloses }

/-- Room in the pinned region for a record of WORK or higher that opened since the last clear (R347). -/
def Scribe.pinFor (c : Scribe) (cls : BitVec 4) (fresh : Bool) : Option Nat :=
  if severity cls ≥ 4 && fresh && decide (c.pinned < 64) then some (c.pinned + 1) else none

/-- What a report carries (R346). -/
structure Report where
  cls      : Class
  code     : BitVec 16
  subject  : Word
  reporter : Word
  status   : Status := .done
  tag      : Word := 0
  detail   : DWord := 0
  /-- an ENVIRONMENT record of a kind that raises a FAULT event (R342). -/
  envFault : Bool := false
  /-- a report of the hardware of a dead kingpost's partner: it skips coalescing (R345; log entry 148). -/
  alone : Bool := false
  /-- the board time that the record gives where it is not the time of the report (R339; log entry 149). -/
  time : Option DWord := none
deriving DecidableEq, Repr

/-- The job step the module is in, 0 outside a job (R346). -/
def State.stepNow (s : State) : DWord :=
  match s.job.current with
  | none => 0
  | some r => r.s

/-- The record a first report opens (R346). -/
def State.newRecord (s : State) (r : Report) (pin : Option Nat) (isOpen : Bool) : Record :=
  { seqNo := s.scribe.nextSeq, firstTime := r.time.getD s.now, span := 0, reports := 1, cls := r.cls.code, status := statusCode r.status,
    state := stateCode s.kp.state, timeValid := s.clk.valid, pinned := pin.isSome, earlyClose := false, updated := false,
    isOpen := isOpen, subject := r.subject, reporter := r.reporter, code := r.code,
    bootCount := BitVec.ofNat 16 s.kp.bootCount, step := s.stepNow, tag := r.tag, detail := r.detail }

/-- A class that puts a FAULT event on the event ring (R342). -/
def raisesFault (cls : BitVec 4) (env : Bool) : Bool := severity cls ≥ 4 || env

/-- The FAULT event carries the record's SEQ (R287). -/
def State.faultEvent (s : State) (r : Record) : State :=
  s.postEvent 0x09 .done r.tag (BitVec.ofNat 384 r.seqNo)

/-- A report that is written as a record of its own (R345). -/
def State.skipsCoalescing (s : State) (r : Report) : Bool := r.alone || decide (s.kp.state = .acorn)

/-- The first report of a subject opens a record (R344, R345, R347). -/
def State.openRecord (s : State) (r : Report) : State :=
  let alone := s.skipsCoalescing r
  let early := match s.scribe.opens with
    | o :: _ => if !alone && decide (s.scribe.opens.length ≥ 256) then s.scribe.close o true else s.scribe
    | [] => s.scribe
  let pin := early.pinFor r.cls.code true
  let record := s.newRecord r pin (!alone)
  let slot := early.nextSlot
  let full := early.slots.any fun x => x.1 = slot
  let opened : OpenRec :=
    { record := record, slot := slot, pinSlot := pin, firstAt := s.clk.aonMicros, lastAt := s.clk.aonMicros, fresh := true }
  let written := (early.rewrite opened)
  let c := { written with
    nextSeq := early.nextSeq + 1
    nextSlot := nextCircular slot
    oldest := if full then nextCircular slot else early.oldest
    pinned := if pin.isSome then early.pinned + 1 else early.pinned
    opens := if alone then early.opens else early.opens ++ [opened] }
  let s := { s with scribe := c }
  if raisesFault r.cls.code r.envFault then s.faultEvent record else s

/-- A report whose subject has an open record is coalesced into it (R344, R347, R361). -/
def State.coalesce (s : State) (o : OpenRec) (r : Report) : State :=
  let raised := severity r.cls.code > severity o.record.cls
  let cls := if raised then r.cls.code else o.record.cls
  let pin := if o.pinSlot.isSome then none else s.scribe.pinFor cls o.fresh
  let record := { o.record with
    reports := min (o.record.reports + 1) 0xFFFFFFFF
    cls := cls
    updated := o.record.updated || raised
    pinned := o.record.pinned || pin.isSome
    span := s.clk.aonMicros - o.firstAt }
  let o' := { o with record := record, lastAt := s.clk.aonMicros, pinSlot := o.pinSlot <|> pin }
  let c := { s.scribe with
    opens := s.scribe.opens.map fun x => if x.slot = o.slot then o' else x
    pinned := if pin.isSome then s.scribe.pinned + 1 else s.scribe.pinned }
  let c := if pin.isSome || (raised && r.cls = .fatal) then c.rewrite o' else c
  let s' := { s with scribe := c }
  if raisesFault cls r.envFault && !raisesFault o.record.cls false then s'.faultEvent record else s'

/-- A report to the scribe log (R344). With no kingpost left nothing is written (R304). -/
def State.report (s : State) (r : Report) : State :=
  if s.fw.dead then s
  else
    match s.scribe.opens.find? fun o => o.record.subject = r.subject with
    | none => s.openRecord r
    | some o => if s.skipsCoalescing r then s.openRecord r else s.coalesce o r

/-! ## Records as bytes (R346, R347) -/

/-- A flag as a number. -/
def bit (b : Bool) : Nat := if b then 1 else 0

/-- The 64 bytes of a record, its CRC last (R346). -/
def recordBytes (r : Record) : List Byte :=
  let body :=
    leBytes 8 r.seqNo ++ leBytes 8 r.firstTime.toNat ++ leBytes 4 (min r.span 0xFFFFFFFF) ++ leBytes 4 r.reports ++
    [BitVec.ofNat 8 r.cls.toNat, r.status,
     BitVec.ofNat 8 (r.state.toNat + 8 * bit r.timeValid + 16 * bit r.pinned + 32 * bit r.earlyClose +
       64 * bit r.updated + 128 * bit r.isOpen), 0] ++
    leBytes 4 r.subject.toNat ++ leBytes 4 r.reporter.toNat ++ leBytes 2 r.code.toNat ++ leBytes 2 r.bootCount.toNat ++
    leBytes 8 r.step.toNat ++ leBytes 4 r.tag.toNat ++ leBytes 8 r.detail.toNat
  body ++ leBytes 4 (crc32c body).toNat

/-- The log header, slot 0 (R347). -/
def State.headerBytes (s : State) : List Byte :=
  let body := leBytes 8 s.scribe.nextSeq ++ leBytes 8 s.scribe.oldest ++ leBytes 8 s.scribe.pinned ++
    leBytes 8 s.kp.bootCount ++ List.replicate 28 0
  body ++ leBytes 4 (crc32c body).toNat

/-- A slot as stored; one never written reads as zeros. -/
def State.slotBytes (s : State) (slot : Nat) : List Byte :=
  if slot = 0 then s.headerBytes
  else
    match s.scribe.slots.find? fun x => x.1 = slot with
    | none => List.replicate 64 0
    | some x => recordBytes x.2

/-! ## REPLACE_REQ (R357) -/

/-- The DEGRADED record and the event of a cause that starts to hold (R357). -/
def State.causeStarted (s : State) (k : Nat) : State :=
  (s.report
    { cls := .degraded, code := 0x1806, subject := idModule, reporter := idKp s.fw.activeB 2, detail := BitVec.ofNat 64 k }).postEvent 0x07 .done 0 (BitVec.ofNat 384 k)

/-- Whether each cause holds now, from the persistent records; the stack cause stays as BOOT left it (R357). -/
def State.causeHolds (s : State) (k : Nat) : Bool :=
  match k with
  | 1 => s.links.toList.any fun l => l.spareUsed || decide (l.laneRecords ≠ 0)
  | 2 => s.sills.toList.any fun m => !m.retired.isEmpty
  | 3 => decide (s.kp.shape < s.kp.grade)
  | 4 => s.fw.standbyLost
  | 5 => s.dies.toList.any fun r => !r.withdrawn.isEmpty
  | _ => s.kp.causes.getLsbD 5

/-- The causes are evaluated again; each that starts to hold posts its event (R357). -/
def State.evalCauses (s : State) : State :=
  [1, 2, 3, 4, 5, 6].foldl
    (fun s k =>
      let was := s.kp.causes.getLsbD (k - 1)
      let is := s.causeHolds k
      let s := { s with kp := { s.kp with causes :=
        if is then s.kp.causes ||| BitVec.ofNat 6 (2 ^ (k - 1)) else s.kp.causes &&& ~~~ BitVec.ofNat 6 (2 ^ (k - 1)) } }
      if is && !was then s.causeStarted k else s) s

/-- REPLACE_REQ is set while any cause holds (R357). -/
def State.replaceReq (s : State) : Bool := s.kp.causes ≠ 0

/-- The ALERT land (R342). -/
def State.alert (s : State) : Bool := s.replaceReq || s.kp.state = .faulted || s.pkg.thermTrip

/-! ## The verdict bits (R178, R179) -/

/-- A bit set. -/
def Bits.merge (a b : Bits) : Bits := ⟨a.nonfinite || b.nonfinite, a.skew || b.skew, a.replay || b.replay⟩

/-- The three bits as the completion record and CONTEXT number them: [2] NONFINITE, [1] SKEW, [0] REPLAY (R275, R221). -/
def Bits.code (b : Bits) : BitVec 3 := BitVec.ofNat 3 (4 * bit b.nonfinite + 2 * bit b.skew + bit b.replay)

/-- The bits of a code. -/
def Bits.ofCode (c : BitVec 3) : Bits := ⟨c.getLsbD 2, c.getLsbD 1, c.getLsbD 0⟩

/-- Whether any bit is set. -/
def Bits.any (b : Bits) : Bool := b.nonfinite || b.skew || b.replay

/-- A bit set in the module: in the present step before its fence, in the next step after it, and none outside RUNNING
(R178, R179, R299, R358). -/
def State.setBits (s : State) (b : Bits) : State :=
  if s.kp.state = .running then
    if s.job.phase = .posted ∨ s.job.phase = .running then
      { s with job := { s.job with own := s.job.own.merge b } }
    else { s with job := { s.job with next := s.job.next.merge b } }
  else s

/-- REPLAY set. -/
def State.setReplay (s : State) : State := s.setBits { replay := true }
/-- NONFINITE set. -/
def State.setNonfinite (s : State) : State := s.setBits { nonfinite := true }
/-- SKEW set. -/
def State.setSkew (s : State) : State := s.setBits { skew := true }

/-! ## Module memory (R146, R147, R149, R158) -/

/-- I in bytes (R149). -/
def State.interleave (s : State) : Nat := (s.cfg.memMap.extractLsb' 0 5).toNat * 2 ^ 30

/-- Base of the interleaved region (R147). -/
def interleavedBase : Nat := 0xC000000000

/-- Bytes of module memory in a stack. -/
def stackBytes : Nat := 64000000000

/-- Decoding of a module address (R147). -/
def State.decodeAddr (s : State) (a : Nat) : Option (SillId × Nat) :=
  let i := s.interleave
  let m := a / 2 ^ 36
  let o := a % 2 ^ 36
  if h : m < 12 then
    if i ≤ o ∧ o < stackBytes then some (⟨m, h⟩, o) else none
  else if interleavedBase ≤ a ∧ a < interleavedBase + 12 * i then
    let x := a - interleavedBase
    let p := x / 4096
    some (⟨p % 12, Nat.mod_lt _ (by omega)⟩, p / 12 * 4096 + x % 4096)
  else none

/-- Every byte of a range lies in module memory (R129, R147). -/
def State.inMemory (s : State) (a n : Nat) : Bool :=
  let i := s.interleave
  if n = 0 then true
  else if a / 2 ^ 36 < 12 then
    decide (a / 2 ^ 36 = (a + n - 1) / 2 ^ 36) && decide (i ≤ a % 2 ^ 36) && decide ((a + n - 1) % 2 ^ 36 < stackBytes)
  else decide (interleavedBase ≤ a) && decide (a + n ≤ interleavedBase + 12 * i)

/-- A byte of module memory; an address outside it reads as all-ones (R263). -/
def State.memByte (s : State) (a : Nat) : Byte :=
  match s.decodeAddr a with
  | none => 0xFF
  | some (m, o) => (s.sill m).dram.get o

/-- Bytes of module memory. -/
def State.readMem (s : State) (a : Nat) : Nat → List Byte
  | 0 => []
  | n + 1 => s.memByte a :: s.readMem (a + 1) n

/-- The stack page of an offset (R148). -/
def pageOf (offset : Nat) : Nat := offset / 4096

/-- The row of a stack page: 16 consecutive pages (R148). -/
def rowOfPage (page : Nat) : Nat := page / 16

/-- The page is on the retired-page list (R158). -/
def Sill.pageRetired (m : Sill) (page : Nat) : Bool := m.retired.any fun e => e.page = page

/-- The retired-page list is full (R159). -/
def Sill.listFull (m : Sill) : Bool := decide (m.retired.length ≥ 1024)

/-- A read of the sector is uncorrectable at once: POISON, or a retired page (R151, R158). -/
def Sill.sectorBad (m : Sill) (sector : Nat) : Bool :=
  m.poison.contains sector || m.pageRetired (pageOf (sector * 64))

/-- A byte written to a stack, unless its page is retired (R158). -/
def State.putByte (s : State) (m : SillId) (o : Nat) (v : Byte) : State :=
  s.modSill m fun x => { x with dram := x.dram.set o v }

/-- Bytes written to module memory, byte by byte; those of retired pages and outside module memory are dropped. -/
def State.writeBytes (s : State) (a : Nat) : List Byte → State
  | [] => s
  | b :: rest =>
    let s' := match s.decodeAddr a with
      | none => s
      | some (m, o) => if (s.sill m).pageRetired (pageOf o) then s else s.putByte m o b
    s'.writeBytes (a + 1) rest

/-- The sectors a range touches: for each, its sill, its sector number, and whether the range covers it whole. -/
def State.sectorsOf (s : State) (a n : Nat) : List (SillId × Nat × Bool) :=
  if n = 0 then []
  else
    (List.range ((a + n - 1) / 64 - a / 64 + 1)).filterMap fun k =>
      let base := (a / 64 + k) * 64
      match s.decodeAddr base with
      | none => none
      | some (m, o) => some (m, o / 64, decide (a ≤ base) && decide (base + 64 ≤ a + n))

/-- What a write does beside its bytes: a whole sector written loses its POISON (R153), a part of one is read, merged and
written (R146), a write to a retired page is counted (R158), and a corrective write-back of the sector that waits is dropped
(R152). -/
def State.noteWrite (s : State) (x : SillId × Nat × Bool) : State :=
  let (m, sector, whole) := x
  s.modSill m fun y =>
    if y.pageRetired (pageOf (sector * 64)) then y.count 0x0E
    else
      let y := { (y.count 0x06 (y.writeBacks.countP (· = sector))) with
        poison := if whole then y.poison.filter (· ≠ sector) else y.poison
        writeBacks := y.writeBacks.filter (· ≠ sector) }
      (if whole then y else y.moveBytes false 64).moveBytes true 64

/-- A write to module memory with all its effects on the sectors. -/
def State.writeMem (s : State) (a : Nat) (bytes : List Byte) : State :=
  (s.sectorsOf a bytes.length).foldl State.noteWrite (s.writeBytes a bytes)

/-- Some sector of the range lies in a retired page (R158). -/
def State.touchesRetired (s : State) (a n : Nat) : Bool :=
  (s.sectorsOf a n).any fun x => (s.sill x.1).pageRetired (pageOf (x.2.1 * 64))

/-- Some sector of the range is uncorrectable at once (R151, R158). -/
def State.touchesBad (s : State) (a n : Nat) : Bool :=
  (s.sectorsOf a n).any fun x => (s.sill x.1).sectorBad x.2.1

/-! ## The loft and data memory -/

/-- Bytes of the loft (R4). -/
def loftBytes : Nat := 2 ^ 30

/-- A loft buffer of an offset: 64 KiB each (R119). -/
def bufferOf (offset : Nat) : Nat := offset / 65536

/-- A slice of a loft offset: 1,024 buffers each (R119). -/
def sliceOfBuffer (n : Nat) : Nat := n / 1024

/-- Bytes of the loft written. -/
def State.writeLoft (s : State) (d : DieId) (a : Nat) (bytes : List Byte) : State :=
  s.modDie d fun r => { r with loft := r.loft.write a bytes }

/-- Bytes of the loft. -/
def State.readLoft (s : State) (d : DieId) (a n : Nat) : List Byte := (s.die d).loft.read a n

/-! ## Completion records (R275, R276, R279, R280) -/

/-- SIZE_LOG2 of a ring (R404). -/
def HostRing.sizeLog2 (r : HostRing) : Nat := (r.ctrl.extractLsb' 1 5).toNat
/-- ENABLE of a ring (R404). -/
def HostRing.enabled (r : HostRing) : Bool := r.ctrl.getLsbD 0
/-- VECTOR of a ring (R404). -/
def HostRing.vector (r : HostRing) : Nat := (r.ctrl.extractLsb' 8 6).toNat
/-- HOLDOFF of a ring in us (R404). -/
def HostRing.holdoffUs (r : HostRing) : Nat := (r.ctrl.extractLsb' 16 16).toNat
/-- Address of a ring's completions (R264). -/
def HostRing.cplAddr (r : HostRing) : Nat := r.cplHi.toNat * 2 ^ 32 + r.cplLo.toNat
/-- Address of a job ring (R264). -/
def HostRing.ringAddr (r : HostRing) : Nat := r.hi.toNat * 2 ^ 32 + r.lo.toNat

/-- The 32 bytes of a completion record with its PHASE and, in the journal, its ring number (R275, R280). -/
def completionBytes (c : Completion) (phase : Bool) (ring : Nat) : List Byte :=
  leBytes 4 c.tag.toNat ++ leBytes 4 c.index.toNat ++
  [statusCode c.status, c.kind, BitVec.ofNat 8 c.attempt.toNat, BitVec.ofNat 8 c.verdict.toNat] ++
  leBytes 4 c.detail.toNat ++ leBytes 8 c.step.toNat ++ leBytes 4 c.time.toNat ++
  [0, BitVec.ofNat 8 ring, 0, BitVec.ofNat 8 (bit phase)]

/-- PHASE of the record that COMPLETED counts next (R275). -/
def HostRing.phase (r : HostRing) : Bool := (r.completed.toNat / 2 ^ r.sizeLog2) % 2 = 0

/-- IRQ of a record: raised now, or owed at the end of the hold-off that runs (R276). -/
def State.signal (s : State) (n : RingIx) : State :=
  let r := s.ring n
  if r.holdoff then s.modRing n fun r => { r with owed := true }
  else (s.modRing n fun r => { r with holdoff := decide (r.holdoffUs > 0) }).raiseVector r.vector

/-- A record written to its completion ring (R275, R276). -/
def State.writeCompletion (s : State) (c : Completion) : State :=
  let r := s.ring c.ring
  let slot := r.completed.toNat % 2 ^ r.sizeLog2
  let s := { s with host := { s.host with
    memory := s.host.memory.write (r.cplAddr + 32 * slot) (completionBytes c r.phase 0) } }
  let s := s.modRing c.ring fun r => { r with completed := r.completed + 1 }
  if c.irq then s.signal c.ring else s

/-- A record that cannot be written to host memory goes to the journal (R280). -/
def State.journalWrite (s : State) (c : Completion) : State :=
  if s.mgmt.journal.length < 65536 then { s with mgmt := { s.mgmt with journal := s.mgmt.journal ++ [c] } }
  else s.modRing c.ring fun r => { r with overflowed := r.overflowed + 1 }

/-- A completion: to the ring, to the journal after driver loss, or held while the scheduler core restarts (R280, R290). -/
def State.putCompletion (s : State) (c : Completion) : State :=
  if s.fw.restarting[2] || s.fw.dead then { s with host := { s.host with paused := s.host.paused ++ [c] } }
  else if s.host.driverLost then s.journalWrite c
  else s.writeCompletion c

/-- Board time in us, low 32 bits (R275). -/
def State.timeMicros (s : State) : Word := BitVec.ofNat 32 (s.now.toNat / 1000)

/-! ## Requests (R283, R285, R286) -/

/-- A range of the payload scratch is 64-byte aligned and lies inside it (R277, R286). -/
def scratchGood (offset n : Nat) : Bool := decide (offset % 64 = 0) && decide (offset + n ≤ 2 ^ 20)

/-- Bytes of the payload scratch. -/
def State.readScratch (s : State) (offset n : Nat) : List Byte := s.mgmt.scratch.read offset n

/-- Bytes written to the payload scratch. -/
def State.writeScratch (s : State) (offset : Nat) (bytes : List Byte) : State :=
  { s with mgmt := { s.mgmt with scratch := s.mgmt.scratch.write offset bytes } }

/-- A driver is attached and not lost. -/
def State.attachedNow (s : State) : Bool := s.host.attached && !s.host.driverLost

/-- A feature bit is in ACCEPTED (R284). -/
def State.hasFeature (s : State) (i : Nat) : Bool := s.mgmt.accepted.getLsbD i

/-- The module's ID (R401). -/
def State.moduleId (s : State) : BitVec 15 := s.kp.moduleId.extractLsb' 0 15

/-- A job is armed (R263). -/
def State.jobArmed (s : State) : Bool :=
  s.kp.state = .armed || s.kp.state = .running || s.kp.state = .quiesced || s.kp.state = .orphaned

/-- The states in which no step runs and a requested item starts at once (R351). -/
def State.isIdleKind (s : State) : Bool :=
  s.kp.state = .idle || s.kp.state = .armed || s.kp.state = .quiesced || s.kp.state = .orphaned

/-- The last reading of a sensor; one never read counts as 25 degrees (log entry 6). -/
def Package.temp (p : Package) (s : Sensor) : Nat := ((p.temps.find? fun x => x.1 = s).map Prod.snd).getD 25

end Sys2Proof.Machine
end

