-- ==== Sys2Proof/Machine/Operands.lean ====
section
/-! DEFINITION. The operand forms: the 64-byte command record (R259), the logical names of a program (R247), the areas a
command reads and writes (R436), and the planks of a stream's buffers (R51, R52, R435). -/

namespace Sys2Proof.Machine

/-! ## Command records (R259) -/

/-- The FETCH command of a code with its fields, and the bits its fields take (R259). -/
def fetchRecord (code : Nat) (r : BitVec 496) : EngineCmd × Nat :=
  match code with
  | 0x1 =>
    (.fetchOpen {
      stream := r.extractLsb' 0 6, mode := r.extractLsb' 6 2, sliceMask := r.extractLsb' 8 16,
      minBuf := r.extractLsb' 24 10, maxBuf := r.extractLsb' 34 14, outstanding := r.extractLsb' 48 9,
      rate := r.extractLsb' 57 16, ringBase := r.extractLsb' 73 16, ringLog2 := r.extractLsb' 89 4,
      source := r.extractLsb' 93 12 }, 105)
  | 0x2 => (.fetchPost (r.extractLsb' 0 6) (r.extractLsb' 6 10), 16)
  | 0x3 => (.fetchStart (r.extractLsb' 0 6) (r.extractLsb' 6 32), 38)
  | 0x4 => (.fetchRelease (r.extractLsb' 0 6) (r.getLsbD 6) (r.extractLsb' 7 14), 21)
  | 0x5 => (.fetchCancel (r.extractLsb' 0 6), 6)
  | 0x6 => (.fetchClose (r.extractLsb' 0 6), 6)
  | _ => (.malformed, 496)

/-- The STORE command of a code with its fields, and the bits its fields take (R259). -/
def storeRecord (code : Nat) (r : BitVec 496) : EngineCmd × Nat :=
  match code with
  | 0x1 =>
    (.store {
      stream := r.extractLsb' 0 6, isStatic := r.getLsbD 6, gated := r.getLsbD 7, src := r.extractLsb' 8 30,
      dst := r.extractLsb' 38 40, rows := r.extractLsb' 78 32, cols := r.extractLsb' 110 32,
      rowStride := r.extractLsb' 142 64, gateBlock := r.extractLsb' 206 16, gateStep := r.extractLsb' 222 8,
      tag := r.extractLsb' 230 32 }, 262)
  | _ => (.malformed, 496)

/-- The VECTOR command of a code with its fields, and the bits its fields take (R259). -/
def vectorRecord (code : Nat) (r : BitVec 496) : EngineCmd × Nat :=
  match code with
  | 0x1 =>
    (.elementwise {
      op := r.extractLsb' 0 8, inFmt := r.extractLsb' 8 4, outFmt := r.extractLsb' 12 4,
      delayed := r.getLsbD 16, ledger := r.extractLsb' 17 14, srcA := r.extractLsb' 31 30, srcB := r.extractLsb' 61 30,
      srcC := r.extractLsb' 91 30, dst := r.extractLsb' 121 30, count := r.extractLsb' 151 32,
      release := r.extractLsb' 183 16 }, 199)
  | 0x2 =>
    (.row {
      op := r.extractLsb' 0 8, inFmt := r.extractLsb' 8 4, outFmt := r.extractLsb' 12 4,
      rowLen := r.extractLsb' 16 32, rows := r.extractLsb' 48 32, src := r.extractLsb' 80 30,
      aux := r.extractLsb' 110 30, dst := r.extractLsb' 140 30, eps := r.extractLsb' 170 32,
      release := r.extractLsb' 202 16 }, 218)
  | 0x3 =>
    (.mask {
      qPos := r.extractLsb' 0 20, kPos := r.extractLsb' 20 20, kind := r.extractLsb' 40 3,
      window := r.extractLsb' 43 20, segQ := r.extractLsb' 63 30, segK := r.extractLsb' 93 30,
      validK := r.extractLsb' 123 20, src := r.extractLsb' 143 30, dst := r.extractLsb' 173 30 }, 203)
  | _ => (.malformed, 496)

/-- The RING command of a code with its fields, and the bits its fields take (R259). -/
def ringRecord (code : Nat) (r : BitVec 496) : EngineCmd × Nat :=
  match code with
  | 0x1 =>
    (.pass {
      quarter := r.getLsbD 0, pair := r.extractLsb' 1 3, turned := r.getLsbD 4, statStream := r.extractLsb' 5 12,
      statSeq := r.extractLsb' 17 32, trainStream := r.extractLsb' 49 12, trainSeq := r.extractLsb' 61 32,
      planks := r.extractLsb' 93 4, entryBent := r.extractLsb' 97 4, firstEntry := r.extractLsb' 101 11,
      firstK := r.getLsbD 112, headBent := r.extractLsb' 113 5, region := r.extractLsb' 118 6,
      epilogue := r.extractLsb' 124 2, ledger := r.extractLsb' 126 14, out := r.extractLsb' 140 30,
      release := r.extractLsb' 170 16 }, 186)
  | 0x2 =>
    (.move {
      src5 := r.extractLsb' 0 5, dst5 := r.extractLsb' 5 5, src := r.extractLsb' 10 30,
      dst := r.extractLsb' 40 30, bytes := r.extractLsb' 70 32 }, 102)
  | 0x3 => (.wake { bentMask := r.extractLsb' 0 16, cycles := r.extractLsb' 16 32 }, 48)
  | _ => (.malformed, 496)

/-- The KILN command of a code with its fields, and the bits its fields take (R259). -/
def kilnRecord (code : Nat) (r : BitVec 496) : EngineCmd × Nat :=
  match code with
  | 0x1 =>
    (.kilnOpen {
      region := r.extractLsb' 0 6, rows := r.extractLsb' 6 16, cols256 := r.extractLsb' 22 8,
      spill := r.getLsbD 30, baseGroup := r.extractLsb' 31 17, spillAddr := r.extractLsb' 48 30 }, 78)
  | 0x2 =>
    (.kilnReadout {
      region := r.extractLsb' 0 6, segment := r.extractLsb' 6 16, destElem := r.extractLsb' 22 30,
      destScale := r.extractLsb' 52 30, adj := r.extractLsb' 82 6 }, 88)
  | _ => (.malformed, 496)

/-- The LINK command of a code with its fields, and the bits its fields take (R259). -/
def linkRecord (code : Nat) (r : BitVec 496) : EngineCmd × Nat :=
  match code with
  | 0x1 =>
    (.reduce {
      coll := r.extractLsb' 0 12, first := r.extractLsb' 12 28, count := r.extractLsb' 40 32,
      srcElem := r.extractLsb' 72 30, srcScale := r.extractLsb' 102 30 }, 132)
  | 0x2 =>
    (.gather {
      coll := r.extractLsb' 0 12, first := r.extractLsb' 12 28, count := r.extractLsb' 40 32,
      gatherNo := r.extractLsb' 72 16 }, 88)
  | 0x3 => (.vote { coll := r.extractLsb' 0 12, first := r.extractLsb' 12 28, count := r.extractLsb' 40 32 }, 72)
  | 0x4 =>
    (.dispatch {
      dispatchNo := r.extractLsb' 0 12, group := r.extractLsb' 12 4, tokens := r.extractLsb' 16 16,
      route := r.extractLsb' 32 30, rowAddr := r.extractLsb' 62 30, rowFmt := r.extractLsb' 92 4,
      rowBytes := r.extractLsb' 96 14, capAddr := r.extractLsb' 110 16, served := r.extractLsb' 126 30 }, 156)
  | 0x5 =>
    (.combine {
      dispatchNo := r.extractLsb' 0 12, outAddr := r.extractLsb' 12 30, outFormat := r.extractLsb' 42 4,
      outBytes := r.extractLsb' 46 14 }, 60)
  | 0x6 =>
    (.send {
      dstId := r.extractLsb' 0 15, src := r.extractLsb' 15 30, dst := r.extractLsb' 45 40,
      bytes := r.extractLsb' 85 32 }, 117)
  | 0x7 => (.sign { sill := r.extractLsb' 0 4, shard := r.extractLsb' 4 12 }, 16)
  | _ => (.malformed, 496)


/-- A 64-byte command record as a queue receives it: completion counter, whether its unused bits are 0, and the command. -/
def readRecord (q : QueueIx) (bytes : List Byte) : QueuedCmd :=
  let b1 := (bytes.getD 1 0).toNat
  let r : BitVec 496 := BitVec.ofNat 496 (leNat (bytes.drop 2))
  let code := (bytes.getD 0 0).toNat
  let (cmd, used) := match q with
    | .fetch => fetchRecord code r
    | .store => storeRecord code r
    | .vector => vectorRecord code r
    | .ring => ringRecord code r
    | .kiln => kilnRecord code r
    | .link => linkRecord code r
  { ctr := ⟨b1 % 32, Nat.mod_lt _ (by omega)⟩,
    unusedClear := decide (b1 / 32 = 0) && decide (r.toNat / 2 ^ used = 0), cmd := cmd }

/-! ## Logical names (R247) -/

/-- Physical bay of a logical bay under the die's binding. -/
def RingDie.physBay (r : RingDie) (j : Nat) : BayIx := ⟨(j + r.rho.val) % 4, Nat.mod_lt _ (by omega)⟩

/-- The bent is enabled on this die: fused on, and neither failed nor retired (R70, R407). -/
def RingDie.bentOn (r : RingDie) (b : BentIx) : Bool :=
  r.enabled.getLsbD b.val && !r.failed.getLsbD b.val && !r.retired.getLsbD b.val

/-- The stations of a bay in logical order: its enabled bents in ring order, then its disabled ones (R247). -/
def RingDie.stationsOf (r : RingDie) (b : BayIx) : List BentIx :=
  let all : List BentIx := (List.finRange 16).filter fun x => x.val / 4 = b.val
  all.filter (fun x => r.bentOn x) ++ all.filter (fun x => !r.bentOn x)

/-- Physical bent of a logical station, [3:2] the logical bay and [1:0] the logical bent (R436). -/
def RingDie.physStation (r : RingDie) (st : Nat) : BentIx :=
  (r.stationsOf (r.physBay (st / 4 % 4))).getD (st % 4) 0

/-- The bay and slot of a stream that a command on a die names, its bay number logical (R116, R247). -/
def RingDie.physStream (r : RingDie) (n : BitVec 12) : BayIx × SlotIx :=
  (r.physBay (n.toNat / 64 % 4), ⟨n.toNat % 64, Nat.mod_lt _ (by omega)⟩)

/-- The global number of a stream by physical die, bay and slot (R116). -/
def streamNumber (b : BayId) (k : SlotIx) : BitVec 12 := BitVec.ofNat 12 (b.die.val * 256 + b.bay.val * 64 + k.val)

/-- The ring die across an edge router N, E, S or W; none where the far side is no ring die (R12, R13). -/
def acrossRouter (d : DieId) (r : Fin 4) : Option DieId :=
  let n := d.val
  if r = 0 then (if h : 4 ≤ n then some ⟨n - 4, by omega⟩ else none)
  else if r = 1 then (if h : n % 4 < 3 ∧ n + 1 < 16 then some ⟨n + 1, h.2⟩ else none)
  else if r = 2 then (if h : n + 4 < 16 then some ⟨n + 4, h⟩ else none)
  else (if 0 < n % 4 then some ⟨n - 1, by omega⟩ else none)

/-- The ring die that owns a stack and its sill (R13). -/
def ownerOfSill (m : SillId) : DieId :=
  (#v[0, 1, 2, 3, 7, 11, 15, 14, 13, 12, 8, 4] : Vector DieId 12)[m]

/-- The ring die that an edge die attaches to (R15). -/
def ownerOfEdge (e : EdgeId) : DieId := (#v[3, 7, 15, 12, 8, 0] : Vector DieId 6)[e]

/-! ## FORMAT codes (R126) and the areas of vector operands (R107, R436) -/

/-- A format the vector engine reads and writes. -/
inductive VecFmt where
  | block (k : BlockFmt)
  | h16
  | f32
deriving DecidableEq, Repr, Inhabited

/-- The vector engine's format of a FORMAT code; none for W40, RAW and reserved codes (R437). -/
def vecFmt (code : BitVec 4) : Option VecFmt :=
  match code.toNat with
  | 0 => some (.block .a8)
  | 1 => some (.block .g8)
  | 2 => some (.block .a4)
  | 3 => some .h16
  | 4 => some .f32
  | _ => none

/-- Elements the area of one row of `n` holds: whole blocks in a block format (R436). -/
def VecFmt.padded (f : VecFmt) (n : Nat) : Nat :=
  match f with
  | .block k => ceilDiv n k.size * k.size
  | _ => n

/-- Bytes of an area of `rows` rows of `n` elements (R436). -/
def VecFmt.areaBytes (f : VecFmt) (rows n : Nat) : Nat :=
  match f with
  | .block k => k.bytes (rows * f.padded n) + rows * ceilDiv n k.size
  | .h16 => 2 * rows * n
  | .f32 => 4 * rows * n

/-- The value of an element of a block format as the engines see it: decoded to F32 (R44). -/
def BlockFmt.toF32 (k : BlockFmt) (x code : Nat) : Dyad := rndF32 (k.decode x code)

/-- The rows of an area as F32 values (R107, R436). -/
def VecFmt.readRows (f : VecFmt) (m : Memory) (base rows n : Nat) : List (List Dyad) :=
  (List.range rows).map fun r =>
    match f with
    | .block k =>
      let per := f.padded n
      let codes := k.unpackCodes (m.read (base + k.bytes (r * per)) (k.bytes per))
      let scales := m.read (base + k.bytes (rows * per) + r * (per / k.size)) (per / k.size)
      (List.range n).map fun i => k.toF32 (scales.getD (i / k.size) 0).toNat (codes.getD i 0)
    | .h16 => (List.range n).map fun i => decH16 (BitVec.ofNat 16 (m.readNat (base + 2 * (r * n + i)) 2))
    | .f32 => (List.range n).map fun i => decF32 (BitVec.ofNat 32 (m.readNat (base + 4 * (r * n + i)) 4))

/-- The values of one row cut into blocks, the last filled with +0 (R28). -/
def BlockFmt.blocksOf (k : BlockFmt) (row : List Dyad) : List (List Dyad) :=
  (chunksOf k.size (row.length + 1) row).map fun b => b ++ List.replicate (k.size - b.length) Dyad.zero

/-- The bytes of encoded blocks as an area: the elements of every block, then the scales (R436). -/
def BlockFmt.areaOf (k : BlockFmt) (blocks : List BlockCode) : List Byte :=
  blocks.flatMap (fun b => k.packCodes b.codes) ++ blocks.map fun b => BitVec.ofNat 8 b.scale

/-- The bytes of rows in H16 or F32. -/
def floatArea (h16 : Bool) (rows : List (List Dyad)) : List Byte :=
  rows.flatten.flatMap fun x => if h16 then leBytes 2 (encH16 x).toNat else leBytes 4 (encF32 x).toNat

/-! ## Planks (R51, R52, R123, R435) -/

/-- Where a plank lies: its record, the loft offset of its first line and, in H16, of its line 128, and of its scales. -/
structure PlankView where
  plank  : PlankRec
  base   : Nat
  upper  : Nat
  scales : Nat
deriving DecidableEq, Repr

/-- The block format of a plank; none for H16. -/
def PlankRec.fmt (p : PlankRec) : Option BlockFmt :=
  match p.format.toNat with
  | 0 => some .a8
  | 1 => some .g8
  | 2 => some .a4
  | _ => none

/-- Loft offset of a buffer. -/
def Buffer.base (b : Buffer) : Nat := b.number * 65536

/-- A held buffer of a stream by sequence and number. -/
def Stream.held (t : Stream) (scale : Bool) (seq : Nat) : Option Buffer :=
  t.buffers.find? fun b => b.scale = scale && b.seqNo = seq

/-- A plank by stream and element sequence number (R122, R435); `half` names the second plank of an A4 buffer. -/
def RingDie.plank (r : RingDie) (n : BitVec 12) (seq : Nat) (half : Bool) : Option PlankView :=
  let (b, k) := r.physStream n
  let t := r.bays[b].streams[k]
  match t.held false seq with
  | none => none
  | some buf =>
    match buf.planks[if half then 1 else 0]? with
    | none => none
    | some p =>
      let upper := match t.held false (seq + 1) with
        | some u => u.base
        | none => 0
      let per := if p.format = 2 then 4096 else 2048
      let scales := match t.held true p.scaleSeq with
        | some u => u.base + per * p.scaleLine
        | none => 0
      some { plank := p, base := buf.base + (if half then 32768 else 0), upper := upper, scales := scales }

/-- The code of element (i, k) of a plank, from line (k + i) mod 256, lane i (R52). -/
def PlankView.code (p : PlankView) (m : Memory) (i k : Nat) : Nat :=
  let line := (k + i) % 256
  match p.plank.fmt with
  | some .a4 =>
    let b := (m.get (p.base + 128 * line + i / 2)).toNat
    if i % 2 = 0 then b % 16 else b / 16
  | some _ => (m.get (p.base + 256 * line + i)).toNat
  | none => m.readNat ((if line < 128 then p.base else p.upper) + 512 * (line % 128) + 2 * i) 2

/-- Scale line g, lane x of a plank (R51). -/
def PlankView.scale (p : PlankView) (m : Memory) (g x : Nat) : Nat := (m.get (p.scales + 256 * g + x)).toNat

/-- Scale lines of a plank: 16 in A4, 8 in A8 and G8, none in H16 (R51). -/
def PlankRec.groups (p : PlankRec) : Nat :=
  match p.fmt with
  | some k => 256 / k.size
  | none => 0

/-! ## Ranges (R437) -/

/-- A range of the loft lies inside it. -/
def inLoft (a n : Nat) : Bool := decide (a + n ≤ loftBytes)

/-- A range of a bay's data memory lies inside it. -/
def inDmem (a n : Nat) : Bool := decide (a + n ≤ 65536)

/-! ## The sections of a bundle that serve a unit (R245) -/

/-- The more specific of two kinds of section (R245). -/
def specific {α β : Type} [DecidableEq α] (k : α) (l : List (Option α × β)) : Option β :=
  match l.find? fun x => x.1 = some k with
  | some x => some x.2
  | none => (l.find? fun x => x.1 = none).map Prod.snd

/-- The section content that serves a unit at a shape: one of that shape comes before one of every shape, and one that names the
unit before one of every unit (R245). -/
def forShape {α β : Type} [DecidableEq α] (shape : Nat) (k : α) (l : List (Nat × Option α × β)) : Option β :=
  let pick (n : Nat) : Option β := specific k ((l.filter fun x => x.1 = n).map Prod.snd)
  (pick shape).orElse fun _ => pick 0

/-- The content of a module section at a shape (R245). -/
def moduleSection {β : Type} (shape : Nat) (l : List (Nat × β)) : Option β :=
  match l.find? fun x => x.1 = shape with
  | some x => some x.2
  | none => (l.find? fun x => x.1 = 0).map Prod.snd

/-- The update list of a sill at a shape (R162, R245). -/
def bundleList (b : Bundle) (m : SillId) (shape : Nat) : UpdateList := (forShape shape m b.lists).getD {}

/-- LEDGER_MAP of a die at a shape (R245). -/
def bundleLedger (b : Bundle) (d : DieId) (shape : Nat) : List LedgerInit := (forShape shape d b.ledger).getD []

/-- The loft map of a die at a shape (R119, R245). -/
def bundleLoft (b : Bundle) (d : DieId) (shape : Nat) : BitVec 16384 := (forShape shape d b.loftMaps).getD 0

/-- The group, collective and expert tables at a shape (R245). -/
def bundleTables (b : Bundle) (shape : Nat) : LinkTables :=
  { groups := (moduleSection shape b.groups).getD [], colls := (moduleSection shape b.colls).getD []
    experts := (moduleSection shape b.experts).getD [] }

end Sys2Proof.Machine
end

