-- ==== Sys2Proof/Machine/Flags.lean ====
section
/-! DEFINITION. Every flag computation: the scale ledger's observation fields and its advance (R39 to R42), completion
counters and their error bits (R77), and the comparison of R77. -/

namespace Sys2Proof.Machine

/-! ## The scale ledger (R39 to R42) -/

/-- A ledger entry by its fields (R40). -/
structure LedgerEntry where
  scale  : Nat
  lowRun : Nat
  seen   : Bool
  high   : Bool
  flag   : Bool
  nonfin : Bool
  format : Nat
  peak   : Nat
deriving DecidableEq, Repr

/-- The fields of a stored entry (R40). -/
def LedgerEntry.ofWord (w : Word) : LedgerEntry :=
  { scale := (w.extractLsb' 0 8).toNat, lowRun := (w.extractLsb' 8 4).toNat, seen := w.getLsbD 12, high := w.getLsbD 13,
    flag := w.getLsbD 14, nonfin := w.getLsbD 15, format := (w.extractLsb' 16 2).toNat, peak := (w.extractLsb' 24 8).toNat }

/-- An entry as stored (R40). -/
def LedgerEntry.toWord (e : LedgerEntry) : Word :=
  BitVec.ofNat 32 (e.scale % 256 + 256 * (e.lowRun % 16) + 4096 * bit e.seen + 8192 * bit e.high + 16384 * bit e.flag +
    32768 * bit e.nonfin + 65536 * (e.format % 4) + 16777216 * (e.peak % 256))

/-- What an unlisted ledger entry holds (R43). -/
def ledgerReset : Word := 0x7F

/-- A ledger entry of a die. -/
def RingDie.ledgerAt (r : RingDie) (i : Nat) : Word := Sparse.get ledgerReset r.ledger i

/-- A ledger entry of a die written; its start-of-step copy stays. -/
def RingDie.setLedger (r : RingDie) (i : Nat) (w : Word) : RingDie :=
  { r with ledger := Sparse.set ledgerReset r.ledger i w }

/-- The block format of an entry's FORMAT field; none where it is reserved (R40). -/
def ledgerFmt (code : Nat) : Option BlockFmt :=
  match code with
  | 0 => some .a8
  | 1 => some .g8
  | _ => none

/-- R as a value (R37). -/
def BlockFmt.limitValue (k : BlockFmt) : Dyad := .fin false k.limit.1 k.limit.2

/-- PEAK_EXP of a largest quotient magnitude (R40). -/
def peakExp (m : Nat) (e : Int) : Nat :=
  if m = 0 then 0
  else
    let x := leadExp m e + 127
    if x ≥ 255 then 255 else if x < 1 then 0 else x.toNat

/-- The observation fields after a block of inputs was encoded through an entry (R40): OR and maximum updates only. -/
def LedgerEntry.observe (o : LedgerEntry) (k : BlockFmt) (block : List Dyad) : LedgerEntry :=
  let quotients := block.map fun x => x.scale2 (127 - (o.scale : Int))
  let finite := quotients.filter Dyad.isFinite
  let quarter := k.limitValue.scale2 (-2)
  let (m, e) := amaxOf finite
  { o with
    seen := true
    high := o.high || finite.any fun q => quarter.le q.mag
    flag := o.flag || (!k.nanBlock block && finite.any fun q => k.limitValue.lt q.mag)
    nonfin := o.nonfin || block.any fun x => !x.isFinite
    peak := max o.peak (peakExp m e) }

/-- The completion of the work that encoded a block is flagged (R41): an element was written saturated, or an input was not
finite. -/
def BlockFmt.flagsBlock (k : BlockFmt) (scale : Nat) (block : List Dyad) : Bool :=
  block.any (fun x => !x.isFinite) || block.any fun x => k.limitValue.lt (x.scale2 (127 - (scale : Int))).mag

/-- A delayed encode of one block through a ledger entry of a die: the block, whether the completion is flagged, and the die
with the entry's observation fields and its NaN-block counter brought up to date (R39 to R41, R46). -/
def RingDie.encodeDelayed (r : RingDie) (entry : Nat) (k : BlockFmt) (block : List Dyad) : BlockCode × Bool × RingDie :=
  let o := LedgerEntry.ofWord (r.ledgerAt entry)
  let code := k.encodeAt o.scale block
  let r := r.setLedger entry (o.observe k block).toWord
  let r := if code.scale = 0xFF then r.count 0x06 else r
  (code, k.flagsBlock o.scale block, r)

/-- Blocks encoded one after another, each through the entry a function of its position names. -/
def RingDie.encodeDelayedAll (r : RingDie) (entry : Nat → Nat) (k : BlockFmt) :
    Nat → List (List Dyad) → List BlockCode × Bool × RingDie
  | _, [] => ([], false, r)
  | i, b :: rest =>
    let (c, f, r1) := r.encodeDelayed (entry i) k b
    let (cs, fs, r2) := r1.encodeDelayedAll entry k (i + 1) rest
    (c :: cs, f || fs, r2)

/-- Blocks encoded under the exact rule; NaN blocks are counted (R37, R46). -/
def RingDie.encodeExactAll (r : RingDie) (k : BlockFmt) (blocks : List (List Dyad)) : List BlockCode × RingDie :=
  let cs := blocks.map k.encodeExact
  (cs, r.count 0x06 (cs.countP fun c => c.scale = 0xFF))

/-- What an advance counts: flags, doublings, halvings, clamps, reversions (R42, R46). -/
structure LedgerCounts where
  flags   : Nat := 0
  doubles : Nat := 0
  halves  : Nat := 0
  clamps  : Nat := 0
  reverts : Nat := 0
deriving DecidableEq, Repr

/-- An entry advanced at a verdict without REPLAY, with what it counts (R42). -/
def LedgerEntry.advance (e : LedgerEntry) : LedgerEntry × LedgerCounts :=
  let clear (e : LedgerEntry) : LedgerEntry :=
    { e with seen := false, high := false, flag := false, nonfin := false, peak := 0 }
  if e.flag || e.nonfin then
    if e.scale < 0xFE then (clear { e with scale := e.scale + 1, lowRun := 0 }, { flags := 1, doubles := 1 })
    else (clear { e with lowRun := 0 }, { flags := 1, clamps := 1 })
  else if e.seen && !e.high then
    if e.lowRun = 15 then
      if e.scale > 0 then (clear { e with scale := e.scale - 1, lowRun := 0 }, { halves := 1 })
      else (clear { e with lowRun := 0 }, { clamps := 1 })
    else (clear { e with lowRun := e.lowRun + 1 }, {})
  else if e.seen then (clear { e with lowRun := 0 }, {})
  else (clear e, {})

/-- The sum of what entries count. -/
def LedgerCounts.add (a b : LedgerCounts) : LedgerCounts :=
  ⟨a.flags + b.flags, a.doubles + b.doubles, a.halves + b.halves, a.clamps + b.clamps, a.reverts + b.reverts⟩

/-- The ledger of a die at a verdict, with its counters (R42, R46). -/
def RingDie.ledgerVerdict (r : RingDie) (replay : Bool) : RingDie :=
  let entries := r.ledger.map fun x => LedgerEntry.ofWord x.2
  let counts : LedgerCounts :=
    if replay then
      { flags := entries.countP fun e => e.flag || e.nonfin, reverts := entries.countP fun e => e.seen }
    else (entries.map fun e => e.advance.2).foldl LedgerCounts.add {}
  let ledger : Sparse Word :=
    if replay then r.ledgerStart
    else r.ledger.filterMap fun x =>
      let w := (LedgerEntry.ofWord x.2).advance.1.toWord
      if w = ledgerReset then none else some (x.1, w)
  (((({ r with ledger := ledger, ledgerStart := ledger }.count 0x00 counts.flags).count 0x01 counts.doubles).count 0x02
    counts.halves).count 0x03 counts.clamps).count 0x04 counts.reverts

/-- Entries with FLAG or NONFIN set, which the step's completion counts (R41, R275). -/
def RingDie.flaggedEntries (r : RingDie) : Nat :=
  r.ledger.countP fun x => (LedgerEntry.ofWord x.2).flag || (LedgerEntry.ofWord x.2).nonfin

/-! ## Completion counters (R77) -/

/-- A counter has reached a target: a signed 32-bit difference (R77). -/
def reached (value target : Word) : Bool := !(value - target).msb

/-- A status other than DONE or DONE_FLAGGED (R77). -/
def statusError (st : Status) : Bool := st ≠ .done && st ≠ .doneFlagged

/-- A counter after a command has finished with a status (R77); a count reported as CANCELLED is kept for R143. -/
def CompCounter.finish (c : CompCounter) (st : Status) : CompCounter :=
  { value := c.value + 1, error := c.error || statusError st, last := if statusError st then statusCode st else c.last,
    cancelledAt := if st = .cancelled then c.cancelledAt ++ [c.value + 1] else c.cancelledAt }

/-- Threads whose wait is met become ready (R75, R77). -/
def Bay.wakeThreads (y : Bay) : Bay :=
  { y with threads := y.threads.map fun t =>
      match t.mode with
      | .wait c target => if reached y.counters[c].value target then { t with mode := .ready } else t
      | _ => t }

/-- A counter counts a completion and its waiting threads wake (R77). -/
def Bay.countDone (y : Bay) (c : CtrIx) (st : Status) : Bay := (y.modCounter c fun x => x.finish st).wakeThreads

/-- What READC writes: the count, the sticky error bit in bit 63, the last-error status in [62:55] (R258). -/
def CompCounter.readc (c : CompCounter) : DWord :=
  BitVec.ofNat 64 (c.value.toNat + 2 ^ 55 * c.last.toNat + 2 ^ 63 * bit c.error)

end Sys2Proof.Machine
end

