-- ==== Sys2Proof/Machine/Modes.lean ====
section
/-! DEFINITION. The module's states: entering one, with its effect on bents and clocks (R11, R22, R314) and its event (R287);
FAULTED (R342); what is lost without power (R24); the operating settings in effect (R373 to R376). -/

namespace Sys2Proof.Machine

/-! ## Bents and clocks by module state (R22, R314) -/

/-- A bank whose supply is gone: what its cells and registers hold when they are powered again is free (R22; log entry 8). -/
def lostBank (n unit : Nat) : BankImage :=
  { cells := Sparse.entries (0 : BitVec 16) 0
      ((List.range 65536).map fun j => (Config.lostWord n (unit * 2 ^ 20 + j)).setWidth 16)
    scales := Sparse.entries (0 : Byte) 0
      ((List.range 8192).map fun j => (Config.lostWord n (unit * 2 ^ 20 + 65536 + j)).setWidth 8) }

/-- Accumulators whose supply is gone (R22, R314; log entry 8). -/
def lostEntries (n unit : Nat) : Sparse Word :=
  Sparse.entries (0 : Word) 0 ((List.range 524288).map fun j => Config.lostWord n (unit * 2 ^ 20 + 2 ^ 19 + j))

/-- A vector register file whose supply is gone (R22, R314; log entry 8). -/
def lostRegs (n unit : Nat) : Sparse Word :=
  Sparse.entries (0 : Word) 0 ((List.range 131072).map fun j => Config.lostWord n (2 ^ 30 + unit * 2 ^ 20 + j))

/-- A bent with its rails off: array, banks and accumulators lost, no deadline (R22, R314). -/
def Bent.railsOff (x : Bent) (n unit : Nat) : Bent :=
  { x with live := lostBank n (2 * unit), loadBank := lostBank n (2 * unit + 1), acc := lostEntries n (2 * unit),
           power := .gated, deadline := none, husk := false }

/-- A bent as a job starts: a bent that no hint gates is clock-stopped until a claimed beat comes (R22, R314). -/
def Bent.ready (x : Bent) : Bent := if x.power = .gated && x.deadline.isNone then { x with power := .stopped } else x

/-- A bent as the module holds or is FAULTED: clock-stopped with its state kept; husk load and a gated bent's deadline stay
(R314). -/
def Bent.held (x : Bent) : Bent := if x.power = .awake && !x.husk then { x with power := .stopped } else x

/-- A bent outside the shape: a pass-through station, its array, accumulators and banks off (R70). -/
def Bent.off (x : Bent) : Bent := { ({} : Bent) with faults := x.faults }

/-- The disabled bents of a die are off (R70). -/
def RingDie.offDisabled (r : RingDie) : RingDie :=
  { r with bents := Vector.ofFn fun b : Fin 16 => if r.bentOn b then r.bents[b] else r.bents[b].off }

/-- The module state takes the bent rails off (R314). -/
def railsOffIn (st : ModState) : Bool := decide (st = .idle ∨ st = .boot ∨ st = .acorn)

/-- A bent when the module enters a state (R314); `n` and `unit` name the free values of what it loses. A bent that carries husk
load runs on until its husk has fallen to zero (R333). -/
def Bent.powerFor (x : Bent) (st : ModState) (n unit : Nat) : Bent :=
  if railsOffIn st then
    if x.husk then { x.railsOff n unit with power := .awake, husk := true } else x.railsOff n unit
  else match st with
    | .armed => x.ready
    | .running => x.ready
    | _ => x.held

/-- A bay's vector engine when the module enters a state: it follows the bents' rules (R22, R314). -/
def Bay.powerFor (y : Bay) (st : ModState) (n unit : Nat) : Bay :=
  if railsOffIn st then { y with vecPower := .gated, vregs := lostRegs n unit }
  else match st with
    | .armed => { y with vecPower := if y.vecPower = .gated then .stopped else y.vecPower }
    | .running => { y with vecPower := if y.vecPower = .gated then .stopped else y.vecPower }
    | _ => { y with vecPower := if y.vecPower = .awake then .stopped else y.vecPower }

/-- The bents, vector engines and domains of a die when the module enters a state (R22, R70, R314). -/
def RingDie.powerFor (r : RingDie) (st : ModState) (n die : Nat) : RingDie :=
  let bents := Vector.ofFn fun b : Fin 16 =>
    if r.bentOn b then r.bents[b].powerFor st n (16 * die + b.val) else r.bents[b].off
  { r with
    bents := bents
    bays := Vector.ofFn fun b : Fin 4 => r.bays[b].powerFor st n (4 * die + b.val)
    domains := Vector.ofFn fun d : Fin 17 =>
      let stopped :=
        if h : d.val < 16 then decide (bents[d.val].power ≠ .awake)
        else decide (st = .faulted)
      { r.domains[d] with stopped := stopped } }

/-- The module enters a state: the domains follow, and a STATE_CHANGE event names the old state and the cause (R287, R314). -/
def State.enter (s : State) (st : ModState) (cause : Status) : State :=
  if s.kp.state = st then s
  else
    let old := stateCode s.kp.state
    let s : State := { s with
      kp := { s.kp with state := st }
      dies := Vector.ofFn fun d : Fin 16 => s.dies[d].powerFor st s.free d.val
      free := s.free + 1 }
    s.postEvent 0x02 .done 0
      (BitVec.ofNat 384 (old.toNat + 256 * (statusCode cause).toNat))

/-- The module goes to FAULTED with a FATAL record (R342). -/
def State.goFaulted (s : State) (code : BitVec 16) (subject : Word) (cause : Status) (detail : DWord) : State :=
  if s.kp.state = .faulted then s
  else
    (s.report { cls := .fatal, code := code, subject := subject, reporter := subject, status := cause,
                detail := detail }).enter .faulted cause

/-! ## Loss of power (R24, R426, R431) -/

/-- A ring die without power: only what the parts record in MRAM and the fuses hold stays (R1, R359, R360). -/
def RingDie.unpowered (r : RingDie) : RingDie :=
  { ({} : RingDie) with
    enabled := r.enabled, failed := r.failed, retired := r.retired, withdrawn := r.withdrawn, sparesUsed := r.sparesUsed }

/-- A sill and its stack without power: the stack's identity, its repairs and its retired pages stay (R157, R159). -/
def Sill.unpowered (x : Sill) : Sill :=
  { ({} : Sill) with
    stackId := x.stackId, retired := x.retired, softRepaired := x.softRepaired, sparesUsed := x.sparesUsed }

/-- A link without power: its lane records stay (R209). -/
def Link.unpowered (x : Link) : Link := { ({} : Link) with laneRecords := x.laneRecords }

/-- Every regulator output is off: the contents of stacks, loft, kiln and ledger are lost, and the links lose signal (R24). -/
def State.unpower (s : State) : State :=
  { s with
    dies := s.dies.map RingDie.unpowered
    sills := s.sills.map Sill.unpowered
    links := s.links.map Link.unpowered
    edges := Vector.replicate 6 {} }

/-! ## Module reset (R282, R427) -/

/-- The scribe log after a reset: MRAM keeps it, the mirror is brought up to it, and no record is open (R348). -/
def Scribe.afterReset (c : Scribe) : Scribe :=
  { ({} : Scribe) with
    nextSeq := c.nextSeq, slots := c.slots, nextSlot := c.nextSlot, oldest := c.oldest, pinned := c.pinned
    nor := c.slots, i3c := c.i3c, standby := c.standby }

/-- Configuration after a reset: the stores in SPI NOR and FALLBACK stay; registers, mode, staging and schedules do not (R282,
R379, R387, R389). -/
def Cfg.afterReset (c : Cfg) : Cfg :=
  { ({} : Cfg) with
    fallback := c.fallback, base := c.base, written := c.written, slots := c.slots, activeSlot := c.activeSlot
    reloadTrial := c.reloadTrial, bootFailures := c.bootFailures, revertDue := c.revertDue, converted := c.converted
    baseLost := c.baseLost, fallbackDue := c.fallbackDue }

/-- A reset of the module takes it to BOOT, or to ACORN by the strap, and clears every register that is not RWS (R282). Kept:
fuses, MRAM and SPI NOR, what stands outside the module, and the hardware facts of supplies and kingposts (log entry 23). -/
def State.moduleReset (s : State) (acorn : Bool) (i3cAddr : BitVec 4) : State :=
  { ({} : State) with
    pending := s.pending
    kp := { ({} : Kp) with
      uid := s.kp.uid, part := s.kp.part, stepping := s.kp.stepping, grade := s.kp.grade, shape := s.kp.grade
      bootCount := s.kp.bootCount + 1, takeover := s.kp.takeover, state := if acorn then .acorn else .boot }
    host := { ({} : HostPort) with memory := s.host.memory, raised := s.host.raised, aer := s.host.aer }
    io := s.io
    pwr := { ({} : Pwr) with reserve := s.pkg.reserve }
    pkg := { s.pkg with
      thermTrip := false, warned := [], i3cAddr := i3cAddr, cooling := s.pkg.thermTrip || s.pkg.cooling, inReset := false }
    dies := s.dies.map RingDie.unpowered
    sills := s.sills.map Sill.unpowered
    links := s.links.map Link.unpowered
    scribe := s.scribe.afterReset
    cfg := s.cfg.afterReset
    sec := { ({} : Sec) with owner := s.sec.owner, svnMin := s.sec.svnMin, revoked := s.sec.revoked }
    fw := { ({} : Fw) with activeB := s.fw.standbyLost && s.fw.activeB, standbyLost := s.fw.standbyLost, dead := s.fw.dead }
    free := s.free }

/-! ## Operating settings (R373 to R376) -/

/-- Keys of the operating settings (R375). -/
def keyMode : Word := 0x80000001
/-- HUSK (R375). -/
def keyHusk : Word := 0x80000002
/-- AUTO_SCAN (R375). -/
def keyAutoScan : Word := 0x80000003
/-- RETIRE_PATTERN (R375). -/
def keyRetire : Word := 0x80000010

/-- The canonical variant of a shape: logical bays 0 to k - 1 hold 3 bents and the others 4, k = 16 - shape (R248). -/
def canonicalCounts (shape : Nat) : List Nat := (List.range 4).map fun j => if j < 16 - shape then 3 else 4

/-- Counts in the VARIANT encoding (R244). -/
def variantField (counts : List Nat) : Word :=
  BitVec.ofNat 32 (counts.getD 0 0 + 8 * counts.getD 1 0 + 64 * counts.getD 2 0 + 512 * counts.getD 3 0)

/-- The shipped overlay of a KIND (R375). -/
def shippedOverlay (kind : Byte) : List (Word × Word) :=
  match kind.toNat with
  | 1 => [(keyMode, 1)]
  | 2 => [(keyMode, 2), (keyAutoScan, 0)]
  | 3 => [(keyMode, 3), (keyHusk, 0), (keyAutoScan, 0)]
  | 12 => [(keyRetire, variantField (canonicalCounts 12))]
  | 13 => [(keyRetire, variantField (canonicalCounts 13))]
  | 14 => [(keyRetire, variantField (canonicalCounts 14))]
  | 15 => [(keyRetire, variantField (canonicalCounts 15))]
  | _ => []

/-- The overlay of a KIND: the written one, else the shipped one (R379). -/
def Cfg.overlay (c : Cfg) (kind : Byte) : List (Word × Word) :=
  match c.written.find? fun x => x.1 = kind with
  | some x => x.2
  | none => shippedOverlay kind

/-- A record's value of a key. -/
def entryOf (l : List (Word × Word)) (key : Word) : Option Word := (l.find? fun x => x.1 = key).map Prod.snd

/-- The base value of a setting that a base record does not name (R375). -/
def baseValue (key : Word) : Word := if key = keyRetire then 0 else 1

/-- A setting in effect at a shape: base record, then the mode's overlay, then the shape's (R376). -/
def Cfg.setting (c : Cfg) (shape : Nat) (key : Word) : Word :=
  let byShape := if 12 ≤ shape ∧ shape ≤ 15 then entryOf (c.overlay (BitVec.ofNat 8 shape)) key else none
  ((byShape <|> entryOf (c.overlay (modeCode c.mode)) key) <|> entryOf c.base key).getD (baseValue key)

/-- A setting in effect (R376). -/
def State.setting (s : State) (key : Word) : Word := s.cfg.setting s.kp.shape key

/-- The counts that the firmware aims for at a shape: RETIRE_PATTERN, or the canonical variant (R248, R375). -/
def State.retirePattern (s : State) (shape : Nat) : List Nat :=
  let v := (s.cfg.setting shape keyRetire).toNat
  if v = 0 then canonicalCounts shape else [v % 8, v / 8 % 8, v / 64 % 8, v / 512 % 8]

end Sys2Proof.Machine
end

