-- ==== Sys2Proof/Machine/Sills.lean ====
section
/-! DEFINITION. The sills and their stacks: what a read finds and does (R151 to R153, R158), failed rows (R157), and the
events REFRESH_DUE, CALIBRATION_WINDOW, PATROL_SCRUB_READ and STACK_TEMP_READ. -/

namespace Sys2Proof.Machine

/-- Microseconds of 24 hours. -/
def dayMicros : Nat := 86400000000

/-- Sectors of module memory in a stack (R147). -/
def stackSectors : Nat := 1000000000

/-- Module address of a sector of a stack (R147, R159). -/
def State.sectorAddr (s : State) (m : SillId) (sector : Nat) : Nat :=
  let o := sector * 64
  if s.interleave ≤ o then m.val * 2 ^ 36 + o else interleavedBase + (o / 4096 * 12 + m.val) * 4096 + o % 4096

/-- The row of a sector: its pseudo-channel and the 16 consecutive pages it belongs to (R148). -/
def rowOfSector (sector : Nat) : Nat := sector / 1024 * 64 + sector % 64

/-- Identity of the row of a sector (R343). -/
def idSector (m : SillId) (sector : Nat) : Word := idStack m (sector % 64) (sector / 65536)

/-- A record about a sector of a stack (R153). -/
def State.reportSector (s : State) (m : SillId) (sector : Nat) (cls : Class) (code : BitVec 16) (st : Status) : State :=
  s.report { cls := cls, code := code, subject := idSector m sector, reporter := idSector m sector, status := st,
             detail := BitVec.ofNat 64 (s.sectorAddr m sector) }

/-! ## Maintenance items (R351) -/

/-- Item numbers in R351's order, from 1. -/
def itemRetrain : Nat := 1
/-- Soft repair of a stack row. -/
def itemSoftRepair : Nat := 2
/-- Loft row repair. -/
def itemLoftRow : Nat := 3
/-- Bent retirement and rebinding. -/
def itemRetire : Nat := 4
/-- Bent scan. -/
def itemScan : Nat := 5
/-- Link margin scan. -/
def itemMargin : Nat := 6
/-- Loft march test. -/
def itemMarch : Nat := 7

/-- A full retraining of the stacks of a mask (R156). -/
def State.retrainStacks (s : State) (mask : Word) : State :=
  { s with sills := Vector.ofFn fun m =>
      let x := s.sills[m]
      if mask.getLsbD m.val && x.retrainPending then
        { (x.count 0x0A) with retrainPending := false, trainTemp := s.pkg.temp (.stack m) }
      else x }

/-- A retired row of a stack: 16 entries, or FAULTED where the list is full (R158, R159); true where it took a new entry. -/
def Sill.retireRow (x : Sill) (row : Nat) (cause : BitVec 4) (time : Word) : Sill :=
  if x.listFull then x
  else
    let pages := (List.range 16).map fun k => row / 64 * 16 + k
    let new := pages.filter fun p => !x.pageRetired p
    { (x.count 0x0D new.length) with retired := x.retired ++ new.map fun p => ⟨p, cause, time⟩ }

/-- The 8 bytes of a retired-page entry (R159). -/
def retiredEntry (m : SillId) (e : RetiredPage) : Nat :=
  m.val + 16 * e.page + 2 ^ 28 * e.cause.toNat + 2 ^ 32 * e.time.toNat

/-- Milliseconds of board time, low 32 bits (R159). -/
def State.timeMillis (s : State) : Word := BitVec.ofNat 32 (s.now.toNat / 1000000)

/-- Soft repair of one failed row with a spare of its bank group: its 16 sectors are read and written back, those with POISON
keeping it; without a spare the row is retired (R157, R158). The second component says that the list was full, which takes the
module to FAULTED (R159). -/
def State.repairRow (s : State) (m : SillId) (row : Nat) (cause : BitVec 4) : State × Bool :=
  let x := s.sill m
  let group := Config.bankGroup (row % 64) (row / 64 % 64)
  let used := Sparse.get (0 : Nat) x.sparesUsed group
  if used < Config.spareRows then
    (s.modSill m fun y => { (((y.count 0x0B).moveBytes false 1024).moveBytes true 1024) with
      sparesUsed := Sparse.set (0 : Nat) y.sparesUsed group (used + 1), softRepaired := y.softRepaired ++ [row] }, false)
  else
    let t := s.timeMillis
    if x.listFull then (s, true) else
    let s := s.modSill m fun y => y.retireRow row cause t
    let entry : RetiredPage := ⟨row / 64 * 16, cause, t⟩
    let s := s.report { cls := .degraded, code := 0x6801, subject := idStack m (row % 64) (row / 4096),
                        reporter := idStack m (row % 64) (row / 4096), detail := BitVec.ofNat 64 (retiredEntry m entry) }
    (s.evalCauses, false)

/-- The failed rows of every stack, in stack order (R157). -/
def State.failedStackRows (s : State) : List (SillId × Nat × BitVec 4) :=
  allSills.flatMap fun m => (s.sill m).failedRows.map fun x => (m, x.1, x.2)

/-- A row that cannot be retired, its stack's list being full, takes the module to FAULTED (R159). -/
def State.repairOrFault (s : State) (m : SillId) (row : Nat) (cause : BitVec 4) : State :=
  let (t, full) := (s.modSill m fun y => { y with failedRows := y.failedRows.filter fun x => x.1 ≠ row }).repairRow m row cause
  if full then
    t.goFaulted (Config.unlistedCode 3) (idStack m (row % 64) (row / 4096)) .memoryUncorrectable 0
  else t

/-- The first `n` failed stack rows repaired or retired (R157, R158). -/
def State.softRepairs (s : State) (n : Nat) : State :=
  (s.failedStackRows.take n).foldl (fun s x => s.repairOrFault x.1 x.2.1 x.2.2) s

/-- A maintenance item waits in request order (R353); one of the same kind that waits already takes it in. -/
def State.waitItem (s : State) (code : Nat) (mask : Word) : State :=
  if s.job.items.any fun i => i.code = code && i.tag = none then
    { s with job := { s.job with items := s.job.items.map fun i =>
        if i.code = code && i.tag = none then { i with mask := i.mask ||| mask } else i } }
  else { s with job := { s.job with items := s.job.items ++ [⟨code, mask, none, s.clk.aonMicros⟩] } }

/-- Rows of 8 KiB in a slice. -/
def rowsPerSlice : Nat := 8192

/-- A row of a loft that has failed is repaired at the next fence (R360, R361). -/
def State.failLoftRow (s : State) (d : DieId) (row : Nat) : State :=
  if (s.die d).failedRows.contains row then s
  else (s.modDie d fun r => { r with failedRows := r.failedRows ++ [row] }).waitItem itemLoftRow 0

/-- A loft read that met a corrected error: recorded, and its row has failed after two of them within 24 hours (R342, R360). -/
def State.correctedLoft (s : State) (d : DieId) (offset : BitVec 30) : State :=
  let row := offset.toNat / 8192
  let id := idDie d (0x30 + row / rowsPerSlice) (row % rowsPerSlice)
  let now := s.clk.aonMicros
  let recent := (s.die d).corrections.filter fun x => now < x.2 + dayMicros
  let s := s.report { cls := .corrected, code := Config.unlistedCode 17, subject := id, reporter := id }
  if recent.any fun x => x.1 = row then
    (s.modDie d fun r => { r with corrections := recent.filter fun x => x.1 ≠ row }).failLoftRow d row
  else s.modDie d fun r => { r with corrections := recent ++ [(row, now)] }

/-- A sill asks for a full retraining: it runs at once in an idle state, else at a fence (R156, R351). -/
def State.askRetrain (s : State) (m : SillId) : State :=
  let s := s.modSill m fun x => { x with retrainPending := true }
  let mask : Word := BitVec.ofNat 32 (2 ^ m.val)
  if s.isIdleKind then s.retrainStacks mask else s.waitItem itemRetrain mask

/-! ## What a read of a sector finds (R151 to R153, R157) -/

/-- A row has failed: its repair waits for a fence, or runs at once in an idle state (R157, R351). -/
def State.failRow (s : State) (m : SillId) (sector : Nat) (cause : BitVec 4) : State :=
  let row := rowOfSector sector
  if (s.sill m).failedRows.any fun x => x.1 = row then s
  else if s.isIdleKind then s.repairOrFault m row cause
  else (s.modSill m fun x => { x with failedRows := x.failedRows ++ [(row, cause)] }).waitItem itemSoftRepair 0

/-- A corrected read: counted against the row, a write-back queued, and the row failed after errors in two of its sectors or
three of one within 24 hours (R151, R157). -/
def State.correctedRead (s : State) (m : SillId) (sector : Nat) : State :=
  let now := s.clk.aonMicros
  let recent := (s.sill m).corrections.filter fun x => now < x.2.2 + dayMicros
  let all := recent ++ [(rowOfSector sector, sector, now)]
  let same := all.filter fun x => x.1 = rowOfSector sector
  let s := s.modSill m fun x => { (x.count 0x03) with corrections := all, writeBacks := x.writeBacks ++ [sector] }
  let s := s.reportSector m sector .corrected 0x6003 .done
  if (same.any fun x => x.2.1 ≠ sector) || decide ((same.countP fun x => x.2.1 = sector) ≥ 3) then s.failRow m sector 1
  else s

/-- An on-die report: counted, and against the row; one of an error that the stack could not correct fails the row (R145, R157). -/
def State.onDieReport (s : State) (e : SectorEvent) : State :=
  if e.onDie = .none then s
  else
    let row := rowOfSector e.sector
    let s := s.modSill e.sill fun y => { (y.count 0x07) with
      onDieRows := Sparse.set (0 : Nat) y.onDieRows row (Sparse.get (0 : Nat) y.onDieRows row + 1) }
    if e.onDie = .failed then s.failRow e.sill e.sector 2 else s

/-- A read of one sector; the answer says whether it is uncorrectable (R151, R153, R157, R158). A second read and the write that
sets POISON move the sector again (R161). -/
def State.eccRead (s : State) (e : SectorEvent) : State × Bool :=
  let m := e.sill
  if (s.sill m).pageRetired (pageOf (e.sector * 64)) then
    ((s.countSill m 0x12).reportSector m e.sector .work 0x6012 .memoryUncorrectable, true)
  else
    let s := s.onDieReport e
    let poisoned := (s.sill m).poison.contains e.sector
    match if poisoned then .uncorrectable else e.result with
    | .clean => (s, false)
    | .corrected => (s.correctedRead m e.sector, false)
    | .retriedClean =>
      ((s.modSill m fun y => (y.count 0x04).moveBytes false 64).reportSector m e.sector .corrected 0x6004 .done, false)
    | .retriedCorrected =>
      (((s.modSill m fun y => (y.count 0x04).moveBytes false 64).reportSector m e.sector .corrected 0x6004 .done).correctedRead
        m e.sector, false)
    | .uncorrectable =>
      let s := s.modSill m fun y =>
        let y := (y.count 0x05).moveBytes true 64
        if poisoned then y else { y with poison := y.poison ++ [e.sector] }.moveBytes false 64
      let s := s.reportSector m e.sector .work 0x6005 .memoryUncorrectable
      (s.failRow m e.sector 3, true)

/-- Sectors read, with what the checks found; the answer lists the uncorrectable ones (R151). `counted` says that the bytes
moved are counted here. -/
def State.readList (s : State) (l : List (SillId × Nat)) (found : List SectorEvent) (counted : Bool) :
    State × List (SillId × Nat) :=
  l.foldl
    (fun (p : State × List (SillId × Nat)) x =>
      let (s, bad) := p
      let (m, sector) := x
      let s := if counted then s.modSill m fun y => y.moveBytes false 64 else s
      let e := match found.find? fun e => e.sill = m && e.sector = sector with
        | some e => e
        | none => ⟨m, sector, .clean, .none⟩
      let (s, b) := s.eccRead e
      (s, if b then bad ++ [(m, sector)] else bad)) (s, [])

/-- Every sector of a range read (R151). -/
def State.readSectors (s : State) (a n : Nat) (found : List SectorEvent) : State × List (SillId × Nat) :=
  s.readList ((s.sectorsOf a n).map fun x => (x.1, x.2.1)) found true

/-- Bytes of a range as read, those of uncorrectable sectors free: the spec does not say what they deliver (log entry 8). -/
def State.deliver (s : State) (a n : Nat) (bad : List (SillId × Nat)) : List Byte × State :=
  if bad.isEmpty then (s.readMem a n, s)
  else
    let base := s.free
    let byte (i : Nat) : Byte :=
      let spoilt : Bool := match s.decodeAddr (a + i) with
        | some (m, o) => bad.contains (m, o / 64)
        | none => false
      if spoilt then (Config.freeWord (base + i)).extractLsb' 0 8 else s.memByte (a + i)
    ((List.range n).map byte, { s with free := base + n })

/-- A range read by a unit that R153's table does not list: its sectors are checked, counted, poisoned and recorded as in any read
(R151, R153, R158, R161). The last component says that one was uncorrectable. -/
def State.readThrough (s : State) (a n : Nat) : List Byte × State × Bool :=
  let (s, bad) := s.readSectors a n []
  let (bytes, s) := s.deliver a n bad
  (bytes, s, !bad.isEmpty)

/-- The sectors that a write covers in part and that cannot be read to merge (R146, R153). -/
def State.badPartials (s : State) (a n : Nat) : List (SillId × Nat) :=
  (s.sectorsOf a n).filterMap fun x =>
    if !x.2.2 && (s.sill x.1).poison.contains x.2.1 then some (x.1, x.2.1) else none

/-- A write whose part sectors are read and merged first: one that reads uncorrectable is recorded and stays poisoned (R146,
R153). -/
def State.writeMerged (s : State) (a : Nat) (bytes : List Byte) : State :=
  ((s.readList (s.badPartials a bytes.length) [] false).1).writeMem a bytes

/-- Queued corrective write-backs are issued; a newer write has dropped those it meets (R152). -/
def Sill.drainWriteBacks (x : Sill) : Sill := { x with writeBacks := [] }.moveBytes true (64 * x.writeBacks.length)

/-! ## The check field (R150) -/

/-- The 8 bytes that stand beside a sector: the metadata symbol, whose bit 0 is POISON, and three check symbols over the data, the
metadata and the two address symbols (R150). The code's polynomial is not given (log entry 131). -/
def State.checkField (s : State) (m : SillId) (sector : Nat) : List Byte :=
  let poison := bit ((s.sill m).poison.contains sector)
  leBytes 2 poison ++
    leBytes 6 (Config.checkSymbols ((s.sill m).dram.read (sector * 64) 64) poison (m.val, sector % 64, sector / 64)).toNat

/-! ## Commands -/

/-- REFRESH_DUE (R154): one bank of the pseudo-channel is in refresh, and one in refresh management, at a time. -/
def execRefreshDue (sill : SillId) (channel : BitVec 6) (bank : BitVec 6) (management : Bool) (waited : Nat)
    (s : State) : Out :=
  .next (s.modSill sill fun x => { (x.count 0x08 waited) with
    refreshing := (x.refreshing.filter fun r => !(r.1 = channel && r.2.2 = management)) ++ [(channel, bank, management)] })

/-- CALIBRATION_WINDOW (R155): the next channel; a bad eye asks for a full retraining (R156). -/
def execCalibrationWindow (sill : SillId) (eyeBad : Bool) (s : State) : Out :=
  let s := s.modSill sill fun x => { (x.count 0x09) with calChannel := x.calChannel + 1 }
  .next (if eyeBad then s.askRetrain sill else s)

/-- PATROL_SCRUB_READ (R152, R153): poison and record only; a scrub takes only a start that no stream wants. -/
def execPatrolScrubRead (sill : SillId) (result : EccResult) (onDie : OnDieReport) (s : State) : Out :=
  if (s.sill sill).requests ≠ [] then .next s
  else
    let s := s.modSill sill fun x => x.drainWriteBacks.moveBytes false 64
    let sector := (s.sill sill).scrubAt
    let (s, _) := s.eccRead ⟨sill, sector, result, onDie⟩
    .next (s.modSill sill fun x =>
      if sector + 1 ≥ stackSectors then { (x.count 0x0F) with scrubAt := 0 } else { x with scrubAt := sector + 1 })

/-- STACK_TEMP_READ (R145, R154, R156): the refresh interval halves above 85 C, and a move of more than 10 C asks for a full
retraining. -/
def execStackTempRead (sill : SillId) (celsius : Byte) (s : State) : Out :=
  let t := celsius.toNat
  let s := s.modSill sill fun x => { x with
    counters := (Sparse.set (0 : Word) x.counters 0x10 (BitVec.ofNat 32 t)).raiseTo 0x11 t
    halfInterval := decide (t > 85) }
  let s := { s with pkg := { s.pkg with temps := (s.pkg.temps.filter fun x => x.1 ≠ .stack sill) ++ [(.stack sill, t)] } }
  let old := (s.sill sill).trainTemp
  .next (if t > old + 10 || old > t + 10 then s.askRetrain sill else s)

end Sys2Proof.Machine
end

