-- ==== Sys2Proof/Machine/Shards.lean ====
section
/-! DEFINITION. Update lists and collective entries: the layouts of R162, R163 and R217, the areas of a shard (R165, R166) and
where each chunk of a collective lies (R218). -/

namespace Sys2Proof.Machine

/-- A number in consecutive bytes of a record. -/
def fieldAt (bytes : List Byte) (at' n : Nat) : Nat := leNat ((bytes.drop at').take n)

/-! ## Shards (R163) -/

/-- The update rule of a code. -/
def ruleOf (n : Nat) : Option UpdateRule :=
  match n with
  | 0 => some .plain
  | 1 => some .signed
  | 2 => some .adaptive
  | 3 => some .precond
  | _ => none

/-- A shard descriptor from its 64 bytes (R163). -/
def parseShard (bytes : List Byte) : Shard :=
  let f := fieldAt bytes
  let w (k : Nat) : Word := BitVec.ofNat 32 (f k 4)
  let b0 := f 0 1
  { rule := (ruleOf (b0 % 8)).getD .plain, vote := b0.testBit 3, sparse := b0.testBit 4, a4 := b0.testBit 5,
    hyper := BitVec.ofNat 4 (f 1 1), rootEvery := BitVec.ofNat 16 (f 2 2), blocks := w 4, header := w 8, master := w 12,
    state := w 16, grad := w 20, copyElem := w 24, copyScale := w 28, aux := w 32, geom := w 36, tag := w 60,
    encodingGood := (ruleOf (b0 % 8)).isSome && decide (b0 < 64) && decide (f 1 1 < 16) && decide (f 40 20 = 0) }

/-- A hyperparameter set from its 32 bytes (R163). -/
def parseHyper (bytes : List Byte) : Hyper :=
  let w (k : Nat) : Word := BitVec.ofNat 32 (fieldAt bytes k 4)
  { eta := w 0, beta1 := w 4, beta2 := w 8, lambda := w 12, eps := w 16, damp := w 20, pivotEps := w 24, gscale := w 28 }

/-- Rows of a shard's table: 1 for a dense shard. -/
def shardRows (h : Shard) : Nat := if h.sparse then h.geom.toNat else 1

/-- Blocks of a shard in all. -/
def shardBlocks (h : Shard) : Nat := shardRows h * h.blocks.toNat

/-- Bytes of a block's state record (R166). -/
def recordSize (h : Shard) : Nat := if h.rule = .adaptive then 256 else 128

/-- Tiles of a PRECOND shard: squares of 256 rows by 8 blocks (R163). -/
def shardTiles (h : Shard) : Nat := if h.rule = .precond then h.blocks.toNat / 2048 else 0

/-- Bytes of a tile record (R166). -/
def tileBytes : Nat := 524352

/-- Element and scale bytes of a block in the compute copy (R174). -/
def copySizes (h : Shard) : Nat × Nat := if h.a4 then (16, 2) else (32, 1)

/-- The areas of a shard as offset and length in bytes: HEADER, MASTER, STATE, GRAD, COPY_ELEM, COPY_SCALE, AUX. -/
def shardAreas (h : Shard) : List (Nat × Nat) :=
  let n := shardBlocks h
  let state := if h.sparse then shardRows h * (32 + h.blocks.toNat * recordSize h) else n * recordSize h
  let aux := if h.vote then 12 * n else if h.sparse then 4 + 4 * h.geom.toNat else shardTiles h * tileBytes
  let (e, c) := copySizes h
  [(32 * h.header.toNat, 64), (32 * h.master.toNat, 160 * n), (32 * h.state.toNat, state), (32 * h.grad.toNat, 128 * n),
   (32 * h.copyElem.toNat, e * n), (32 * h.copyScale.toNat, c * n), (32 * h.aux.toNat, aux)]

/-- Two ranges share a byte. -/
def rangesMeet (a b : Nat × Nat) : Bool :=
  decide (0 < a.2) && decide (0 < b.2) && decide (a.1 < b.1 + b.2) && decide (b.1 < a.1 + a.2)

/-- A range lies in the local window of a stack (R147); an area of no bytes, such as the AUX of a plain dense shard, lies
anywhere (R163). -/
def inLocal (i : Nat) (a : Nat × Nat) : Bool := decide (a.2 = 0) || (decide (i ≤ a.1) && decide (a.1 + a.2 ≤ stackBytes))

/-- The constraints of R163 on a shard's fields. -/
def shardFieldsGood (h : Shard) : Bool :=
  h.encodingGood &&
  (!h.vote || (decide (h.rule = .signed) && !h.sparse)) &&
  (!h.sparse || decide (h.rule ≠ .precond)) &&
  (if h.rule = .precond then
    decide (h.rootEvery ≠ 0) && decide (h.geom ≠ 0) && decide (h.blocks.toNat % (8 * h.geom.toNat * 256) = 0)
   else decide (h.rootEvery = 0)) &&
  (if h.rule ≠ .precond && !h.sparse then decide (h.geom = 0) else true) &&
  (if h.rule ≠ .precond && !h.sparse && !h.vote then decide (h.aux = 0) else true)

/-- The first shard of a list that the verifier refuses (R162, R163). -/
def listFault (i : Nat) (l : UpdateList) : Option Nat :=
  let master (h : Shard) : Nat × Nat := (32 * h.master.toNat, 160 * shardBlocks h)
  let bad (k : Nat) (h : Shard) : Bool :=
    !(shardFieldsGood h && (shardAreas h).all (inLocal i)) ||
      (l.shards.take k).any fun g => rangesMeet (master g) (master h)
  if l.shards.length > 4096 ∨ l.hypers.length > 16 then some 0
  else (l.shards.zipIdx.find? fun x => bad x.2 x.1).map Prod.snd

/-- The hyperparameter set of a shard. -/
def hyperOf (l : UpdateList) (h : Shard) : Hyper := l.hypers.getD h.hyper.toNat ⟨0, 0, 0, 0, 0, 0, 0, 0⟩

/-! ## Stack memory by offset -/

/-- Module address of an offset of a stack's local window (R147). -/
def localAddr (m : SillId) (o : Nat) : Nat := m.val * 2 ^ 36 + o

/-- Bytes of a stack. -/
def State.readStack (s : State) (m : SillId) (o n : Nat) : List Byte := (s.sill m).dram.read o n

/-- A number in a stack. -/
def State.stackNat (s : State) (m : SillId) (o n : Nat) : Nat := leNat (s.readStack m o n)

/-- Bytes written to a stack's local window. -/
def State.writeStack (s : State) (m : SillId) (o : Nat) (bytes : List Byte) : State := s.writeMerged (localAddr m o) bytes

/-- Bytes of a stack as an engine reads them outside a commit, every sector checked; what an uncorrectable one delivers is free
(R151, R153; log entry 8). The last component says that there was one. -/
def State.readChecked (s : State) (m : SillId) (o n : Nat) : List Byte × State × Bool := s.readThrough (localAddr m o) n

/-! ## Protected areas (R19, R165, R263, R273) -/

/-- The areas of a shard that only commits and gathers write: HEADER, MASTER, STATE, COPY_ELEM and COPY_SCALE, and the tile records
of a PRECOND shard with their Gram matrices (R19, R165). -/
def protectedAreas (h : Shard) : List (Nat × Nat) :=
  (shardAreas h).zipIdx.filterMap fun x =>
    if [0, 1, 2, 4, 5].contains x.2 || (x.2 = 6 && h.rule = .precond) then some x.1 else none

/-- The range meets a protected area of an update list in effect (R19, R263). -/
def State.meetsProtected (s : State) (a n : Nat) : Bool :=
  allSills.any fun m => (s.sill m).active.shards.any fun h =>
    (protectedAreas h).any fun x => rangesMeet (a, n) (localAddr m x.1, x.2)

/-- What a store, a SEND or a copy writes at an address: bytes of protected areas keep the value that stands (R19; log entry 133). -/
def State.guardBytes (s : State) (a : Nat) (bytes : List Byte) : List Byte :=
  if s.meetsProtected a bytes.length then
    bytes.zipIdx.map fun x => if s.meetsProtected (a + x.2) 1 then s.memByte (a + x.2) else x.1
  else bytes

/-! ## Collective entries (R217) -/

/-- A collective entry from its 256 bytes (R217). -/
def parseColl (bytes : List Byte) : CollEntry :=
  let f := fieldAt bytes
  let at' (k j : Nat) : Nat := f (64 + 4 * j + 16 * k) 4
  let col (j : Nat) : List Nat := (List.range 12).map fun k => at' k j
  { vote := decide (f 0 1 % 4 = 1), copyA4 := (f 0 1).testBit 2, group := f 1 1 % 16, chunks := f 4 4,
    stage := col 0, grad := col 1, elem := col 2, scale := col 3,
    reserved := decide (f 0 1 % 4 ≥ 2) || decide (f 0 1 ≥ 8) || decide (f 1 1 ≥ 16) || decide (f 2 2 ≠ 0) ||
      decide (f 8 56 ≠ 0) || decide (f 4 4 = 0) || decide (f 4 4 ≥ 2 ^ 28) }

/-- An expert entry from its 8 bytes (R234). -/
def parseExpert (bytes : List Byte) : ExpertEntry :=
  let w := leNat bytes
  { home := BitVec.ofNat 15 w, die := w / 2 ^ 16 % 16, land := w / 2 ^ 32,
    reserved := decide (w / 2 ^ 15 % 2 ≠ 0) || decide (w / 2 ^ 20 % 2 ^ 12 ≠ 0) }

/-- The first chunk of member `r` of `n` (R218). -/
def ownerStart (chunks n r : Nat) : Nat := r * chunks / n

/-- The member that owns a chunk (R218). -/
def ownerOf (chunks n c : Nat) : Nat := ((c + 1) * n - 1) / chunks

/-- Chunks of member `r` (R218). -/
def ownerCount (chunks n r : Nat) : Nat := ownerStart chunks n (r + 1) - ownerStart chunks n r

/-- The first place of stack `k` in a run of `m` chunks (R218). -/
def partStart (m k : Nat) : Nat := k * m / 12

/-- The stack of a chunk (R218). -/
def stackOf (chunks n c : Nat) : SillId :=
  let r := ownerOf chunks n c
  let m := ownerCount chunks n r
  ⟨(((c - ownerStart chunks n r) + 1) * 12 - 1) / m % 12, Nat.mod_lt _ (by omega)⟩

/-- A chunk's rank within its owner's part in its stack: q (R218). -/
def rankOf (chunks n c : Nat) : Nat :=
  let r := ownerOf chunks n c
  (c - ownerStart chunks n r) - partStart (ownerCount chunks n r) (stackOf chunks n c).val

/-- Chunks before `c`, of any owner, whose part lies in its stack: j_k(c) (R218). -/
def placeOf (chunks n c : Nat) : Nat :=
  let k := (stackOf chunks n c).val
  let before := (List.range (ownerOf chunks n c)).map fun r =>
    let m := ownerCount chunks n r
    partStart m (k + 1) - partStart m k
  before.sum + rankOf chunks n c

/-- Blocks of a whole chunk (R217). -/
def chunkBlocks (e : CollEntry) : Nat := if e.vote then 1024 else 128

/-- Stack offset of a chunk's copy elements, or sign words (R218). -/
def elemAt (e : CollEntry) (n c : Nat) : Nat :=
  32 * e.elem.getD (stackOf e.chunks n c).val 0 + placeOf e.chunks n c * (if e.vote then 4096 else if e.copyA4 then 2048 else 4096)

/-- Stack offset of a chunk's copy scales, or vote results (R218). -/
def scaleAt (e : CollEntry) (n c : Nat) : Nat :=
  32 * e.scale.getD (stackOf e.chunks n c).val 0 + placeOf e.chunks n c * (if e.vote then 8192 else if e.copyA4 then 256 else 128)

/-- Stack offset of a chunk's F32 sums on its owner (R218). -/
def gradAt (e : CollEntry) (n c : Nat) : Nat :=
  32 * e.grad.getD (stackOf e.chunks n c).val 0 + rankOf e.chunks n c * 16384

/-- Stack offset of the contribution of member `i` on the owner (R218). -/
def stageAt (e : CollEntry) (n c i : Nat) : Nat :=
  32 * e.stage.getD (stackOf e.chunks n c).val 0 + (rankOf e.chunks n c * n + i) * 4224

/-- The shard of a stack's list and the block in it at which block `b` of an owned chunk's sums, or of any chunk's signs, lies: its
sum, copy, sign and result addresses are those of the shard's areas (R163, R166, R218). -/
def blockShard (l : UpdateList) (e : CollEntry) (n c b : Nat) : Option (Nat × Nat) :=
  let sum := gradAt e n c + 128 * b
  let sign := elemAt e n c + 4 * b
  (l.shards.zipIdx.find? fun x =>
    let h := x.1
    let (es, cs) := copySizes h
    let base := 32 * h.grad.toNat
    let auxBase := 32 * h.aux.toNat
    if e.vote then
      h.vote && decide (auxBase ≤ sign) && decide ((sign - auxBase) % 4 = 0) && decide ((sign - auxBase) / 4 < h.blocks.toNat) &&
        decide (scaleAt e n c + 8 * b = auxBase + 4 * h.blocks.toNat + 8 * ((sign - auxBase) / 4))
    else
      !h.vote && !h.sparse && decide (base ≤ sum) && decide ((sum - base) % 128 = 0) &&
        decide ((sum - base) / 128 < h.blocks.toNat) && decide (h.a4 = e.copyA4) &&
        decide (elemAt e n c + es * b = 32 * h.copyElem.toNat + es * ((sum - base) / 128)) &&
        decide (scaleAt e n c + cs * b = 32 * h.copyScale.toNat + cs * ((sum - base) / 128))).map fun x =>
    (x.2, if e.vote then (sign - 32 * x.1.aux.toNat) / 4 else (sum - 32 * x.1.grad.toNat) / 128)

/-- The shards that a chunk's blocks lie in from block `b` on, each with its first block and its count, as far as shards of the
list own them (R218). -/
def chunkRuns (l : UpdateList) (e : CollEntry) (n c : Nat) : Nat → Nat → List (Nat × Nat × Nat)
  | 0, _ => []
  | fuel + 1, b =>
    if chunkBlocks e ≤ b then []
    else
      match blockShard l e n c b with
      | none => []
      | some (i, k) =>
        let blocks := match l.shards[i]? with
          | some h => min (chunkBlocks e - b) (h.blocks.toNat - k)
          | none => 0
        (i, k, blocks) :: chunkRuns l e n c fuel (b + blocks)

/-- The shards of a chunk, in block order (R218). -/
def chunkShards (l : UpdateList) (e : CollEntry) (n c : Nat) : List Nat :=
  (chunkRuns l e n c (l.shards.length + 1) 0).map Prod.fst

/-- The shards of a stack's list own the first block of a chunk (R218). -/
def chunkOwned (l : UpdateList) (e : CollEntry) (n c : Nat) : Bool := (blockShard l e n c 0).isSome

/-- Blocks of a chunk that shards of the list own (R218). -/
def ownedBlocks (l : UpdateList) (e : CollEntry) (n c : Nat) : Nat :=
  ((chunkRuns l e n c (l.shards.length + 1) 0).map fun x => x.2.2).sum

/-- Blocks that a chunk really has: all but the last are whole, and the last may be short and ends with its shard (R217). A module
whose lists do not own the last chunk learns its length from nothing the spec names: it is a free value of the entry (log entry
130). -/
def chunkLength (l : UpdateList) (e : CollEntry) (n c : Nat) : Nat :=
  if c + 1 ≠ e.chunks then chunkBlocks e
  else if chunkOwned l e n c then ownedBlocks l e n c
  else Config.lastChunkBlocks e.chunks e.grad e.elem % chunkBlocks e + 1

/-! ## Gradient values (R178) -/

/-- Bytes common to two ranges, as a range. -/
def meetOf (a b : Nat × Nat) : Nat × Nat :=
  let lo := max a.1 b.1
  (lo, min (a.1 + a.2) (b.1 + b.2) - lo)

/-- F32 words of a range of a stack that hold an infinity or a NaN; a word the range touches counts whole. -/
def State.badWords (s : State) (m : SillId) (a n : Nat) : Nat :=
  if n = 0 then 0
  else
    (List.range ((a + n - 1) / 4 - a / 4 + 1)).countP fun i => f32NonFinite (BitVec.ofNat 32 (s.stackNat m (4 * (a / 4 + i)) 4))

/-- What was written into GRAD ranges of the update lists is checked: an infinity or NaN sets NONFINITE (R178). -/
def State.gradCheck (s : State) (a n : Nat) : State :=
  allSills.foldl (fun s m => (s.sill m).active.shards.foldl (fun s h =>
    let base := localAddr m 0
    let x := meetOf (a, n) (base + 32 * h.grad.toNat, 128 * shardBlocks h)
    let bad := s.badWords m (x.1 - base) x.2
    if bad = 0 then s else (s.countSill m 0x26 bad).setNonfinite) s) s

end Sys2Proof.Machine
end

