-- ==== Sys2Proof/Machine/Streams.lean ====
section
/-! DEFINITION. Fetch streams: the loft pool and its buffers (R119 to R124), dry times (R134, R135), descriptors and what
they move (R126 to R129), completions in order (R132), and the raise of an epoch (R140, R141). -/

namespace Sys2Proof.Machine

/-! ## The pool (R119 to R122) -/

/-- The slices of a mask, ascending. -/
def slicesOf (mask : BitVec 16) : List Nat := (List.range 16).filter fun i => mask.getLsbD i

/-- The slice of the buffer with a sequence number (R122). -/
def Stream.sliceFor (t : Stream) (seq : Nat) : Nat :=
  let l := slicesOf t.conf.sliceMask
  l.getD (seq % l.length) 0

/-- Buffers a stream holds in a slice. -/
def Stream.heldIn (t : Stream) (slice : Nat) : Nat := t.buffers.countP fun b => sliceOfBuffer b.number = slice

/-- Buffers reserved for a stream in a slice (R120). -/
def Stream.reserveIn (t : Stream) (slice : Nat) : Nat :=
  if t.isOpen && t.conf.sliceMask.getLsbD slice then t.conf.minBuf.toNat else 0

/-- Every stream slot of a die with its bay and slot. -/
def RingDie.allStreams (r : RingDie) : List (BayIx × SlotIx × Stream) :=
  (List.finRange 4).flatMap fun b => (List.finRange 64).map fun k => (b, k, r.bays[b].streams[k])

/-- The pooled buffers of a slice that are in service (R119, R360). -/
def RingDie.pooledIn (r : RingDie) (slice : Nat) : List Nat :=
  ((List.range 1024).map fun i => slice * 1024 + i).filter fun b => r.pooled.getLsbD b && !r.withdrawn.contains b

/-- The pooled buffers of a slice that no stream holds. -/
def RingDie.freeIn (r : RingDie) (slice : Nat) : List Nat :=
  (r.pooledIn slice).filter fun b => !(r.allStreams.any fun x => x.2.2.buffers.any fun y => y.number = b)

/-- Free buffers of the shared part of a slice (R120). -/
def RingDie.sharedFree (r : RingDie) (slice : Nat) : Nat :=
  (r.pooledIn slice).length - (r.allStreams.map fun x => max (x.2.2.heldIn slice) (x.2.2.reserveIn slice)).sum

/-- The shared low-water mark brought up to date (R144). -/
def RingDie.noteLow (r : RingDie) : RingDie :=
  if r.poolDefined then
    let low := (List.range 16).foldl (fun m k => min m (r.sharedFree k)) (Sparse.get (0 : Word) r.counters 0x55).toNat
    { r with counters := Sparse.set (0 : Word) r.counters 0x55 (BitVec.ofNat 32 low) }
  else r

/-- Dry time of a FETCH or RECEIVE stream (R134). -/
def Stream.fetchDry (t : Stream) : DWord := t.anchor + BitVec.ofNat 64 (t.bytes / t.conf.rate.toNat)

/-- Dry time of a STORE stream: F is what it may still take (R135). -/
def Stream.storeDry (t : Stream) : DWord :=
  t.anchor + BitVec.ofNat 64 ((t.conf.maxBuf.toNat - t.buffers.length) * 65536 / t.conf.rate.toNat)

/-- Dry time of a stream. -/
def Stream.dry (t : Stream) : DWord := if t.conf.mode = 1 then t.storeDry else t.fetchDry

/-- `a` comes before `b`: a signed 32-bit difference of the low 32 bits, ties to the lower stream number (R136). -/
def dryBefore (a b : DWord) (na nb : Nat) : Bool :=
  let d : Word := a.extractLsb' 0 32 - b.extractLsb' 0 32
  d.msb || (d = 0 && decide (na < nb))

/-- No other stream that waits for a shared buffer of the slice comes first (R121). -/
def RingDie.firstToWait (r : RingDie) (b : BayIx) (k : SlotIx) (slice : Nat) : Bool :=
  let me := r.bays[b].streams[k]
  let num (x : BayIx) (y : SlotIx) : Nat := x.val * 64 + y.val
  r.allStreams.all fun x => !(x.2.2.waitsFor = some slice && (x.1 ≠ b || x.2.1 ≠ k) &&
    dryBefore x.2.2.dry me.dry (num x.1 x.2.1) (num b k))

/-- A stream can take one more buffer in a slice (R120, R121). -/
def RingDie.canTake (r : RingDie) (b : BayIx) (k : SlotIx) (slice : Nat) : Bool :=
  let t := r.bays[b].streams[k]
  decide (t.buffers.length < t.conf.maxBuf.toNat) && !(r.freeIn slice).isEmpty &&
    (decide (t.heldIn slice < t.reserveIn slice) || (decide (0 < r.sharedFree slice) && r.firstToWait b k slice))

/-- A buffer taken for the next number of a sequence; which free buffer of the slice it is, is free (R122; log entry 8). -/
def State.takeBuffer (s : State) (b : BayId) (k : SlotIx) (scale : Bool) (bytes : Nat) : Option State :=
  let r := s.die b.die
  let t := s.stream b k
  let seq := if scale then t.nextScale else t.nextElem
  let slice := t.sliceFor seq
  if r.canTake b.bay k slice then
    let free := r.freeIn slice
    let (w, s) := s.takeFree
    let buf : Buffer := { seqNo := seq, scale := scale, number := free.getD (w.toNat % free.length) 0, epoch := t.epoch,
                          filled := false, bytes := bytes, inUse := false, planks := [] }
    let s := s.modStream b k fun t => { t with
      buffers := t.buffers ++ [buf], waitsFor := none, bytes := t.bytes + bytes
      nextElem := if scale then t.nextElem else t.nextElem + 1
      nextScale := if scale then t.nextScale + 1 else t.nextScale }
    some (s.modDie b.die RingDie.noteLow)
  else none

/-- A held buffer of a stream changed. -/
def Stream.modBuffer (t : Stream) (scale : Bool) (seq : Nat) (f : Buffer → Buffer) : Stream :=
  { t with buffers := t.buffers.map fun x => if x.scale = scale && x.seqNo = seq then f x else x }

/-- Buffers dropped from a stream, its byte count with them. -/
def Stream.dropBuffers (t : Stream) (p : Buffer → Bool) : Stream :=
  let gone := t.buffers.filter p
  { t with buffers := t.buffers.filter (fun x => !p x), bytes := t.bytes - (gone.map Buffer.bytes).sum }

/-- The oldest buffers of a sequence: their sequence numbers. -/
def Stream.oldest (t : Stream) (scale : Bool) (n : Nat) : List Nat :=
  ((t.buffers.filter fun x => x.scale = scale).map Buffer.seqNo).take n

/-- A release of the oldest buffers of a sequence is within the filled ones (R124). -/
def Stream.canRelease (t : Stream) (scale : Bool) (n : Nat) : Bool :=
  let own := t.buffers.filter fun x => x.scale = scale
  decide (n ≤ own.length) && (own.take n).all Buffer.filled

/-- Buffers taken one after another; where one cannot be had, the slice that lacks it (R121, R138). -/
def State.takeMany (scale : Bool) : Nat → State → BayId → SlotIx → Except Nat State
  | 0, s, _, _ => .ok s
  | n + 1, s, b, k =>
    match s.takeBuffer b k scale 0 with
    | none =>
      let t := s.stream b k
      .error (t.sliceFor (if scale then t.nextScale else t.nextElem))
    | some s => State.takeMany scale n s b k

/-- The stream waits for a shared buffer of a slice; one that `n` more buffers would take past MAX_BUF waits for its own (R120,
R121). -/
def Stream.lack (t : Stream) (slice n : Nat) : Stream :=
  if t.buffers.length + n ≤ t.conf.maxBuf.toNat then { t with waitsFor := some slice } else t

/-- Buffers that a RECEIVE stream has reserved for multicasts not yet landed (R118). -/
def Stream.mcReserved (t : Stream) : Nat := ((t.mcTargets.filter fun m => m.granted).map McTarget.count).sum

/-- An earlier multicast of the stream's source has neither reached COMMIT nor been aborted here, or the slot closes (R138, R139). -/
def Stream.unsettled (t : Stream) : Bool := t.closing || t.mcTargets.any fun m => m.aborting || (m.granted && !m.committed)

/-- A target grants its whole share to the first request that waits, or none of it, and replies with its present dry time (R138). -/
def State.tryGrant (s : State) (b : BayId) (k : SlotIx) : State :=
  let t := s.stream b k
  match t.mcTargets.find? fun m => !m.granted with
  | none => s
  | some m =>
    if t.unsettled || decide (t.conf.outstanding.toNat < t.mcReserved + m.count) then s
    else
      match (State.takeMany false m.left s b k).bind fun s => State.takeMany true (m.count - m.left) s b k with
      | .error slice => s.modStream b k fun t => t.lack slice m.count
      | .ok s' => s'.modStream b k fun u => { u with
          mcTargets := u.mcTargets.map fun x =>
            if x = m then { x with granted := true, epoch := t.epoch, firstElem := t.nextElem, firstScale := t.nextScale, dry := u.fetchDry }
            else x }

/-- Requests that wait at the RECEIVE streams of a die looked at again (R138). -/
def State.tryGrants (s : State) (d : DieId) : State :=
  (s.die d).allStreams.foldl (fun s x =>
    if x.2.2.mcTargets.isEmpty then s else s.tryGrant ⟨d, x.1⟩ x.2.1) s

/-- A descriptor of the stream whose transfers fill the stream's own buffers. -/
def Stream.fillsOwn (t : Stream) (ident : Nat) : Bool := t.descs.any fun d => d.ident = ident && !d.isStatic && !d.multicast

/-- Bytes of a stream's request that is pending at the sills: not yet in flight (R134). -/
def Stream.pendingBytes (t : Stream) : Nat :=
  ((t.flights.filter fun f => !f.sills.isEmpty && !f.begun && !f.isTable && t.fillsOwn f.ident).map Transfer.bytes).sum

/-- The dry time that a stream's pending request carries: the request's own bytes are not in flight (R134, R135). -/
def Stream.requestDry (t : Stream) : DWord :=
  if t.conf.mode = 1 then t.storeDry
  else t.anchor + BitVec.ofNat 64 ((t.bytes - t.pendingBytes) / t.conf.rate.toNat)

/-- The fetch engine sends the dry time again while a request is pending (R134); a multicast's transfers keep that of its grants
(R138). -/
def State.resendDry (s : State) (b : BayId) (k : SlotIx) : State :=
  let t := s.stream b k
  let dry := t.requestDry
  let multi (ident : Nat) : Bool := t.mcasts.any fun m => m.ident = ident
  let s := s.modStream b k fun t => { t with
    flights := t.flights.map fun f => if !f.sills.isEmpty && !multi f.ident then { f with dry := dry } else f }
  { s with sills := s.sills.map fun m => { m with
      requests := m.requests.map fun q => if q.stream = streamNumber b k && !multi q.ident then { q with dry := dry } else q } }

/-- A release: buffers freed, the anchor set, B reduced (R124, R134); requests that wait are looked at (R121, R138). -/
def State.release (s : State) (b : BayId) (k : SlotIx) (scale : Bool) (n : Nat) : State :=
  let now := s.now
  let s := s.modStream b k fun t =>
    let seqs := t.oldest scale n
    { t.dropBuffers (fun x => x.scale = scale && seqs.contains x.seqNo) with anchor := now }
  ((s.modDie b.die RingDie.noteLow).resendDry b k).tryGrants b.die

/-- The oldest element buffers of a stream are named by a consumer that has started (R140). -/
def State.markInUse (s : State) (b : BayId) (k : SlotIx) (n : Nat) : State :=
  s.modStream b k fun t =>
    let seqs := t.oldest false n
    { t with buffers := t.buffers.map fun x => if !x.scale && seqs.contains x.seqNo then { x with inUse := true } else x }

/-! ## Descriptors (R126 to R129) -/

/-- A number in consecutive bytes. -/
def field (bytes : List Byte) (at' n : Nat) : Nat := leNat ((bytes.drop at').take n)

/-- A descriptor as read from a ring; `wellFormed` says that its reserved bits and bytes are 0 (R126). -/
def parseDesc (ident : Nat) (bytes : List Byte) : FetchDesc :=
  let f := field bytes
  { ident := ident, kind := BitVec.ofNat 8 (f 0 1), format := BitVec.ofNat 4 (f 1 1),
    across := (f 1 1).testBit 4, rowsInner := (f 1 1).testBit 5, complete := (f 2 1).testBit 0,
    gated := (f 2 1).testBit 1, multicast := (f 2 1).testBit 2, isStatic := (f 2 1).testBit 3,
    counter := ⟨f 3 1 % 32, Nat.mod_lt _ (by omega)⟩, gateBlock := BitVec.ofNat 16 (f 4 2),
    gateStep := BitVec.ofNat 8 (f 6 1), src := BitVec.ofNat 64 (f 8 8), aux := BitVec.ofNat 64 (f 16 8),
    rows := BitVec.ofNat 32 (f 24 4), cols := BitVec.ofNat 32 (f 28 4), rowStride := BitVec.ofNat 64 (f 32 8),
    scaleStride := BitVec.ofNat 32 (f 40 4), dest := BitVec.ofNat 32 (f 44 4), mcMask := BitVec.ofNat 16 (f 48 2),
    mcStream := BitVec.ofNat 8 (f 50 1), mcCounter := ⟨f 51 1 % 32, Nat.mod_lt _ (by omega)⟩,
    tag := BitVec.ofNat 32 (f 60 4),
    wellFormed := decide (f 1 1 < 64) && decide (f 2 1 < 16) && decide (f 3 1 < 32) && decide (f 7 1 = 0) &&
      decide (f 8 8 < 2 ^ 40) && decide (f 51 1 < 32) && decide (f 52 8 = 0),
    issued := 0, landed := 0, status := .done, started := false, tableRead := 0, badTable := [], table := [],
    command := false }

/-- The block format of a PLANK descriptor; none for H16. -/
def FetchDesc.fmt (d : FetchDesc) : Option BlockFmt :=
  match d.format.toNat with
  | 0 => some .a8
  | 1 => some .g8
  | 2 => some .a4
  | _ => none

/-- Bytes of a row of the element array: the elements that a fetch reads (R28, R127). -/
def FetchDesc.rowBytes (d : FetchDesc) : Nat :=
  if d.kind = 2 then
    match d.fmt with
    | some k => k.bytes d.cols.toNat
    | none => 2 * d.cols.toNat
  else d.cols.toNat

/-- Module address of the row with an index (R127). -/
def FetchDesc.rowBase (d : FetchDesc) (x : Nat) : Nat := d.src.toNat + x * d.rowStride.toNat

/-- Module address of row `r` of the element array or the bytes; of an INDEXED descriptor, by the index as it was read (R127). -/
def FetchDesc.rowAddr (d : FetchDesc) (r : Nat) : Nat := d.rowBase (if d.kind = 3 then (d.table.getD r 0).toNat else r)

/-- Rows and bytes of a PLANK descriptor's scale array (R127). -/
def FetchDesc.scaleShape (d : FetchDesc) : Nat × Nat :=
  match d.fmt with
  | none => (0, 0)
  | some k =>
    if d.across then (ceilDiv d.rows.toNat k.size, d.cols.toNat) else (d.rows.toNat, ceilDiv d.cols.toNat k.size)

/-- Everything a descriptor reads or writes lies in module memory (R129). The rows of an INDEXED descriptor are checked by the
indices that its table holds as the descriptor is read (DESIGN CHOICE, log entry 134). -/
def State.descInMemory (s : State) (d : FetchDesc) : Bool :=
  let (sr, sb) := d.scaleShape
  (if d.kind = 3 then s.inMemory d.aux.toNat (4 * d.rows.toNat) else true) &&
  ((List.range d.rows.toNat).all fun r =>
    s.inMemory (d.rowBase (if d.kind = 3 then leNat (s.readMem (d.aux.toNat + 4 * r) 4) else r)) d.rowBytes) &&
  (if d.kind = 2 then
    (List.range sr).all fun g => s.inMemory (d.aux.toNat + g * d.scaleStride.toNat) sb else true)

/-- The RECEIVE stream that a multicast names on a target die (R126, R138), its bay logical (R247). -/
def State.mcTarget (s : State) (d : FetchDesc) (die : DieId) : BayId × SlotIx :=
  let (b, k) := (s.die die).physStream (d.mcStream.zeroExtend 12)
  (⟨die, b⟩, k)

/-- The bay and slot of a stream by its global number (R116). -/
def bayOfStream (n : BitVec 12) : BayId × SlotIx :=
  (⟨⟨n.toNat / 256, by omega⟩, ⟨n.toNat / 64 % 4, Nat.mod_lt _ (by omega)⟩⟩, ⟨n.toNat % 64, Nat.mod_lt _ (by omega)⟩)

/-- The target dies of a mask. -/
def diesOf (mask : BitVec 16) : List DieId := allDies.filter fun d => mask.getLsbD d.val

/-- The number by which a program names a stream of this die: bay number logical (R116, R247). -/
def State.logicalStream (s : State) (b : BayId) (k : SlotIx) : BitVec 12 :=
  let j := (b.bay.val + 4 - (s.die b.die).rho.val) % 4
  BitVec.ofNat 12 (b.die.val * 256 + j * 64 + k.val)

/-- Bytes of a LINEAR or INDEXED descriptor in all. -/
def FetchDesc.totalBytes (d : FetchDesc) : Nat := d.rows.toNat * d.cols.toNat

/-- The loft range of a STATIC descriptor meets no pooled buffer (R129). -/
def RingDie.staticGood (r : RingDie) (d : FetchDesc) : Bool :=
  let a := d.dest.toNat
  decide (a % 64 = 0) && inLoft a d.totalBytes &&
    ((List.range (d.totalBytes / 65536 + 2)).all fun j =>
      !(decide (bufferOf a + j ≤ bufferOf (a + d.totalBytes - 1)) && r.pooled.getLsbD (bufferOf a + j)))

/-- The checks of R129 for a descriptor of a stream in a mode. STATIC with INDEXED, of which R126 says only that STATIC is LINEAR,
is refused with them (DESIGN CHOICE, log entry 135). -/
def State.descGood (s : State) (b : BayId) (k : SlotIx) (d : FetchDesc) : Bool :=
  let t := s.stream b k
  let store := t.conf.mode = 1
  d.wellFormed && decide (t.conf.mode ≠ 2) &&
  (if store then decide (d.kind = 1) && !d.across && !d.rowsInner
   else decide (d.kind = 1 ∨ d.kind = 2 ∨ d.kind = 3)) &&
  decide (d.format.toNat ≤ 6) && !d.rows.msb && !d.cols.msb &&
  (if d.kind = 2 then decide (d.format.toNat ≤ 3) && !d.isStatic else true) &&
  (if d.isStatic then !d.multicast && decide (d.kind = 1) && (s.die b.die).staticGood d else true) &&
  (if d.multicast then
    decide (t.conf.mode = 0) && decide (d.mcMask ≠ 0) &&
      (diesOf d.mcMask).all fun die =>
        let (tb, tk) := s.mcTarget d die
        let u := s.stream tb tk
        u.isOpen && decide (u.conf.mode = 2) && decide (u.conf.source = s.logicalStream b k)
   else true) &&
  s.descInMemory d

/-- K-planks and row-planks of a PLANK descriptor. -/
def FetchDesc.plankGrid (d : FetchDesc) : Nat × Nat := (ceilDiv d.rows.toNat 256, ceilDiv d.cols.toNat 256)

/-- Transfers of a descriptor (R131). -/
def FetchDesc.transfers (d : FetchDesc) : Nat :=
  if d.rows = 0 ∨ d.cols = 0 then 0
  else if d.kind = 2 then
    let p := d.plankGrid.1 * d.plankGrid.2
    match d.fmt with
    | some .a4 => ceilDiv p 2
    | some _ => p
    | none => 2 * p
  else ceilDiv d.totalBytes 65536

/-- First row and first column of a plank by its position in ORDER (R127). -/
def FetchDesc.plankAt (d : FetchDesc) (p : Nat) : Nat × Nat :=
  let (rp, kp) := d.plankGrid
  if d.rowsInner then (p % rp * 256, p / rp * 256) else (p / kp * 256, p % kp * 256)

/-- Planks that a transfer carries: their positions (R123, R131). -/
def FetchDesc.planksOf (d : FetchDesc) (part : Nat) : List Nat :=
  match d.fmt with
  | some .a4 => [2 * part, 2 * part + 1].filter fun p => decide (p < d.plankGrid.1 * d.plankGrid.2)
  | some _ => [part]
  | none => [part / 2]

/-- Planks whose scale lines share a scale buffer (R123). -/
def FetchDesc.perScaleBuffer (d : FetchDesc) : Nat :=
  match d.fmt with
  | some .a4 => 16
  | some _ => 32
  | none => 0

/-- Bytes of a plank's scale lines (R51). -/
def FetchDesc.scaleBytes (d : FetchDesc) : Nat :=
  match d.fmt with
  | some .a4 => 4096
  | some _ => 2048
  | none => 0

/-- Element bytes a transfer puts into its buffer. -/
def FetchDesc.partBytes (d : FetchDesc) (part : Nat) : Nat :=
  if d.kind = 2 then
    match d.fmt with
    | some .a4 => 32768 * (d.planksOf part).length
    | _ => 65536
  else min 65536 (d.totalBytes - part * 65536)

/-- A byte as a transfer delivers it: 0 for a sector that reads uncorrectable (R153, R158). -/
def State.fetchByte (s : State) (zeroed : List (SillId × Nat)) (a : Nat) : Byte :=
  match s.decodeAddr a with
  | none => 0xFF
  | some (m, o) => if zeroed.contains (m, o / 64) then 0 else (s.sill m).dram.get o

/-- A code of a tensor element; +0 at or beyond ROWS and COLS (R127). -/
def State.tensorCode (s : State) (d : FetchDesc) (zeroed : List (SillId × Nat)) (i k : Nat) : Nat :=
  if d.rows.toNat ≤ i ∨ d.cols.toNat ≤ k then 0
  else
    let row := d.rowAddr i
    match d.fmt with
    | some .a4 =>
      let b := (s.fetchByte zeroed (row + k / 2)).toNat
      if k % 2 = 0 then b % 16 else b / 16
    | some _ => (s.fetchByte zeroed (row + k)).toNat
    | none => (s.fetchByte zeroed (row + 2 * k)).toNat + 256 * (s.fetchByte zeroed (row + 2 * k + 1)).toNat

/-- The element lines of a plank, skewed: element (i, k) in line (k + i) mod 256, lane i (R52). -/
def State.plankLines (s : State) (d : FetchDesc) (zeroed : List (SillId × Nat)) (p first count : Nat) : List Byte :=
  let (r0, k0) := d.plankAt p
  (List.range count).flatMap fun j =>
    let line := first + j
    let codes := (List.range 256).map fun i => s.tensorCode d zeroed (r0 + i) (k0 + (line + 256 - i) % 256)
    match d.fmt with
    | some k => k.packCodes codes
    | none => codes.flatMap fun c => leBytes 2 c

/-- The scale lines of a plank (R51, R127). -/
def State.plankScales (s : State) (d : FetchDesc) (zeroed : List (SillId × Nat)) (p : Nat) : List Byte :=
  match d.fmt with
  | none => []
  | some f =>
    let (r0, k0) := d.plankAt p
    (List.range (256 / f.size)).flatMap fun g => (List.range 256).map fun x =>
      if d.across then
        if d.cols.toNat ≤ k0 + x ∨ d.rows.toNat ≤ r0 + g * f.size then 0
        else s.fetchByte zeroed (d.aux.toNat + (r0 / f.size + g) * d.scaleStride.toNat + (k0 + x))
      else
        if d.rows.toNat ≤ r0 + x ∨ d.cols.toNat ≤ k0 + g * f.size then 0
        else s.fetchByte zeroed (d.aux.toNat + (r0 + x) * d.scaleStride.toNat + (k0 / f.size + g))

/-- The element bytes of a transfer (R123, R127). -/
def State.partContent (s : State) (d : FetchDesc) (zeroed : List (SillId × Nat)) (part : Nat) : List Byte :=
  if d.kind = 2 then
    match d.fmt with
    | some _ => (d.planksOf part).flatMap fun p => s.plankLines d zeroed p 0 256
    | none => s.plankLines d zeroed (part / 2) (if part % 2 = 0 then 0 else 128) 128
  else
    (List.range (d.partBytes part)).map fun j =>
      let t := part * 65536 + j
      if d.kind = 3 ∧ d.badTable.contains (t / d.cols.toNat / 1024) then 0
      else s.fetchByte zeroed (d.rowAddr (t / d.cols.toNat) + t % d.cols.toNat)

/-- The module address ranges a transfer reads or writes, row by row (R127, R128). -/
def FetchDesc.partRanges (d : FetchDesc) (part : Nat) : List (Nat × Nat) :=
  if d.kind = 2 then
    (d.planksOf part).flatMap fun p =>
      let (r0, k0) := d.plankAt p
      let cols := min 256 (d.cols.toNat - k0)
      let rows := min 256 (d.rows.toNat - r0)
      let elems := (List.range rows).map fun i =>
        match d.fmt with
        | some .a4 => (d.rowAddr (r0 + i) + k0 / 2, (cols + 1) / 2)
        | some _ => (d.rowAddr (r0 + i) + k0, cols)
        | none => (d.rowAddr (r0 + i) + 2 * k0, 2 * cols)
      let scales := match d.fmt with
        | none => []
        | some f =>
          if d.across then (List.range (ceilDiv rows f.size)).map fun g =>
            (d.aux.toNat + (r0 / f.size + g) * d.scaleStride.toNat + k0, cols)
          else (List.range rows).map fun i =>
            (d.aux.toNat + (r0 + i) * d.scaleStride.toNat + k0 / f.size, ceilDiv cols f.size)
      elems ++ scales
  else
    let first := part * 65536
    let last := first + d.partBytes part
    (List.range (d.partBytes part / d.cols.toNat + 2)).filterMap fun j =>
      let r := first / d.cols.toNat + j
      let lo := max first (r * d.cols.toNat)
      let hi := min last ((r + 1) * d.cols.toNat)
      if lo < hi then some (d.rowAddr r + (lo - r * d.cols.toNat), hi - lo) else none

/-- The plank records of an element buffer (R435). -/
def FetchDesc.recordsOf (d : FetchDesc) (part scaleSeq : Nat) : List PlankRec :=
  if d.kind = 2 then
    (d.planksOf part).map fun p =>
      let (r0, k0) := d.plankAt p
      { format := d.format, across := d.across, validRows := min 256 (d.rows.toNat - r0),
        validCols := min 256 (d.cols.toNat - k0), scaleSeq := scaleSeq,
        scaleLine := if d.perScaleBuffer = 0 then 0 else p % d.perScaleBuffer }
  else []

/-! ## Completion of descriptors in order (R132, R133) -/

/-- The gather a gated descriptor names has completed on this module, with any status (R133). -/
def State.gateOpen (s : State) (d : FetchDesc) : Bool :=
  !d.gated || s.coll.gathers.any fun g => g.1 = d.gateStep && g.2.1 = d.gateBlock

/-- The record CODE of a WORK completion of the fetch or store engine: the counter of R144 that counts it, else unlisted. -/
def fetchCode (st : Status) : BitVec 16 :=
  match st with
  | .badDescriptor => 0x5058
  | .multicastTimeout => 0x505A
  | .disabled => 0x5039
  | .cancelled => 0x5039
  | _ => Config.unlistedCode 1

/-- A descriptor reports its completion on its counter: DONE, DONE_FLAGGED and CANCELLED only with COMPLETE (R126, R129). -/
def State.reportDesc (s : State) (b : BayId) (k : SlotIx) (d : FetchDesc) (st : Status) : State :=
  let s := if st = .badDescriptor then s.countRing b.die 0x58 else s
  let quiet := st = .done || st = .doneFlagged || st = .cancelled
  let s := if quiet && !d.complete then s else s.modBay b fun y => y.countDone d.counter st
  if statusError st && !(quiet && !d.complete) then
    s.report { cls := .work, code := fetchCode st, status := st, tag := d.tag,
               subject := idDie b.die ((if (s.stream b k).conf.mode = 1 then 0x1C else 0x18) + b.bay.val),
               reporter := idDie b.die ((if (s.stream b k).conf.mode = 1 then 0x1C else 0x18) + b.bay.val),
               detail := (streamNumber b k).zeroExtend 64 }
  else s

/-- Every target of a multicast has reported landing (R138). -/
def Stream.mcDone (t : Stream) (d : FetchDesc) : Bool :=
  t.mcasts.all fun m => !(m.ident = d.ident) || m.landed = m.targets

/-- Every descriptor at the head of a stream that is ready to complete completes, in order (R132). -/
def State.advanceStream : Nat → State → BayId → SlotIx → State
  | 0, s, _, _ => s
  | n + 1, s, b, k =>
    match (s.stream b k).descs with
    | [] => s
    | d :: rest =>
      let pop (st : Status) : State :=
        State.advanceStream n ((s.modStream b k fun t => { t with
          descs := rest, mcasts := t.mcasts.filter fun m => m.ident ≠ d.ident }).reportDesc b k d st) b k
      if !d.wellFormed then pop .badDescriptor
      else if !s.gateOpen d then s
      else if d.transfers = 0 then pop .done
      else if d.started && decide (d.landed = d.transfers) && (s.stream b k).mcDone d then pop d.status
      else s

/-- A stream advanced as far as its descriptors allow. -/
def State.settleStream (s : State) (b : BayId) (k : SlotIx) : State := State.advanceStream 33 s b k

/-- A descriptor of a stream changed. -/
def Stream.modDesc (t : Stream) (ident : Nat) (f : FetchDesc → FetchDesc) : Stream :=
  { t with descs := t.descs.map fun d => if d.ident = ident then f d else d }

/-! ## The raise of an epoch (R140, R141) -/

/-- What stays of a stream's descriptors at a raise: a multicast past COMMIT (R140). -/
def Stream.keepsDesc (t : Stream) (d : FetchDesc) : Bool :=
  d.multicast && t.mcasts.any fun m => m.ident = d.ident && m.committed

/-- A transfer belongs to a multicast past COMMIT. -/
def Stream.keepsFlight (t : Stream) (f : Transfer) : Bool := t.mcasts.any fun m => m.ident = f.ident && m.committed

/-- The requests of a stream that wait at the sills are withdrawn, but for a multicast past COMMIT (R140). -/
def State.withdrawRequests (s : State) (b : BayId) (k : SlotIx) : State :=
  let t := s.stream b k
  { s with sills := s.sills.map fun m => { m with
      requests := m.requests.filter fun q =>
        !(q.stream = streamNumber b k) || t.mcasts.any fun x => x.ident = q.ident && x.committed } }

/-- An ABORT is sent to a target for a multicast of a source stream (R139); a target that has not met its RESERVE learns of
it by this entry. -/
def Stream.noteAbort (t : Stream) (source : BitVec 12) (ident : Nat) (counter : CtrIx) : Stream :=
  if t.mcTargets.any fun m => m.source = source && m.ident = ident then
    { t with mcTargets := t.mcTargets.map fun m =>
        if m.source = source && m.ident = ident then { m with aborting := true } else m }
  else
    let told : McTarget :=
      { source := source, ident := ident, count := 0, granted := false, committed := false, aborting := true,
        epoch := t.epoch, counter := counter, firstElem := t.nextElem, firstScale := t.nextScale, left := 0, dry := 0 }
    { t with mcTargets := t.mcTargets ++ [told] }

/-- ABORT to every target of the multicast in its reserve phase (R139, R140). -/
def State.sendAborts (s : State) (b : BayId) (k : SlotIx) : State :=
  let t := s.stream b k
  t.descs.foldl (fun s d =>
    if d.multicast && t.mcasts.any (fun m => m.ident = d.ident && !m.committed) then
      (diesOf d.mcMask).foldl (fun s die =>
        let (tb, tk) := s.mcTarget d die
        s.modStream tb tk fun u => u.noteAbort (s.logicalStream b k) d.ident d.mcCounter) s
    else s) s

/-- The bytes a store transfer writes: from its buffer, or from static loft at DEST (R128). -/
def State.storeBytes (s : State) (b : BayId) (k : SlotIx) (d : FetchDesc) (f : Transfer) : List Byte :=
  let base := if d.isStatic then d.dest.toNat + f.part * 65536 else
    match (s.stream b k).held false f.bufSeq with
    | some u => u.base
    | none => 0
  s.readLoft b.die base (d.partBytes f.part)

/-- Bytes written over ranges of module memory one after another (R128), but for protected areas (R19); what falls into GRAD ranges
is checked (R178). -/
def State.writeRanges (s : State) : List (Nat × Nat) → List Byte → State
  | [], _ => s
  | (a, n) :: rest, bytes =>
    ((s.writeMem a (s.guardBytes a (bytes.take n))).gradCheck a n).writeRanges rest (bytes.drop n)

/-- A store transfer's sectors written to DRAM, with the die's counter; the answer says that some sector was dropped, its
page being retired (R128, R144, R158). -/
def State.writePart (s : State) (b : BayId) (d : FetchDesc) (part : Nat) (bytes : List Byte) : State × Bool :=
  let ranges := d.partRanges part
  let dropped := ranges.any fun r => s.touchesRetired r.1 r.2
  let s := s.writeRanges ranges bytes
  (s.modDie b.die fun r => r.moveBytes 1 bytes.length, dropped)

/-- Ranges cut at the boundaries of their sectors, in order (R91, R136). -/
def sectorCuts (ranges : List (Nat × Nat)) : List (Nat × Nat) :=
  ranges.flatMap fun (a, n) =>
    if n = 0 then []
    else
      (List.range ((a + n - 1) / 64 - a / 64 + 1)).map fun i =>
        let lo := max a (64 * (a / 64 + i))
        (lo, min (a + n) (64 * (a / 64 + i + 1)) - lo)

/-- The sectors of a store transfer that its sills have started are written (R140). -/
def State.finishStore (s : State) (b : BayId) (k : SlotIx) (d : FetchDesc) (f : Transfer) : State :=
  let started (a : Nat) : Bool := match s.decodeAddr a with
    | some (m, _) => !f.sills.contains m
    | none => false
  let (s, n, _) := (sectorCuts (d.partRanges f.part)).foldl
    (fun (p : State × Nat × List Byte) x =>
      let (s, n, bytes) := p
      if started x.1 then (s.writeRanges [x] bytes, n + x.2, bytes.drop x.2) else (s, n, bytes.drop x.2))
    (s, 0, s.storeBytes b k d f)
  s.modDie b.die fun r => r.moveBytes 1 n

/-- Store transfers that the sills have started finish in DRAM at a raise (R140). -/
def State.finishStores (s : State) (b : BayId) (k : SlotIx) : State :=
  let t := s.stream b k
  if t.conf.mode = 1 then
    let s := t.flights.foldl (fun s f =>
      match t.descs.find? fun d => d.ident = f.ident with
      | some d => if f.begun then s.finishStore b k d f else s
      | none => s) s
    s.modStream b k fun u => { u with flights := [] }
  else s

/-- Descriptors that STORE commands have appended behind the ring's descriptor `n` join the sequence. -/
def Stream.joinAppended (t : Stream) : Stream :=
  let due := t.appended.filter fun x => decide (x.1 ≤ t.fetched)
  { t with descs := t.descs ++ due.map Prod.snd, appended := t.appended.filter fun x => !decide (x.1 ≤ t.fetched) }

/-- One posted descriptor read from the ring, checked (R126, R129). -/
def State.readStreamDesc (s : State) (b : BayId) (k : SlotIx) : State :=
  let t := s.stream b k
  let at' := t.conf.ringBase.toNat + 64 * (t.fetched % 2 ^ t.conf.ringLog2.toNat)
  let d := parseDesc t.nextIdent ((s.bay b).dmem.read at' 64)
  let d := { d with wellFormed := s.descGood b k d }
  s.modStream b k fun t =>
    ({ t with fetched := t.fetched + 1, nextIdent := t.nextIdent + 1, descs := t.descs ++ [d] }).joinAppended

/-- A raise of the fetch epoch of a stream, with its effects on descriptors, those posted and not yet read among them, on requests,
transfers and buffers (R140, R141). -/
def State.raiseEpoch (s : State) (b : BayId) (k : SlotIx) : State :=
  let s := Nat.repeat (fun s => s.readStreamDesc b k) ((s.stream b k).posted - (s.stream b k).fetched) s
  let t := s.stream b k
  let now := s.now
  let gone := t.descs.filter fun d => !t.keepsDesc d
  let s := ((s.finishStores b k).sendAborts b k).withdrawRequests b k
  let s := s.modStream b k fun v =>
    let u := v.dropBuffers fun x => !(x.filled && x.inUse)
    { u with
      epoch := u.epoch + 1
      descs := u.descs.filter fun d => t.keepsDesc d
      flights := (u.flights.filter fun f => t.keepsFlight f || f.begun).map fun f =>
        if t.keepsFlight f then f else { f with sills := [] }
      mcasts := u.mcasts.filter fun m => m.committed
      nextDrain := u.nextElem
      waitsFor := none
      anchor := now
      bytes := (u.buffers.map Buffer.bytes).sum }
  let s := (s.modDie b.die RingDie.noteLow).tryGrants b.die
  gone.foldl (fun s d => s.reportDesc b k d .cancelled) s

/-- Every transfer of an older epoch has arrived and been dropped, those of multicasts that a RECEIVE stream has granted among them
(R117, R141, R142). -/
def Stream.drained (t : Stream) : Bool :=
  (t.flights.all fun f => f.epoch = t.epoch) && t.mcTargets.all fun m => !m.granted || m.epoch = t.epoch

end Sys2Proof.Machine
end

