-- ==== Sys2Proof/Machine/Routes.lean ====
section
/-! DEFINITION. What the link engines look up: routes (R196), groups and collective entries (R216, R217), CONTEXT (R221), the tenons
that a command has under way, and when a LINK command is done (R219, R224, R226, R236, R238). -/

namespace Sys2Proof.Machine

/-! ## Routes (R196) -/

/-- The link that a module's tenons take; none where its route entry is not VALID (R196). -/
def State.route (s : State) (dst : BitVec 15) : Option LinkId :=
  let e := Sparse.get (0 : Byte) s.coll.routes dst.toNat
  if h : e.getLsbD 5 ∧ (e.extractLsb' 0 5).toNat < 24 then some ⟨(e.extractLsb' 0 5).toNat, h.2⟩ else none

/-- A link that carries tenons, or will when its retraining ends (R202, R214). -/
def Link.usable (l : Link) : Bool := l.state = .up || l.state = .retraining

/-- FAR_KIND of a module (R205). -/
def Link.farModule (l : Link) : Bool := l.farKind = 1

/-- The far module says that it is FAULTED, or in BOOT after having been UP (R214). -/
def Link.peerGone (l : Link) : Bool := l.farModule && l.peerKnown && (l.peerState = 6 || (l.peerState = 0 && l.farWasUp))

/-- Why a module cannot be reached: LINK_DOWN or PEER_LOST (R214). -/
def State.unreachable (s : State) (dst : BitVec 15) : Option Status :=
  match s.route dst with
  | none => some .linkDown
  | some k =>
    if !(s.link k).usable then some .linkDown
    else if (s.link k).peerGone then some .peerLost
    else none

/-! ## Groups and entries (R216, R217, R234) -/

/-- The tables that the edge dies read: the active half (R253). -/
def State.linkTables (s : State) : LinkTables := s.coll.tables[s.coll.activeTables]

/-- A group's members in ascending ID (R216). -/
def State.members (s : State) (g : Nat) : List Nat := s.linkTables.groups.getD g []

/-- This module's index in a member list; its length where it is no member (R216). -/
def State.myIndex (s : State) (g : List Nat) : Nat := g.idxOf s.moduleId.toNat

/-- A collective entry with its group's members (R217). -/
def State.collEntry (s : State) (i : Nat) : Option (CollEntry × List Nat) :=
  match s.linkTables.colls[i]? with
  | none => none
  | some e => if s.members e.group = [] then none else some (e, s.members e.group)

/-- The module that owns a chunk (R218). -/
def ownerId (e : CollEntry) (g : List Nat) (c : Nat) : BitVec 15 := BitVec.ofNat 15 (g.getD (ownerOf e.chunks g.length c) 0)

/-- The edge die whose sum engine or vote counter takes a chunk (R223, R226). -/
def chunkEdge (c : Nat) : EdgeId := ⟨c % 6, Nat.mod_lt _ (by omega)⟩

/-- Experts that a module hosts, ascending (R234, R236). -/
def State.expertsAt (s : State) (home : BitVec 15) : List (Nat × ExpertEntry) :=
  (s.linkTables.experts.zipIdx.filter fun x => x.1.home = home).map fun x => (x.2, x.1)

/-- The homes of a dispatch: members of its group that host an expert, ascending (R235, R236). -/
def State.homesOf (s : State) (g : List Nat) : List (BitVec 15) :=
  (g.map fun n => BitVec.ofNat 15 n).filter fun h => !(s.expertsAt h).isEmpty

/-! ## CONTEXT (R221) -/

/-- STEP16 and ATTEMPT of the present step record: the one in progress, or the last (R221). -/
def State.stepTag (s : State) : Option (BitVec 20) :=
  match s.job.current with
  | some r => some (r.attempt ++ r.s.extractLsb' 0 16)
  | none =>
    match s.job.previous with
    | some (x, a) => some (a ++ x.extractLsb' 0 16)
    | none => none

/-- CONTEXT of a tenon of the present attempt (R221). -/
def State.context (s : State) (bits : BitVec 3) (coll chunk : Nat) : DWord :=
  BitVec.ofNat 64 ((s.stepTag.getD 0).toNat + 2 ^ 20 * bits.toNat + 2 ^ 23 * (coll % 4096) + 2 ^ 35 * (chunk % 2 ^ 28))

/-- COLL or DISPATCH_NO of a CONTEXT. -/
def ctxColl (c : DWord) : Nat := (c.extractLsb' 23 12).toNat
/-- CHUNK of a CONTEXT. -/
def ctxChunk (c : DWord) : Nat := (c.extractLsb' 35 28).toNat
/-- BITS of a CONTEXT. -/
def ctxBits (c : DWord) : BitVec 3 := c.extractLsb' 20 3

/-- A tenon of another step or attempt than the present step record's (R221). -/
def State.stale (s : State) (c : DWord) : Bool := s.stepTag ≠ some (c.extractLsb' 0 20)

/-! ## Tenons under way -/

/-- Tenons of a link that are queued or not yet acknowledged. -/
def Link.underWay (l : Link) : List Tenon :=
  l.queues.toList.flatMap (fun q => q.map QueuedTenon.tenon) ++ l.retry.map Unacked.tenon

/-- A tenon of this module's own is under way on some link. -/
def State.tenonOut (s : State) (p : Tenon → Bool) : Bool :=
  s.links.toList.any fun l => l.underWay.any fun t => t.srcId = s.moduleId && p t

/-- The tenon carries a chunk of a run of a collective in the present attempt. -/
def State.ofRun (s : State) (op : Byte) (coll first count : Nat) (t : Tenon) : Bool :=
  t.opcode = op && !s.stale t.context && ctxColl t.context = coll && decide (first ≤ ctxChunk t.context) &&
    decide (ctxChunk t.context < first + count)

/-- The tenon belongs to a dispatch of the present attempt. -/
def State.ofDispatch (s : State) (op : Byte) (n : Nat) (t : Tenon) : Bool :=
  t.opcode = op && !s.stale t.context && ctxColl t.context = n

/-- The tenon carries bytes of a SEND. -/
def ofSend (f : SendFields) (t : Tenon) : Bool :=
  t.opcode = 0x01 && t.dstId = f.dstId && decide (f.dst.toNat ≤ t.context.toNat) &&
    decide (t.context.toNat < f.dst.toNat + f.bytes.toNat)

/-! ## Dispatch at its source (R235 to R238) -/

/-- Tokens of a dispatch that name an expert, ascending. -/
def DispatchSource.tokensFor (d : DispatchSource) (expert : Nat) : List Nat :=
  (d.slots.zipIdx.filter fun x => x.1.any fun y => y.2.1 = expert).map Prod.snd

/-- Tokens of a dispatch that an expert serves: the first of those that name it, as many as its grant (R236). -/
def DispatchSource.servedBy (d : DispatchSource) (expert : Nat) : List Nat :=
  match d.grants.find? fun x => x.1 = expert with
  | none => []
  | some x => (d.tokensFor expert).take x.2

/-- The dispatch that a number names on this module. -/
def State.sourceOf (s : State) (n : Nat) : Option DispatchSource :=
  s.coll.sources.find? fun d => d.fields.dispatchNo.toNat = n

/-- Every expert of a group's homes, ascending by index. -/
def State.groupExperts (s : State) (g : List Nat) : List (Nat × ExpertEntry) :=
  (s.linkTables.experts.zipIdx.filter fun x => g.contains x.1.home.toNat).map fun x => (x.2, x.1)

/-- Every home has granted (R236). -/
def State.allGranted (s : State) (d : DispatchSource) : Bool :=
  (s.groupExperts (s.members d.fields.group.toNat)).all fun x => d.grants.any fun y => y.1 = x.1

/-! ## A LINK command is done (R219) -/

/-- The chunks of a run. -/
def runOf (first count : Nat) : List Nat := (List.range count).map fun i => first + i

/-- A gather of a lower number is in execution at some bay: gathers run in ascending block order (R20). -/
def State.lowerGather (s : State) (n : Nat) : Bool :=
  allBays.any fun b =>
    match ((s.bay b).queues[5]).running with
    | some r =>
      match r.cmd with
      | .gather f => decide (f.gatherNo.toNat < n)
      | _ => false
    | none => false

/-- A LINK command that ran without error has done all it has to (R219, R224, R226, R236, R238). -/
def State.linkDone (s : State) (cmd : EngineCmd) : Bool :=
  match cmd with
  | .reduce f => !s.tenonOut (s.ofRun 0x10 f.coll.toNat f.first.toNat f.count.toNat)
  | .gather f =>
    ((runOf f.first.toNat f.count.toNat).all fun c => s.coll.copies.contains (f.coll.toNat, c)) && !s.lowerGather f.gatherNo.toNat
  | .vote f => (runOf f.first.toNat f.count.toNat).all fun c => s.coll.results.contains (f.coll.toNat, c)
  | .dispatch f =>
    (match s.sourceOf f.dispatchNo.toNat with
      | some d => s.allGranted d
      | none => false) && !s.tenonOut (s.ofDispatch 0x32 f.dispatchNo.toNat)
  | .combine f =>
    match s.sourceOf f.dispatchNo.toNat with
    | some d => d.summed
    | none => false
  | .send f => !s.tenonOut (ofSend f)
  | _ => true

/-- Modules that a LINK command in execution still needs (R214). -/
def State.stillNeeds (s : State) (cmd : EngineCmd) : List (BitVec 15) :=
  let owners (coll first count : Nat) (done : Nat → Bool) : List (BitVec 15) :=
    match s.collEntry coll with
    | none => []
    | some (e, g) => ((runOf first count).filter fun c => !done c).map (ownerId e g)
  let others (l : List (BitVec 15)) : List (BitVec 15) := l.filter fun m => m ≠ s.moduleId
  match cmd with
  | .reduce f =>
    others (owners f.coll.toNat f.first.toNat f.count.toNat fun c => !s.tenonOut (s.ofRun 0x10 f.coll.toNat c 1))
  | .gather f =>
    others (owners f.coll.toNat f.first.toNat f.count.toNat fun c => s.coll.copies.contains (f.coll.toNat, c))
  | .vote f =>
    others (owners f.coll.toNat f.first.toNat f.count.toNat fun c => s.coll.results.contains (f.coll.toNat, c))
  | .dispatch f => if s.linkDone cmd then [] else others (s.homesOf (s.members f.group.toNat))
  | .combine f =>
    if s.linkDone cmd then []
    else
      match s.sourceOf f.dispatchNo.toNat with
      | some d => others ((s.members d.fields.group.toNat).map fun n => BitVec.ofNat 15 n)
      | none => []
  | .send f => if s.linkDone cmd then [] else [f.dstId]
  | _ => []

end Sys2Proof.Machine
end

