-- ==== Sys2Proof/Machine/Bays.lean ====
section
/-! DEFINITION. The bays: command queues and their engines (R76, R77, R437), functions that are disabled and re-enabled (R89
to R94), control-core crashes (R296), and the commands QUEUE_SLOT_FREE, COMMAND_COMPLETE and STALL_WATCHDOG. -/

namespace Sys2Proof.Machine

/-! ## Queues -/

/-- A queue of a bay. -/
def Bay.queue (y : Bay) (q : QueueIx) : EngineQueue := y.queues[queueNo q]

/-- The queues of a bay in order. -/
def allQueues : List QueueIx := [.fetch, .store, .vector, .ring, .kiln, .link]

/-- The state of a function. -/
def Bay.func (y : Bay) (k : FuncKind) : FuncState := y.funcs[funcNo k]

/-- A function's state set. -/
def Bay.setFunc (y : Bay) (k : FuncKind) (v : FuncState) : Bay := { y with funcs := y.funcs.set (funcNo k) v }

/-- The function of a queue beside BAY (R89). -/
def funcOfQueue : QueueIx → FuncKind
  | .fetch => .fetch
  | .store => .store
  | .vector => .vector
  | _ => .bay

/-- The queues of a function (R89). -/
def queuesOfFunc : FuncKind → List QueueIx
  | .bay => allQueues
  | .vector => [.vector]
  | .fetch => [.fetch]
  | .store => [.store]

/-- The state that governs commands for a queue: BAY's where it is not ENABLED, else the queue's own function's (R89, R93). -/
def Bay.queueState (y : Bay) (q : QueueIx) : FuncState :=
  if y.func .bay ≠ .enabled then y.func .bay else y.func (funcOfQueue q)

/-- Identity of the unit whose engine a queue feeds (R343). -/
def idEngine (b : BayId) (q : QueueIx) : Word :=
  let base := match q with
    | .fetch => 0x18
    | .store => 0x1C
    | .vector => 0x14
    | .ring => 0x24
    | .kiln => 0x20
    | .link => 0x10
  idDie b.die (base + b.bay.val)

/-- The record CODE of a command's WORK completion: the counter that counts it, else unlisted (R416; log entry 9). -/
def commandCode (q : QueueIx) (st : Status) : BitVec 16 :=
  if st = .disabled ∨ st = .cancelled then 0x5039
  else if st = .badDescriptor ∧ (q = .fetch ∨ q = .store) then 0x5058
  else Config.unlistedCode 2

/-- TAG of a command that has one (R126, R128). -/
def cmdTag : EngineCmd → Word
  | .store f => f.tag
  | _ => 0

/-- A command finishes: its counter, the bay's waiting threads, REPLAY for DISABLED and CANCELLED (R94), the counters and the
scribe record with its TAG. A LINK command's PEER_LOST and LINK_DOWN are recorded where the peer is known. -/
def State.finishCmd (s : State) (b : BayId) (q : QueueIx) (ctr : CtrIx) (st : Status) (tag : Word := 0) : State :=
  let s := s.modBay b fun y => y.countDone ctr st
  let s := if st = .disabled ∨ st = .cancelled then (s.countRing b.die 0x39).setReplay else s
  let s := if st = .badDescriptor ∧ (q = .fetch ∨ q = .store) then s.countRing b.die 0x58 else s
  if statusError st && !(q = .link && (st = .peerLost || st = .linkDown)) then
    s.report { cls := .work, code := commandCode q st, subject := idEngine b q, reporter := idEngine b q, status := st, tag := tag }
  else s

/-- A queue of a bay changed. -/
def State.modQueue (s : State) (b : BayId) (q : QueueIx) (f : EngineQueue → EngineQueue) : State :=
  s.modBay b fun y => y.modQueue (queueNo q) f

/-- Malformed records at the head of an idle engine's queue complete with BAD_DESCRIPTOR (R437). -/
def State.flushBad : Nat → State → BayId → QueueIx → State
  | 0, s, _, _ => s
  | n + 1, s, b, q =>
    let x := (s.bay b).queue q
    match x.running, x.waiting with
    | none, c :: rest =>
      if c.cmd = .malformed ∨ c.unusedClear = false then
        State.flushBad n ((s.modQueue b q fun x => { x with waiting := rest }).finishCmd b q c.ctr .badDescriptor (cmdTag c.cmd)) b q
      else s
    | _, _ => s

/-! ## Functions (R89 to R93) -/

/-- A stalled push to a queue whose function is no longer enabled completes at once with DISABLED (R90). -/
def State.resolveStall (s : State) (b : BayId) (t : ThreadIx) : State :=
  match ((s.bay b).threads[t]).mode with
  | .stall q ctr _ cmd =>
    if (s.bay b).queueState q = .enabled then s
    else (s.modBay b fun y => y.modThread t fun x => { x with mode := .ready }).finishCmd b q ctr .disabled (cmdTag cmd)
  | _ => s

/-- Every stalled push of a bay looked at. -/
def State.resolveStalls (s : State) (b : BayId) : State :=
  (List.finRange 8).foldl (fun s t => s.resolveStall b t) s

/-- A STORE stream still has descriptors that STORE commands appended (R128). -/
def Stream.hasCommands (t : Stream) : Bool := !t.appended.isEmpty || t.descs.any FetchDesc.command

/-- The queues of a function are empty and its last command has completed; a STORE command that a stream took over has not completed
until the stream reports it (R90, R128). -/
def Bay.funcIdle (y : Bay) (k : FuncKind) : Bool :=
  ((queuesOfFunc k).all fun q => (y.queue q).waiting.isEmpty && (y.queue q).running.isNone) &&
    !((k = .store || k = .bay) && y.streams.toList.any Stream.hasCommands)

/-- Every thread of a bay goes to HALTED (R296). -/
def Bay.haltAll (y : Bay) : Bay := { y with threads := y.threads.map fun t => { t with mode := .halted } }

/-- Threads stalled in a push go to HALTED; their commands enter no queue (R297). -/
def Bay.haltStalled (y : Bay) : Bay :=
  { y with threads := y.threads.map fun t =>
      match t.mode with
      | .stall _ _ _ _ => { t with mode := .halted }
      | _ => t }

/-- A store in execution stops at a sector boundary: of its sectors, in order, a free number hold new data (R91; log entry 8). -/
def State.writeSome (s : State) (b : BayId) (ranges : List (Nat × Nat)) (bytes : List Byte) : State :=
  let cuts := sectorCuts ranges
  let (w, s) := s.takeFree
  let some' := cuts.take (w.toNat % (cuts.length + 1))
  (s.writeRanges some' bytes).modDie b.die fun r => r.moveBytes 1 (some'.map Prod.snd).sum

/-- The static store in execution stops (R91, R128); one whose gate is closed has written nothing (R133). -/
def State.cutStatic (s : State) (b : BayId) (f : StoreFields) : State :=
  let ranges := (List.range f.rows.toNat).map fun i => (f.dst.toNat + i * f.rowStride.toNat, f.cols.toNat)
  if f.gated && !(s.coll.gathers.any fun g => g.1 = f.gateStep && g.2.1 = f.gateBlock) then s
  else s.writeSome b ranges (s.readLoft b.die f.src.toNat (f.rows.toNat * f.cols.toNat))

/-- The vector command in execution stops at a boundary of 2,048 elements: beyond a free number of groups its destination holds what
stood there before, and the ledger entry keeps what the completed groups set (R40, R91; log entries 8 and 137). -/
def State.cutVector (s : State) (b : BayId) : State :=
  let y := s.bay b
  if y.vecOld.isEmpty then s
  else
    let (w, s) := s.takeFree
    let n := w.toNat % (y.vecOld.length + 1)
    let s := (y.vecOld.drop n).foldl (fun s g => g.foldl (fun s x => s.writeLoft b.die x.1 x.2) s) s
    match y.vecLedger with
    | some (e, words) => s.modDie b.die fun r => r.setLedger e (words.getD n 0)
    | none => s

/-- The command in execution stops (R91). -/
def State.cutCmd (s : State) (b : BayId) (r : RunningCmd) : State :=
  if statusError r.status then s
  else
    match r.cmd with
    | .store f => s.cutStatic b f
    | .elementwise _ => s.cutVector b
    | .row _ => s.cutVector b
    | .mask _ => s.cutVector b
    | _ => s

/-- The commands of a function's queues end with CANCELLED (R91). A RING command whose segment is in progress runs to the
segment's end and completes with CANCELLED then; a LINK command that has been sent to an edge die runs to completion (R240). -/
def State.cancelQueue (s : State) (b : BayId) (q : QueueIx) : State :=
  let x := (s.bay b).queue q
  let s := s.modQueue b q fun x => { x with waiting := [] }
  let s := match x.running with
    | none => s
    | some r =>
      if q = .ring then s.modQueue b q fun x => { x with running := some { r with status := .cancelled } }
      else if q = .link then s
      else ((s.cutCmd b r).modQueue b q fun x => { x with running := none }).finishCmd b q r.ctr .cancelled (cmdTag r.cmd)
  x.waiting.foldl (fun s c => s.finishCmd b q c.ctr .cancelled (cmdTag c.cmd)) s

/-- A STORE command that its stream has taken over ends with CANCELLED, cut at a sector where it has started (R91, R94). -/
def State.cancelStore (s : State) (b : BayId) (k : SlotIx) (d : FetchDesc) : State :=
  let t := s.stream b k
  let mine := t.flights.filter fun f => f.ident = d.ident
  let begun := mine.filter Transfer.begun
  let s := if begun.isEmpty then s
    else s.writeSome b (begun.flatMap fun f => d.partRanges f.part) (begun.flatMap fun f => s.storeBytes b k d f)
  let s := s.modStream b k fun t => { (t.dropBuffers fun x => mine.any fun f => !x.scale && f.bufSeq = x.seqNo) with
    descs := t.descs.filter fun x => x.ident ≠ d.ident
    appended := t.appended.filter fun x => x.2.ident ≠ d.ident
    flights := t.flights.filter fun f => f.ident ≠ d.ident }
  let s : State := { s with sills := s.sills.map fun m => { m with
    requests := m.requests.filter fun q => !(q.stream = streamNumber b k && q.ident = d.ident) } }
  ((s.reportDesc b k d .cancelled).countRing b.die 0x39).setReplay

/-- The STORE commands that the STORE streams of a bay have taken over end with CANCELLED (R91). -/
def State.cancelStores (s : State) (b : BayId) : State :=
  (List.finRange 64).foldl (fun s k =>
    let t := s.stream b k
    if t.hasCommands then
      (((t.descs.filter FetchDesc.command) ++ t.appended.map Prod.snd).foldl (fun s d => s.cancelStore b k d) s).settleStream b k
    else s) s

/-- The epochs of all open streams of a bay raised (R91, R143). A CLOSE cut short leaves its slot open. STORE commands cancelled so
set REPLAY (R94). -/
def State.raiseAll (s : State) (b : BayId) : State :=
  (List.finRange 64).foldl (fun s k =>
    let t := s.stream b k
    if t.isOpen then
      let n := (t.descs.countP FetchDesc.command) + t.appended.length
      let s := (s.raiseEpoch b k).modStream b k fun t => { t with closing := false }
      if n = 0 then s else (s.countRing b.die 0x39 n).setReplay
    else s) s

/-- FORCE takes effect on a function (R91). -/
def State.forceFunc (s : State) (b : BayId) (k : FuncKind) : State :=
  let s := s.modBay b fun y => y.setFunc k .aborted
  let s := if k = .bay then s.modBay b Bay.haltAll else s
  let s := (queuesOfFunc k).foldl (fun s q => s.cancelQueue b q) s
  let s := if k = .store ∨ k = .bay then s.cancelStores b else s
  let s := if k = .fetch ∨ k = .bay then s.raiseAll b else s
  s.resolveStalls b

/-- A re-enable takes effect: the function's reset state, its queues empty (R93). A RING or LINK command that a FORCE let run on
is in no queue, and completes later (R91, R240). -/
def State.enableFunc (s : State) (b : BayId) (k : FuncKind) : State :=
  s.modBay b fun y =>
    let y := y.setFunc k .enabled
    let y := (queuesOfFunc k).foldl (fun y q => y.modQueue (queueNo q) fun x => { x with waiting := [] }) y
    if k = .bay then y.haltAll else y

/-- A disable of the function, or of its bay, is in progress. -/
def Bay.funcBusy (y : Bay) (k : FuncKind) : Bool := y.funcActive.any fun a => a.1 = k || a.1 = .bay

/-- The function counts as disabled: itself, or through its bay (R93). -/
def Bay.funcOff (y : Bay) (k : FuncKind) : Bool :=
  y.func k = .disabled || y.func k = .aborted || y.func .bay = .disabled || y.func .bay = .aborted

/-- The active requests of a function are answered with DONE. -/
def State.answerActive (s : State) (b : BayId) (k : FuncKind) : State :=
  let done := (s.bay b).funcActive.filter fun a => a.1 = k
  let s := s.modBay b fun y => { y with funcActive := y.funcActive.filter fun a => a.1 ≠ k }
  done.foldl (fun s a => s.respond a.2.2 .done) s

/-- One FUNCTION request starts if it may; none where it must wait (R93). `fence` says that a step fence has been reached. While a
disable of BAY covers VECTOR, FETCH and STORE, their own fields of RING_FUNC_STATE keep their own states (DESIGN CHOICE, log entry
138). A push that is in STALL when a QUIESCE arrives enters no queue: its command completes with DISABLED, but under BAY its thread
halts and the command is dropped as R297 has it (DESIGN CHOICE, log entry 132). -/
def State.startFunc (s : State) (b : BayId) (k : FuncKind) (a : FuncAction) (tag : Word) (fence : Bool) : Option State :=
  let y := s.bay b
  match a with
  | .quiesce =>
    if y.funcBusy k then none
    else if y.funcOff k then some (s.respond tag .done)
    else
      let s := s.modBay b fun y => { y.setFunc k .quiescing with funcActive := y.funcActive ++ [(k, a, tag)] }
      let s := if k = .bay then s.modBay b Bay.haltStalled else s
      some (s.resolveStalls b)
  | .force =>
    let own := y.funcActive.any fun x => x.1 = k
    if y.funcBusy k && !own then none
    else if y.funcOff k then some (s.respond tag .done)
    else some (((s.forceFunc b k).answerActive b k).respond tag .done)
  | .reenable =>
    if y.func k = .enabled && !y.funcBusy k then some (s.respond tag .done)
    else if (y.func k = .disabled || y.func k = .aborted) && (fence || s.isIdleKind) then
      some ((s.enableFunc b k).respond tag .done)
    else none

/-- The waiting FUNCTION requests of a bay started in the order they arrived; a request behind one that waits for the same
function waits too, but a FORCE takes over a QUIESCE in progress at once (R93). -/
def State.startFuncs (fence : Bool) : List (FuncKind × FuncAction × Word) → List FuncKind → State → BayId → State
  | [], _, s, _ => s
  | (k, a, tag) :: rest, blocked, s, b =>
    let again := s.modBay b fun y => { y with funcWaiting := y.funcWaiting ++ [(k, a, tag)] }
    let takesOver := a = .force && (s.bay b).funcActive.any fun x => x.1 = k && x.2.1 = .quiesce
    if (blocked.contains k || blocked.contains .bay) && !takesOver then State.startFuncs fence rest blocked again b
    else
      match s.startFunc b k a tag fence with
      | some s' => State.startFuncs fence rest blocked s' b
      | none => State.startFuncs fence rest (k :: blocked) again b

/-- The waiting FUNCTION requests of a bay looked at. -/
def State.nextFuncs (s : State) (b : BayId) (fence : Bool) : State :=
  let waiting := (s.bay b).funcWaiting
  State.startFuncs fence waiting [] (s.modBay b fun y => { y with funcWaiting := [] }) b

/-- Functions whose quiesce has drained become DISABLED; the next requests start (R90, R93). -/
def State.settleFuncs (s : State) (b : BayId) : State :=
  let s := [FuncKind.bay, .vector, .fetch, .store].foldl
    (fun s k =>
      if (s.bay b).func k = .quiescing && (s.bay b).funcIdle k then
        (s.modBay b fun y => y.setFunc k .disabled).answerActive b k
      else s) s
  s.nextFuncs b false

/-- A stream advanced as far as its descriptors allow; STORE commands that so complete may end a drain (R90, R132). -/
def State.settleStores (s : State) (b : BayId) (k : SlotIx) : State := (s.settleStream b k).settleFuncs b

/-! ## An engine takes a command (R76, R437) -/

/-- A record that a private-form thread pushes to a queue (R76, R90): it completes at once with DISABLED where the function is not
enabled, enters the queue where a place is free, and otherwise puts the queue's producer thread into STALL. A thread that cannot
issue pushes nothing. -/
def State.enqueue (s : State) (b : BayId) (q : QueueIx) (c : QueuedCmd) : State :=
  let y := s.bay b
  let t := (y.queue q).producer
  if y.queueState q ≠ .enabled then s.finishCmd b q c.ctr .disabled (cmdTag c.cmd)
  else if (y.queue q).waiting.length < 64 then s.modQueue b q fun x => { x with waiting := x.waiting ++ [c] }
  else if (y.threads[t]).mode = .ready then
    s.modBay b fun y => y.modThread t fun x => { x with mode := .stall q c.ctr c.unusedClear c.cmd }
  else s

/-- The vector engine wakes for the command it takes (R22). -/
def State.wakeVector (s : State) (b : BayId) (q : QueueIx) : State :=
  if q = .vector then s.modBay b fun y => { y with vecPower := .awake } else s

/-- The vector engine keeps nothing of a command that has completed, and its clock stops when no command waits (R22, R91; log entry
129). -/
def State.restVector (s : State) (b : BayId) (q : QueueIx) : State :=
  let s := if q = .vector then s.modBay b fun y => { y with vecOld := [], vecLedger := none } else s
  if q = .vector && ((s.bay b).queue .vector).waiting.isEmpty then s.modBay b fun y => { y with vecPower := .stopped } else s

/-- The command reaches its engine. A function that is off answers DISABLED; an engine that is busy, or that has other
commands in front, leaves it waiting in the queue; otherwise it is taken and its fields are checked (R437), and it runs once the
engine is `ready` for it; `fits` are the checks on what it then finds. -/
def State.takeCmd (s : State) (h : CmdHead) (q : QueueIx) (cmd : EngineCmd) (ready good : Bool)
    (run : State → State × Status) (fits : Bool := true) : State :=
  let x := (s.bay h.bay).queue q
  let me : QueuedCmd := ⟨h.ctr, h.unusedClear, cmd⟩
  let atHead := x.waiting.head? = some me
  let f := (s.bay h.bay).queueState q
  if f = .disabled ∨ f = .aborted ∨ (f = .quiescing ∧ ¬ atHead) then s.finishCmd h.bay q h.ctr .disabled (cmdTag cmd)
  else if x.running.isNone ∧ (atHead ∨ x.waiting = []) ∧ (ready ∨ ¬ (h.unusedClear ∧ good)) then
    let s := if atHead then s.modQueue h.bay q fun x => { x with waiting := x.waiting.drop 1 } else s
    if h.unusedClear ∧ good ∧ fits then
      let (s, st) := run (s.wakeVector h.bay q)
      s.modQueue h.bay q fun x => { x with running := some ⟨h.ctr, cmd, st⟩ }
    else (s.finishCmd h.bay q h.ctr .badDescriptor (cmdTag cmd)).settleFuncs h.bay
  else if atHead then s
  else s.enqueue h.bay q me

/-! ## An engine finishes a command (R77) -/

/-- What a command frees when it completes: bay, slot and count of element buffers (R124, R436). -/
def State.releasesOf (s : State) (b : BayId) (cmd : EngineCmd) : List (BayId × SlotIx × Nat) :=
  let own (w : BitVec 16) : List (BayId × SlotIx × Nat) :=
    if w.toNat / 64 = 0 then [] else [(b, ⟨w.toNat % 64, Nat.mod_lt _ (by omega)⟩, w.toNat / 64)]
  match cmd with
  | .elementwise f => own f.release
  | .row f => own f.release
  | .pass f =>
    let (sb, sk) := (s.die b.die).physStream f.statStream
    let (tb, tk) := (s.die b.die).physStream f.trainStream
    [(⟨b.die, sb⟩, sk, f.release.toNat % 256), (⟨b.die, tb⟩, tk, f.release.toNat / 256)].filter fun x => decide (0 < x.2.2)
  | _ => []

/-- The releases of a command are within the filled buffers: counts for one stream add up (R124). -/
def State.canReleaseAll (s : State) (l : List (BayId × SlotIx × Nat)) : Bool :=
  l.all fun x =>
    (s.stream x.1 x.2.1).canRelease false ((l.filter fun y => y.1 = x.1 && y.2.1 = x.2.1).map fun y => y.2.2).sum

/-- A segment of the die ends: its number is the last to have ended (R81, R100). -/
def RingDie.endSegment (r : RingDie) : RingDie :=
  match r.segment with
  | some g => { r with segment := none, lastEnded := some g.number }
  | none => r

/-- The engine can finish its command: a CANCEL and a CLOSE wait for the drain (R141), a static STORE for its sectors, a LINK
command for its tenons, copies, results or rows (R219). -/
def State.canFinish (s : State) (b : BayId) (cmd : EngineCmd) (st : Status) : Bool :=
  if statusError st then true
  else
    let drainedAt (k : BitVec 6) : Bool := (s.stream b ⟨k.toNat, k.isLt⟩).drained
    match cmd with
    | .fetchCancel k => drainedAt k
    | .fetchClose k => drainedAt k && (s.stream b ⟨k.toNat, k.isLt⟩).mcasts.isEmpty
    | .store _ => false
    | cmd => s.linkDone cmd

/-- Step whose gathers run or ran last, its low 8 bits (R133). -/
def State.gatherStep (s : State) : Byte :=
  match s.job.current with
  | some r => r.s.extractLsb' 0 8
  | none => match s.job.previous with
    | some p => p.1.extractLsb' 0 8
    | none => 0

/-- A gather completes: gated descriptors that name it go on (R133). -/
def State.gatherDone (s : State) (n : BitVec 16) (st : Status) : State :=
  let s := { s with coll := { s.coll with gathers := s.coll.gathers ++ [(s.gatherStep, n, st)] } }
  allBays.foldl (fun s b => (List.finRange 64).foldl (fun s k =>
    if (s.stream b k).descs.isEmpty then s else s.settleStores b k) s) s

/-- The effects that belong to the completion of a command that ran. -/
def State.completionEffects (s : State) (b : BayId) (cmd : EngineCmd) (st : Status) : State :=
  match cmd with
  | .fetchCancel _ => if st = .done then s.countRing b.die 0x53 else s
  | .fetchClose k =>
    if st = .done then
      (s.modStream b ⟨k.toNat, k.isLt⟩ fun t => { ({} : Stream) with
        epoch := t.epoch, nextIdent := t.nextIdent, mcTargets := t.mcTargets.filter fun m => !m.granted }).tryGrants b.die
    else s
  | .pass _ => s.modDie b.die RingDie.endSegment
  | .move _ => s.modDie b.die RingDie.endSegment
  | .wake _ => s.modDie b.die RingDie.endSegment
  | .gather f => s.gatherDone f.gatherNo st
  | _ => s

/-- The engine finishes the command it runs: buffers released, counter, threads, functions (R77, R90, R124). -/
def State.finishRunning (s : State) (b : BayId) (q : QueueIx) (r : RunningCmd) : State :=
  let frees := if statusError r.status then [] else s.releasesOf b r.cmd
  let good := s.canReleaseAll frees
  let st := if good then r.status else .badDescriptor
  let s := s.modQueue b q fun x => { x with running := none }
  let s := s.completionEffects b r.cmd st
  let s := if good then frees.foldl (fun s x => s.release x.1 x.2.1 false x.2.2) s else s
  let s := s.finishCmd b q r.ctr st (cmdTag r.cmd)
  ((State.flushBad 64 s b q).restVector b q).settleFuncs b

/-- COMMAND_COMPLETE (R77). -/
def execCommandComplete (b : BayId) (q : QueueIx) (s : State) : Out :=
  .next (match ((s.bay b).queue q).running with
    | none => (State.flushBad 64 s b q).settleFuncs b
    | some r => if s.canFinish b r.cmd r.status then s.finishRunning b q r else s)

/-- QUEUE_SLOT_FREE (R76): the stalled push completes and its thread continues. -/
def execQueueSlotFree (b : BayId) (q : QueueIx) (s : State) : Out :=
  let stalled := (List.finRange 8).find? fun t =>
    match ((s.bay b).threads[t]).mode with
    | .stall q' _ _ _ => q' = q
    | _ => false
  .next (match stalled with
    | none => s
    | some t =>
      match ((s.bay b).threads[t]).mode with
      | .stall _ ctr unusedClear cmd =>
        if ((s.bay b).queue q).waiting.length < 64 then
          let s := s.modBay b fun y => y.modThread t fun x => { x with mode := .ready }
          State.flushBad 64 (s.modQueue b q fun x => { x with waiting := x.waiting ++ [⟨ctr, unusedClear, cmd⟩] }) b q
        else s
      | _ => s)

/-! ## Crash (R296) -/

/-- A control core crashes: every thread HALTED, the crash counted and recorded in class WORK; while RUNNING its die drives
the step-abandon line and REPLAY is set (R296, R297, R299). -/
def State.crash (s : State) (b : BayId) (thread : Nat) (pc : Nat) : State :=
  let s := s.modBay b fun y => { y.haltAll with crashed := true }
  let s := { s with fw := { s.fw with ccCrashes := min (s.fw.ccCrashes + 1) 0x1FF } }
  let s := s.report { cls := .work, code := 0x5801, subject := idDie b.die (0x10 + b.bay.val),
                      reporter := idDie b.die (0x10 + b.bay.val),
                      detail := BitVec.ofNat 64 (b.bay.val + 4 * thread + 65536 * pc) }
  if s.kp.state = .running then (s.modDie b.die fun r => { r with abandonLine := true }).setReplay else s

/-- A thread of a bay is ready to issue (R75). -/
def Bay.anyReady (y : Bay) : Bool := y.threads.toList.any fun t => t.mode = .ready

/-- STALL_WATCHDOG (R301, R296): the core crashes if a thread is ready. -/
def execStallWatchdog (b : BayId) (s : State) : Out :=
  .next (if (s.bay b).anyReady then
    s.crash b (s.bay b).lastIssued.val ((s.bay b).threads[(s.bay b).lastIssued]).pc else s)

end Sys2Proof.Machine
end

