-- ==== Sys2Proof/Machine/Power.lean ====
section
/-! DEFINITION. The draw plan and the power core: limits in force (R329 to R331), averages and bounds (R328, R332), throttling,
gating and husk load (R333 to R337), minute boundaries and breaches (R335, R336, R339), POWER_RESERVE (R428). Where the spec
states a bound and no control law, the law is the model's (log entry 21). -/

namespace Sys2Proof.Machine

/-! ## Plans (R329, R330) -/

/-- Nanoseconds of a plan minute. -/
def minuteNs : Nat := 60000000000

/-- The plan minute that board time falls in (R328). -/
def State.minuteNow (s : State) : Nat := s.now.toNat / minuteNs

/-- The ranges of R329 on a ceiling and a floor. -/
def limitsGood (ceiling floor : Nat) : Bool :=
  decide (0x19 ≤ ceiling) && decide (ceiling ≤ 0xB4) &&
    (floor == 0 || (decide (floor ≤ 0x78) && decide (floor + 0xA ≤ ceiling)))

/-- A plan from its bytes: the first minute and its entries; none where a field breaks R329. -/
def parsePlan (bytes : List Byte) : Option (Nat × List PlanEntry) :=
  let f (k n : Nat) : Nat := leNat ((bytes.drop k).take n)
  let start := f 0 8
  let count := f 8 2
  if start % minuteNs ≠ 0 ∨ count = 0 ∨ count > 1440 ∨ f 10 22 ≠ 0 ∨ bytes.length ≠ 32 + 8 * count then none
  else
    let at' (i : Nat) : Nat := 32 + 8 * i
    if (List.range count).all fun i => limitsGood (f (at' i) 2) (f (at' i + 2) 2) && decide (f (at' i + 6) 2 = 0) then
      some (start / minuteNs, (List.range count).map fun i =>
        ⟨BitVec.ofNat 16 (f (at' i) 2), BitVec.ofNat 16 (f (at' i + 2) 2), BitVec.ofNat 16 (f (at' i + 4) 2)⟩)
    else none

/-- The new plan replaces the old one from its first minute onward (R330). -/
def replacePlan (old : List (Nat × Nat × PlanEntry)) (first : Nat) (entries : List PlanEntry) :
    List (Nat × Nat × PlanEntry) :=
  (old.filter fun x => decide (x.1 < first)) ++ entries.zipIdx.map fun x => (first + x.2, x.2, x.1)

/-- The entry of a minute and its index in its plan (R331). -/
def State.planEntry (s : State) (minute : Nat) : Option (Nat × PlanEntry) :=
  (s.pwr.plan.find? fun x => x.1 = minute).map Prod.snd

/-- The limits of a minute that no entry covers: PWR_DEFAULT and PWR_DEFAULT_RAMP (R331). -/
def State.defaultEntry (s : State) : PlanEntry :=
  ⟨s.pwr.default.extractLsb' 0 16, s.pwr.default.extractLsb' 16 16, s.pwr.defaultRamp.extractLsb' 0 16⟩

/-- The minutes that PLAN_READ gives: from the first entry to the last, at most 1,440 of them, those before the minute in progress
left out where there are more (R329, R330; log entry 147). -/
def State.planSpan (s : State) : List Nat :=
  match s.pwr.plan with
  | [] => []
  | x :: l =>
    let stop := ((x :: l).getLast?.map Prod.fst).getD x.1 + 1
    let first := if stop - x.1 ≤ 1440 then x.1 else max x.1 s.pwr.minute
    (List.range (min 1440 (stop - first))).map fun i => first + i

/-- The bytes of the plan in effect: START, COUNT and one entry a minute; a minute that no entry covers reads as the default (R329,
R330; log entry 147). -/
def State.planBytes (s : State) : List Byte :=
  leBytes 8 (s.planSpan.headD 0 * minuteNs) ++ leBytes 2 s.planSpan.length ++ List.replicate 22 0 ++
    s.planSpan.flatMap fun m =>
      let e := ((s.planEntry m).map Prod.snd).getD s.defaultEntry
      leBytes 2 e.ceiling.toNat ++ leBytes 2 e.floor.toNat ++ leBytes 2 e.ramp.toNat ++ leBytes 2 0

/-! ## Limits in force (R331) -/

/-- Limits: ceiling and floor in 0.1 kW, ramp in kW/s (0: none), and whether the ramp binds a descent. -/
structure Limits where
  ceiling : Nat
  floor   : Nat
  ramp    : Nat
  descent : Bool
deriving DecidableEq, Repr

/-- The limits of a minute without POWER_RESERVE (R331). -/
def State.minuteLimits (s : State) (minute : Nat) : Limits :=
  let e := ((s.planEntry minute).map Prod.snd).getD s.defaultEntry
  ⟨e.ceiling.toNat, e.floor.toNat, e.ramp.toNat, true⟩

/-- The limits of a minute with POWER_RESERVE as it stands (R331). -/
def State.limitsAt (s : State) (minute : Nat) : Limits :=
  let l := s.minuteLimits minute
  if s.pwr.reserve then
    ⟨min l.ceiling (s.pwr.reserveCeil.extractLsb' 0 16).toNat, 0, l.ramp, false⟩
  else l

/-- The limits in force (R331). -/
def State.limits (s : State) : Limits := s.limitsAt s.pwr.minute

/-! ## Measured draw (R328) -/

/-- A reading with its full error: 1 % and 20 W (R328). -/
def withError (w : Nat) : Nat := w + (w + 99) / 100 + 20

/-- The mean of the newest `n` of a list. -/
def meanOf (l : List Nat) (n : Nat) : Nat :=
  let x := l.take n
  if x = [] then 0 else x.sum / x.length

/-- A10 and A100 from the limiters' samples (R291, R328). -/
def Pwr.average (p : Pwr) (n : Nat) : Nat := (p.samples.toList.map fun l => meanOf l n).sum

/-- The samples of one measurement recorded, 1,024 of each site (R291), with the minute's sum and the husk energy. -/
def Pwr.record (p : Pwr) (watts : List Nat) (husk : Nat) : Pwr :=
  let energy := p.huskRest + husk
  { p with
    samples := Vector.ofFn fun n : Fin 16 => (watts.getD n.val 0 :: p.samples[n]).take 1024
    huskSamples := (husk :: p.huskSamples).take 1000
    minuteSum := p.minuteSum + watts.sum
    minuteCount := p.minuteCount + 1
    huskRest := energy % 10000000
    huskEnergy := satAdd p.huskEnergy (energy / 10000000) }

/-- The power core runs. -/
def State.powerRuns (s : State) : Bool := !s.fw.restarting[1] && !s.fw.dead

/-! ## Bounds and breaches (R332, R336, R339) -/

/-- States in which the floor is held (R333). -/
def State.holdsFloor (s : State) : Bool :=
  s.kp.state = .armed || s.kp.state = .running || s.kp.state = .quiesced || s.kp.state = .orphaned

/-- Some thermal cap is below the top code (R430). -/
def State.thermalCapped (s : State) : Bool :=
  s.dies.toList.any fun r => r.domains.toList.any fun d => decide (d.thermalCap.toNat < 0x54)

/-- The cause of a breach; `short` says that it is a shortfall. A minute that 48 V out of range affects has that cause (R339, R423;
log entry 150). -/
def State.breachCause (s : State) (short : Bool) : Nat :=
  if !s.pkg.v48 || s.pwr.outOfRange then 5
  else if s.thermalCapped then 1
  else if s.pwr.reserve then 2
  else if short && !s.holdsFloor then 3
  else if short && s.setting keyHusk = 1 && decide (s.pwr.huskRate ≥ 64) then 4
  else 6

/-- A breach of bound `k` noted, with its excess or shortfall in W (R339). -/
def State.noteBreach (s : State) (k : Nat) (watts : Nat) (short : Bool) : State :=
  let cause := s.breachCause short
  { s with pwr := { s.pwr with
      breach := s.pwr.breach ||| BitVec.ofNat 4 (2 ^ (k - 1))
      worst := max s.pwr.worst (watts / 10)
      breachCause := if s.pwr.breach = 0 then cause else s.pwr.breachCause } }

/-- What every instant at least 100 ms ago lets A100 be now: each rise and descent since then at the ramp limits in force (R332). -/
def State.advanceRamp (s : State) : State :=
  let l := s.limits
  let old := s.pwr.a100s[999]?.map fun a => 10 * a
  let high := match s.pwr.rampHigh, old with
    | some h, some a => some (min (h + l.ramp) (a + 1000 * l.ramp))
    | some h, none => some (h + l.ramp)
    | none, some a => some (a + 1000 * l.ramp)
    | none, none => none
  let low := match s.pwr.rampLow, old with
    | some h, some a => some (max (h - l.ramp) (a - 1000 * l.ramp))
    | some h, none => some (h - l.ramp)
    | none, some a => some (a - 1000 * l.ramp)
    | none, none => none
  { s with pwr := { s.pwr with
      rampHigh := if l.ramp = 0 then none else high, rampLow := if l.ramp ≠ 0 ∧ l.descent then low else none } }

/-- Bounds 2, 3 and 4 looked at after a sample (R332). -/
def State.checkBounds (s : State) : State :=
  let l := s.limits
  let ten := s.pwr.a10
  let now := s.pwr.a100
  let bound2 := l.ceiling * 125
  let s := if ten > bound2 then s.noteBreach 2 (ten - bound2) false else s
  let s := match s.pwr.rampHigh with
    | some h => if 10 * now > h then s.noteBreach 3 (now - h / 10) false else s
    | none => s
  let s := match s.pwr.rampLow with
    | some h => if 10 * now < h then s.noteBreach 3 (h / 10 - now) true else s
    | none => s
  if 1000 ≤ s.pwr.a100s.length ∧ 10 * now < s.pwr.envelope then s.noteBreach 4 (s.pwr.envelope / 10 - now) true else s

/-- The record of a minute with a breach, its count, and the platform event (R338, R339). -/
def State.reportBreach (s : State) (amin : Nat) : State :=
  if s.pwr.breach = 0 then s
  else
    let p := s.pwr
    let s := s.report {
      cls := .environment, code := 0x4801, subject := idModule, reporter := idKp s.fw.activeB 1, envFault := true,
      time := some (BitVec.ofNat 64 (p.minute * minuteNs))
      detail := BitVec.ofNat 64 (p.breach.toNat + 16 * (min p.worst 65535) + 2 ^ 20 * p.breachCause) }
    { s with pwr := { s.pwr with
        breachMinutes := satAdd s.pwr.breachMinutes 1
        sent := if s.pwr.receiver.isSome then s.pwr.sent ++ [(0x0101 + 2, amin)] else s.pwr.sent } }

/-- The minute in progress ends: AMIN, bound 1, the breach record, and the limits of the minute that board time falls in; a floor
that rises does so as an envelope from the draw at that instant (R331, R335, R339). -/
def State.endMinute (s : State) : State :=
  let amin := if s.pwr.minuteCount = 0 then 0 else s.pwr.minuteSum / s.pwr.minuteCount
  let old := s.limits
  let s := if amin > old.ceiling * 100 then s.noteBreach 1 (amin - old.ceiling * 100) false else s
  let s := s.reportBreach amin
  let s : State := { s with pwr := { s.pwr with
    amin := amin, minute := s.minuteNow, minuteSum := 0, minuteCount := 0, breach := 0, worst := 0, breachCause := 0,
    outOfRange := false } }
  let new := s.limits
  let floor := new.floor * 1000
  { s with pwr := { s.pwr with
      envelope := if new.floor > old.floor then min floor (10 * s.pwr.a10) else floor } }

/-! ## Throttling and gating (R334, R335) -/

/-- The ceiling the draw is held under now, in W: it descends ahead of a lower ceiling (R335). -/
def State.ceilingNow (s : State) : Nat :=
  let l := s.limits
  let next := s.limitsAt (s.pwr.minute + 1)
  let left := (minuteNs - s.now.toNat % minuteNs) / 1000000
  if next.ceiling < l.ceiling ∧ l.ramp ≠ 0 then min (l.ceiling * 100) (next.ceiling * 100 + l.ramp * left)
  else l.ceiling * 100

/-- The draw must fall: over the ceiling with the full measurement error, or rising faster than the ramp (R328, R334). -/
def State.mustFall (s : State) (watts : List Nat) : Bool :=
  decide ((watts.map withError).sum > s.ceilingNow) ||
    (match s.pwr.rampHigh with
      | some h => decide (10 * s.pwr.a100 > h)
      | none => false)

/-- Every fast domain of a die is at the lowest target (R334). -/
def RingDie.atBottom (r : RingDie) : Bool := r.domains.toList.all fun d => decide (d.target.toNat ≤ 0x20)

/-- The site's limiter gates its die: its rolling 10 ms is over its share and the targets cannot fall further (R291, R334). -/
def State.siteGated (s : State) (n : DieId) : Bool :=
  decide (withError (meanOf s.pwr.samples[n] 100) > s.pwr.shares[n]) && (s.die n).atBottom

/-- Sites gated now. -/
def State.gatedSites (s : State) : Nat := allDies.countP fun n => s.siteGated n

/-- The draw cap moves by one code (R309, R334). -/
def State.moveDrawCap (s : State) (watts : List Nat) : State :=
  let cap := s.pwr.drawCap.toNat
  let new := if s.mustFall watts then max 0x20 (cap - 1) else min 0x54 (cap + 1)
  let top := max (s.clk.fastMax.extractLsb' 0 8).toNat (s.clk.fastMax.extractLsb' 8 8).toNat
  { s with pwr := { s.pwr with
      drawCap := BitVec.ofNat 8 new, throttling := decide (new < top), gating := decide (0 < s.gatedSites) } }

/-! ## Husk load (R25, R333, R337) -/

/-- A bent may carry husk load: enabled, not gated, and claimed by no segment (R25, R333). -/
def RingDie.mayHusk (r : RingDie) (b : BentIx) : Bool :=
  r.bentOn b && decide (r.bents[b].power ≠ .gated) &&
    match r.segment with
    | some g => !g.claimed.getLsbD b.val
    | none => true

/-- Bents that may carry husk load. -/
def State.huskBents (s : State) : Nat :=
  (allDies.map fun d => (List.finRange 16).countP fun b => (s.die d).mayHusk b).sum

/-- A bent with husk load set or taken away; a husk bent runs, and where its husk ends it is as `after` says (R333). -/
def Bent.setHusk (x : Bent) (husk : Bool) (after : BentPower) : Bent :=
  { x with husk := husk, power := if husk then .awake else if x.husk && x.power = .awake then after else x.power }

/-- A die's bents with husk load set or taken away, and their domains with them (R333). -/
def RingDie.setHusk (r : RingDie) (on : Bool) (after : BentPower) : RingDie :=
  let bents := Vector.ofFn fun b : Fin 16 => r.bents[b].setHusk (on && r.mayHusk b) after
  { r with
    bents := bents
    domains := Vector.ofFn fun d : Fin 17 =>
      if h : d.val < 16 then
        if bents[d.val].husk || r.bents[d.val].husk then { r.domains[d] with stopped := decide (bents[d.val].power ≠ .awake) }
        else r.domains[d]
      else r.domains[d] }

/-- Tenths of a W that the draw should not fall below now: the floor's envelope and the descending ramp while the floor is
held; husk falling at the ramp limit to zero otherwise (R333, R335, R337). -/
def State.wantedDraw (s : State) (natural : Nat) : Nat :=
  let l := s.limits
  let down := if l.ramp ≠ 0 ∧ l.descent then 10 * s.pwr.a100 - l.ramp else 0
  if s.holdsFloor then (if s.setting keyHusk = 1 then max s.pwr.envelope down else 0)
  else if l.ramp = 0 then 0 else 10 * natural + (10 * s.pwr.huskSamples.headD 0 - l.ramp)

/-- The husk rate in 1/64 of 37.5 W in each bent that may carry it (R337). -/
def State.setHuskRate (s : State) (total husk : Nat) : State :=
  let natural := total - husk
  let l := s.limits
  let floor := l.floor * 1000
  let env := if s.pwr.envelope < floor ∧ l.ramp ≠ 0 then min floor (s.pwr.envelope + l.ramp) else floor
  let s : State := { s with pwr := { s.pwr with envelope := env } }
  let cap := 375 * s.huskBents
  let need := s.wantedDraw natural - 10 * natural
  let rate := if cap = 0 then 0 else min 64 ((need * 64 + cap - 1) / cap)
  let s : State := { s with pwr := { s.pwr with
    huskRate := rate, floorShort := s.holdsFloor && decide (10 * s.pwr.a100 < env) } }
  s.mapDies fun r => r.setHusk (decide (0 < rate)) (if railsOffIn s.kp.state then .gated else .stopped)

/-! ## Commands -/

/-- DRAW_SAMPLE (R328, R332 to R337): the limiters record; the running power core averages, checks its bounds, and moves the
draw cap and the husk rate. A minute remembers that 48 V has left its operating range (R423). -/
def execDrawSample (watts : List Nat) (draw : DrawReading) (s : State) : Out :=
  let s : State := { s with pwr := { s.pwr.record watts draw.husk with outOfRange := s.pwr.outOfRange || draw.outOfRange } }
  let a100 := s.pwr.average 1000
  let s : State := { s.advanceRamp with pwr := { s.advanceRamp.pwr with a100s := (a100 :: s.pwr.a100s).take 1000 } }
  if s.powerRuns then
    let s : State := { s with pwr := { s.pwr with
      a10 := s.pwr.average 100, a100 := a100
      husk := meanOf s.pwr.huskSamples 1000 } }
    .next ((s.checkBounds.moveDrawCap watts).setHuskRate watts.sum draw.husk)
  else .next { s with pwr := { s.pwr with gating := decide (0 < s.gatedSites) } }

/-- LIMITER_SHARE (R334): 1.25 times the ceiling divided in proportion to each site's need. -/
def execLimiterShare (need : List Nat) (s : State) : Out :=
  if s.powerRuns then
    let bound := s.limits.ceiling * 125
    let sum := need.sum
    .next { s with pwr := { s.pwr with
      shares := Vector.ofFn fun n : Fin 16 => if sum = 0 then bound / 16 else bound * need.getD n.val 0 / sum } }
  else .next s

/-- PLAN_MINUTE_BOUNDARY (R335); while the power core restarts it waits for the core (R290). -/
def execPlanMinuteBoundary (s : State) : Out := .next (if s.powerRuns then s.endMinute else s)

/-- POWER_RESERVE as filtered, with its record (R342, R428). -/
def State.setReserve (s : State) (v : Bool) : State :=
  if s.pkg.reserve = v then s
  else
    let s : State := { s with pkg := { s.pkg with reserve := v }, pwr := { s.pwr with reserve := v } }
    s.report { cls := .environment, code := 0x4803, subject := idModule, reporter := idKp s.fw.activeB 1,
               detail := BitVec.ofNat 64 (bit v) }

/-- POWER_RESERVE_RISE (R331, R428). -/
def execPowerReserveRise (s : State) : Out := .next (s.setReserve true)

/-- POWER_RESERVE_FALL (R428). -/
def execPowerReserveFall (s : State) : Out := .next (s.setReserve false)

end Sys2Proof.Machine
end

