-- ==== Sys2Proof/Machine/Clocks.lean ====
section
/-! DEFINITION. Clock domains and board time (R305 to R325): AON samples and targets, margin readings, marks sent and received,
holdover, and loads of board time. -/

namespace Sys2Proof.Machine

/-! ## Targets (R306, R308, R309) -/

/-- The least of a domain's caps but its margin cap (R309). -/
def State.otherCap (s : State) (r : RingDie) (d : Fin 17) : Nat :=
  let fast := (s.clk.fastMax.extractLsb' (if d.val = 16 then 0 else 8) 8).toNat
  min fast (min r.domains[d].thermalCap.toNat s.pwr.drawCap.toNat)

/-- The target a domain is to reach: the least of its four caps; FABRIC at 0x20 in IDLE (R309, R314). Every BENT domain of a die
has the same caps but its own margin cap. -/
def State.goal (s : State) (r : RingDie) (d : Fin 17) : Nat :=
  if decide (d.val = 16) && s.kp.state = .idle then 0x20 else max 0x20 (min r.domains[d].marginCap.toNat (s.otherCap r d))

/-- A code one step nearer to another (R306). -/
def stepToward (code goal : Nat) : Nat := if code < goal then code + 1 else if goal < code then code - 1 else code

/-- The targets of a die move by one code at an AON sample, while the power core runs; that of a paused domain waits for the first
sample after its pause (R290, R306, R327). -/
def State.moveTargets (s : State) (r : RingDie) : RingDie :=
  { r with domains := Vector.ofFn fun d : Fin 17 =>
      let x := r.domains[d]
      if x.paused then x else { x with target := BitVec.ofNat 8 (stepToward x.target.toNat (s.goal r d)) } }

/-- Cycles and stretch of one domain added at a sample; a stopped clock counts nothing, and one that runs but has made no cycle in
the microsecond is paused (R307, R315; log entry 145). -/
def Domain.sample (x : Domain) (cycles stretch : Nat) : Domain :=
  if x.stopped then { x with paused := false }
  else
    { x with
      cycles := x.cycles + BitVec.ofNat 48 cycles, tally := x.tally + BitVec.ofNat 32 stretch, paused := decide (cycles = 0) }

/-- The board time, in nanoseconds, of a hardware stamp (c, τ) of a domain, from the sample that the domain's counts and T_s hold
and the period of its target, 40,000 / code ns (R316). -/
def Domain.stampTime (x : Domain) (sampledAt : DWord) (c : BitVec 48) (tally : Word) : Rat :=
  let period : Rat := 40000 / (1000 * x.target.toNat)
  sampledAt.toNat + (c - x.cycles).toInt * period + (tally - x.tally).toInt * period / 64

/-- The FABRIC domain in IDLE: it is clock-stopped after 1 ms without traffic and runs again with traffic; a sample of no cycles
is what shows the stop (R314; DESIGN CHOICE, log 120). -/
def Domain.sampleIdleFabric (x : Domain) (cycles stretch : Nat) : Domain :=
  { ({ x with stopped := false } : Domain).sample cycles stretch with stopped := decide (cycles = 0), paused := false }

/-- One domain's sample. -/
def State.sampleDomain (s : State) (die : DieId) (k : Fin 17) (cycles stretch : Nat) : State :=
  s.modDie die fun r => r.modDomain k fun d =>
    if k.val = 16 && s.kp.state = .idle then d.sampleIdleFabric cycles stretch else d.sample cycles stretch

/-! ## Board time (R318 to R322) -/

/-- TIME_ROLE (R318). -/
def State.timeRole (s : State) : Nat := (s.clk.timeCtrl.extractLsb' 0 2).toNat

/-- The module follows TIME_IN (R318). -/
def State.follows (s : State) : Bool := s.timeRole = 0

/-- A CLOCK event with its cause and its 64-bit value (R287, R321, R322). -/
def State.clockEvent (s : State) (cause : Nat) (value : DWord) : State :=
  s.postEvent 0x0A .done 0 (BitVec.ofNat 384 (cause + 2 ^ 64 * value.toNat))

/-- A NOTICE record of the time unit. -/
def State.clockRecord (s : State) (code : BitVec 16) (value : DWord) : State :=
  s.report { cls := .notice, code := code, subject := idModule, reporter := idKp s.fw.activeB 7, detail := value }

/-- One tenth of a nanosecond of steering or slewing per microsecond, which is 100 ppm (R321): what is left, and the whole
nanosecond it makes up now. -/
def slewStep (left : Int) : Int × Int :=
  if left = 0 then (0, 0)
  else
    let d : Int := if 0 < left then 1 else -1
    (left - d, if (left - d) % 10 = 0 then d else 0)

/-- The follower locks (R320, R321). -/
def State.lockTime (s : State) : State :=
  if s.clk.locked then { s with clk := { s.clk with slewing := false, behind := false } }
  else
    ({ s with clk := { s.clk with locked := true, holdover := false, slewing := false, behind := false } }).clockEvent 0x02 0

/-- Board time runs on by one microsecond, with its slew (R316, R321). -/
def State.advanceTime (s : State) : State :=
  let (left, extra) := slewStep s.clk.slewLeft
  let t : Int := s.clk.boardTime.toNat + 1000 + extra
  let done := s.clk.slewing && left = 0
  let s : State := { s with clk := { s.clk with
    boardTime := BitVec.ofInt 64 t, sampledAt := BitVec.ofInt 64 t, slewLeft := left, aonMicros := s.clk.aonMicros + 1 } }
  if done then s.lockTime else s

/-- The event vector owed is raised 10 us after the last (R283). -/
def State.oweEvent (s : State) : State := if s.mgmt.owed then s.raiseEvent else s

/-- A microsecond of each router at derating level 2 or 3 (R96). -/
def RingDie.countLevels (r : RingDie) : RingDie :=
  (List.finRange 4).foldl (fun r i => if 2 ≤ (r.routers[i]).level then r.count (0x2D + i.val) else r) r

/-- A microsecond of an edge die whose vote slots are all in use: 1,600 cycles (R226, R241; log entry 39). -/
def Edge.countFull (x : Edge) : Edge :=
  if 128 ≤ x.slots.length then { x with counters := Sparse.bump x.counters 0x0D 1600 } else x

/-- AON_SAMPLE (R306, R314, R315, R316): time runs on one microsecond, the domains' counts are sampled, targets move one code, and
the microsecond of a gated site, of a derated router and of a full vote counter is counted (R96, R241, R334). -/
def execAonSample (cycles : List (DieId × Fin 17 × Nat × Nat)) (s : State) : Out :=
  let s := s.advanceTime
  let s := cycles.foldl (fun s x => s.sampleDomain x.1 x.2.1 x.2.2.1 x.2.2.2) s
  let s := if s.powerRuns then s.mapDies fun r => s.moveTargets r else s
  let s : State := { s.mapDies RingDie.countLevels with edges := s.edges.map Edge.countFull }
  let s := if s.pwr.gating then { s with pwr := { s.pwr with gatedUs := satAdd s.pwr.gatedUs s.gatedSites } } else s
  .next s.oweEvent

/-- MARGIN_READING (R308): ten low readings lower the domain's target by one code, down to 0x20; a thousand high ones raise one
that its margin cap alone keeps below its other caps. -/
def execMarginReading (die : DieId) (dom : Fin 17) (code : BitVec 3) (s : State) : Out :=
  let c := code.toNat
  let x := (s.die die).domains[dom]
  let set (f : Domain → Domain) (s : State) : State := s.modDie die fun r => r.modDomain dom f
  if !s.powerRuns then .next (set (fun d => { d with margin := code }) s)
  else if c ≤ 1 then
    if x.lowRun + 1 ≥ 10 ∧ x.target.toNat ≤ 0x20 then .next (set (fun d => { d with margin := code, lowRun := 0, highRun := 0 }) s)
    else if x.lowRun + 1 ≥ 10 then
      .next ((set (fun d => { d with
        margin := code, lowRun := 0, highRun := 0
        marginCap := BitVec.ofNat 8 (max 0x20 (min d.marginCap.toNat d.target.toNat - 1)) }) s).countRing die 0xB1)
    else .next (set (fun d => { d with margin := code, lowRun := d.lowRun + 1, highRun := 0 }) s)
  else if c ≥ 4 then
    if x.highRun + 1 ≥ 1000 ∧ x.target.toNat < s.otherCap (s.die die) dom ∧ x.marginCap.toNat ≤ x.target.toNat then
      .next ((set (fun d => { d with
        margin := code, lowRun := 0, highRun := 0, marginCap := BitVec.ofNat 8 (d.marginCap.toNat + 1) }) s).countRing die 0xB2)
    else .next (set (fun d => { d with margin := code, lowRun := 0, highRun := min 1000 (d.highRun + 1) }) s)
  else .next (set (fun d => { d with margin := code, lowRun := 0, highRun := 0 }) s)

/-! ## Marks (R319, R320) -/

/-- One bit of the CRC-16 of a time word: polynomial 0x1021 (R319). -/
def crc16Bit (c : Nat) : Nat := if c ≥ 0x8000 then ((2 * c) ^^^ 0x1021) % 65536 else 2 * c

/-- CRC-16 of bytes: initial value 0xFFFF, no reflection (R319). -/
def crc16 (bytes : List Byte) : BitVec 16 :=
  BitVec.ofNat 16 (bytes.foldl (fun c b => Nat.repeat crc16Bit 8 (c ^^^ (256 * b.toNat))) 0xFFFF)

/-- The first ten bytes of a time word (R319). -/
def timeBytes (w : TimeWord) : List Byte := leBytes 8 w.time.toNat ++ [w.flags, w.seq]

/-- A time word with its CRC (R319). -/
def makeTimeWord (time : DWord) (flags seq : Byte) : TimeWord :=
  let w : TimeWord := ⟨time, flags, seq, 0⟩
  { w with crc := crc16 (timeBytes w) }

/-- Nanoseconds of a millisecond. -/
def msNs : Nat := 1000000

/-- The plan minute in progress ends where board time has left it (R331; log entry 146). -/
def State.leaveMinute (s : State) (before : Nat) : State :=
  if s.minuteNow ≠ before && s.powerRuns then s.endMinute else s

/-- TIME_MARK_SEND (R319, R322): a pending load takes effect; a source with valid time, or a follower that repeats, drives a
mark. -/
def execTimeMarkSend (s : State) : Out :=
  let before := s.minuteNow
  let (s, loaded) := match s.clk.pendingLoad with
    | some v => (({ s with clk := { s.clk with boardTime := v, valid := true, pendingLoad := none } } : State), true)
    | none => (s, false)
  let s := s.leaveMinute before
  let drives := (s.timeRole = 1 && s.clk.valid) || (s.follows && s.clk.timeCtrl.getLsbD 2)
  if drives then
    let flags : Byte := BitVec.ofNat 8 (bit loaded + 2 * bit (s.follows && !s.clk.locked))
    let time : DWord := BitVec.ofNat 64 (s.now.toNat / msNs * msNs)
    .next { s with clk := { s.clk with lastSent := some (makeTimeWord time flags s.clk.outSeq), outSeq := s.clk.outSeq + 1 } }
  else .next s

/-- Why a mark is discarded (R320). -/
def State.markBad (s : State) (w : TimeWord) : Bool :=
  decide (crc16 (timeBytes w) ≠ w.crc) || decide (w.flags.toNat ≥ 4) ||
  (match s.clk.lastSeq with
    | some q => decide (w.seq ≠ q + 1)
    | none => false) ||
  (match s.clk.lastTime with
    | some t => decide (w.time ≠ t + BitVec.ofNat 64 msNs) && !w.flags.getLsbD 0
    | none => false)

/-- One more mark error (R320, R323). -/
def State.countMark (s : State) : State :=
  { s with clk := { s.clk with markErrors := satAdd s.clk.markErrors 1 } }

/-- Board time steps forward by `e` ns: the event, the record, the lock, and the plan minute that ends at the step (R321,
R331). -/
def State.stepTime (s : State) (e : Nat) : State :=
  let before := s.minuteNow
  let s : State := { s with clk := { s.clk with
    boardTime := s.clk.boardTime + BitVec.ofNat 64 e, stepDue := none, slewLeft := 0, slewing := false
    events := s.clk.events ||| 4 } }
  let s := ((s.clockRecord 0x3802 (BitVec.ofNat 64 e)).clockEvent 0x03 (BitVec.ofNat 64 e)).lockTime
  s.leaveMinute before

/-- A good mark with the offset `e` in ps of the source to the module (R320, R321). -/
def State.goodMark (s : State) (e : Int) : State :=
  let s : State := { s with clk := { s.clk with valid := true, offset := BitVec.ofInt 32 e } }
  let ns := e / 1000
  match s.clk.stepDue with
  | some n => s.stepTime n
  | none =>
    if e > 100000000 then { s with clk := { s.clk with stepDue := some ns.toNat } }
    else if e < -100000000 then
      let was := s.clk.behind
      let s := ({ s with clk := { s.clk with
        behind := true, holdover := true, locked := false, slewing := false, slewLeft := 0 } }).countMark
      if was then s else s.clockEvent 0x04 (BitVec.ofInt 64 ns)
    else
      let left := e / 100
      let s : State := { s with clk := { s.clk with behind := false, slewLeft := left } }
      if s.clk.locked ∨ left = 0 then s.lockTime else { s with clk := { s.clk with slewing := true } }

/-- TIME_MARK (R320, R321): `offsetPs` is how far the module's own clock has run, in ps, past its last AON sample at the mark's
edge (log entry 22). A SOURCE or FREE module ignores TIME_IN (R318). -/
def execTimeMark (w : TimeWord) (offsetPs : Int) (s : State) : Out :=
  if s.follows then
    let readable := decide (crc16 (timeBytes w) = w.crc)
    let bad := s.markBad w
    let s : State := if readable then { s with clk := { s.clk with lastSeq := some w.seq, lastTime := some w.time } } else s
    if bad then .next ({ s with clk := { s.clk with events := s.clk.events ||| 2 } }).countMark
    else
      let e : Int := (w.time.toNat : Int) * 1000 + 10 * (s.clk.inDelay.extractLsb' 0 16).toNat -
        ((s.clk.boardTime.toNat : Int) * 1000 + offsetPs)
      .next (s.goodMark e)
  else .next s

/-- MARK_LOSS (R321): a follower enters holdover. -/
def execMarkLoss (s : State) : Out :=
  if s.follows && !s.clk.holdover then
    let s : State := { s with clk := { s.clk with
      holdover := true, locked := false, slewing := false, slewLeft := 0, stepDue := none, events := s.clk.events ||| 1 } }
    .next ((s.clockRecord 0x3801 0).clockEvent 0x01 0)
  else .next s

/-! ## Loading board time (R322) -/

/-- The value in CLK_LOAD_HI and CLK_LOAD_LO. -/
def State.loadValue (s : State) : DWord := BitVec.ofNat 64 (s.clk.loadHi.toNat * 2 ^ 32 + s.clk.loadLo.toNat)

/-- A load of board time is refused (R322). -/
def State.loadRefused (s : State) : Bool :=
  let v := s.loadValue.toNat
  s.follows || s.kp.state = .running || decide (v % msNs ≠ 0) ||
    (s.clk.valid && decide (v < s.now.toNat + msNs))

/-- A whole write to CLK_LOAD_GO (R322, R323). -/
def State.writeLoadGo (s : State) (value : Word) : State :=
  if value.getLsbD 0 then
    let v := s.loadValue
    if s.loadRefused then
      (({ s with clk := { s.clk with events := s.clk.events ||| 8 } }).clockRecord 0x3803 v).clockEvent 0x05 v
    else { s with clk := { s.clk with pendingLoad := some v } }
  else s

/-- CLK_LOAD_GO (R322, R323, R400). -/
def execClkLoadGo (value : Word) (enables : BitVec 4) (s : State) : Out :=
  .next (if enables ≠ 0xF then s.dropWrite 0x0200028 else s.writeLoadGo value)

end Sys2Proof.Machine
end

