-- ==== Sys2Proof/Machine/Switch.lean ====
section
/-! DEFINITION. Switch programs as the loader's verifier sees them: what attaches at each edge router (R13, R14), and the checks of R54,
R76, R79, R83 to R87, R100, R120 and R125 on the private program of a die. -/

namespace Sys2Proof.Machine

/-! ## Attachments of the edge routers (R13, R14) -/

/-- The router N, E, S or W of its ring die at which a sill attaches (R13). -/
def sillRouter (m : SillId) : Fin 4 :=
  if m.val < 4 then 0 else if m.val < 6 then 1 else if m.val < 10 then 2 else 3

/-- The router of its ring die at which an edge die attaches (R13). -/
def edgeRouter (e : EdgeId) : Fin 4 := if e.val < 3 then 1 else 3

/-- What attaches at an edge router (R13). -/
inductive Attachment where
  | die (d : DieId) | sill (m : SillId) | edge (e : EdgeId) | bridgeA | bridgeB
deriving DecidableEq, Repr

/-- The attachments of an edge router: grid bridge, sill, edge die, kingpost bridge (R13). They share its allowance (R86). -/
def attachments (d : DieId) (r : Fin 4) : List Attachment :=
  ((acrossRouter d r).toList.map .die) ++
  ((allSills.filter fun m => ownerOfSill m = d && sillRouter m = r).map .sill) ++
  (((List.finRange 6).filter fun e => ownerOfEdge e = d && edgeRouter e = r).map .edge) ++
  (if d = 0 ∧ r = 0 then [.bridgeB] else if d = 0 ∧ r = 3 then [.bridgeA] else [])

/-- The stacks one bridge away from each inner die (R14); the path passes the die that owns the sill. -/
def oneHopStacks : List (DieId × SillId) := [(5, 1), (5, 11), (6, 2), (6, 4), (9, 10), (9, 8), (10, 5), (10, 7)]

/-- Inner dies' one-hop paths that use a router other than the sill's own: the two ends of the bridge that the path crosses
(R14, R87; log entry 121). -/
def throughPaths (d : DieId) (r : Fin 4) : Nat :=
  oneHopStacks.countP fun x =>
    (d = x.1 && acrossRouter d r = some (ownerOfSill x.2)) || (d = ownerOfSill x.2 && acrossRouter d r = some x.1)

/-- The router on the far side of a bridge. -/
def facing (r : Fin 4) : Fin 4 := if r = 0 then 2 else if r = 2 then 0 else if r = 1 then 3 else 1

/-- The bridges of the fixed route from a die to another: along its grid row to the target's column, then along that column; each as
the die it leaves and the router it leaves by (R160). -/
def gridRoute : Nat → DieId → DieId → List (DieId × Fin 4)
  | 0, _, _ => []
  | fuel + 1, a, b =>
    let r : Fin 4 :=
      if a.val % 4 < b.val % 4 then 1
      else if b.val % 4 < a.val % 4 then 3
      else if a.val < b.val then 2
      else 0
    if a = b then []
    else
      match acrossRouter a r with
      | some n => (a, r) :: gridRoute fuel n b
      | none => []

/-- The route of a stack's data to or from a ring die, from the die that owns the sill (R160). -/
def stackRoute (m : SillId) (d : DieId) : List (DieId × Fin 4) := gridRoute 6 (ownerOfSill m) d

/-- The beats that a router must offer in each direction in every 4 consecutive slots (R87). -/
def offeredMinimum (d : DieId) (r : Fin 4) : Nat :=
  ((attachments d r).map fun a => match a with
    | .sill _ => 6
    | .edge _ => 2
    | _ => 0).sum + 6 * throughPaths d r

/-- The beats a router moves in each direction in any 4 consecutive slots (R86). -/
def routerAllowance : Nat := 13

/-! ## Ports (R79, R84) -/

/-- Ports that may exchange beats (R79). -/
def partners (a b : BeatEnd) : Bool :=
  match a, b with
  | .slice _ _, .slice _ _ => false
  | .bay _ _, .bay _ _ => false
  | .router r, .router q => decide (r ≠ q)
  | _, _ => true

/-- Claimed beats of a slot that a port takes part in. -/
def beatsAt (x : SwitchSlot) (src dst : BeatEnd → Bool) : Nat :=
  x.claimed.countP fun b => src b.src || dst b.dst

/-- The end is a slice. -/
def isSlice (i : Fin 16) : BeatEnd → Bool
  | .slice j _ => decide (j = i)
  | _ => false

/-- The end is a bay. -/
def isBay (i : BayIx) : BeatEnd → Bool
  | .bay j _ => decide (j = i)
  | _ => false

/-- The end is a router. -/
def isRouter (i : Fin 4) : BeatEnd → Bool
  | .router j => decide (j = i)
  | _ => false

/-- Beats that a slot offers at a router in one direction (R80). -/
def offeredAt (l : List (Fin 4 × Nat)) (r : Fin 4) : Nat := ((l.filter fun x => x.1 = r).map Prod.snd).sum

/-- Beats of a slot through a router, inward to the die or outward, claimed and offered (R86). -/
def routerBeats (x : SwitchSlot) (r : Fin 4) (inward : Bool) : Nat :=
  if inward then x.claimed.countP (fun b => isRouter r b.src) + offeredAt x.offerIn r
  else x.claimed.countP (fun b => isRouter r b.dst) + offeredAt x.offerOut r

/-- No port is given more beats in a slot than R79 allows: 1 for a slice, 4 into a bay, 2 out of it, 4 each way at a router. -/
def portsGood (x : SwitchSlot) : Bool :=
  (x.claimed.all fun b => partners b.src b.dst && decide (b.bytes ≤ 1024)) &&
  ((List.finRange 16).all fun i => decide (beatsAt x (isSlice i) (isSlice i) ≤ 1)) &&
  ((List.finRange 4).all fun i =>
    decide (x.claimed.countP (fun b => isBay i b.dst) ≤ 4) && decide (x.claimed.countP (fun b => isBay i b.src) ≤ 2)) &&
  ((List.finRange 4).all fun r => decide (routerBeats x r true ≤ 4) && decide (routerBeats x r false ≤ 4))

/-- The loft beat of a slice in slot `t` of its segment is reserved for the sill side (R84). -/
def reservedBeat (t : Nat) (i : Fin 16) : Bool := decide (t % 4 = i.val % 4)

/-- No claimed beat of a slot lies on a reserved loft beat (R84). -/
def reservedGood (t : Nat) (x : SwitchSlot) : Bool :=
  (List.finRange 16).all fun i => !(reservedBeat t i && decide (0 < beatsAt x (isSlice i) (isSlice i)))

/-! ## Edge routers (R86, R87) -/

/-- Every run of 4 consecutive slots of a segment. -/
def windowsOf : List SwitchSlot → List (List SwitchSlot)
  | a :: b :: c :: d :: rest => [a, b, c, d] :: windowsOf (b :: c :: d :: rest)
  | _ => []

/-- A window of 4 slots keeps to a router's allowance and to its offered minimum in both directions (R86, R87). -/
def windowGood (d : DieId) (w : List SwitchSlot) (r : Fin 4) : Bool :=
  [true, false].all fun dir =>
    decide ((w.map fun x => routerBeats x r dir).sum ≤ routerAllowance) &&
    decide (offeredMinimum d r ≤ (w.map fun x => offeredAt (if dir then x.offerIn else x.offerOut) r).sum)

/-- Every router keeps to R86 and R87 in every 4 consecutive slots of a segment. -/
def routersGood (d : DieId) (g : SwitchSegment) : Bool :=
  (windowsOf g.slots).all fun w => (List.finRange 4).all fun r => windowGood d w r

/-- The claimed beats of a program that leave by a router, in slot order: their bytes. -/
def sentBy (l : List SwitchSegment) (r : Fin 4) : List Nat :=
  l.flatMap fun g => g.slots.flatMap fun x => (x.claimed.filter fun b => isRouter r b.dst).map ClaimedBeat.bytes

/-- The claimed beats of a program that a router delivers, in slot order: their bytes. -/
def takenBy (l : List SwitchSegment) (r : Fin 4) : List Nat :=
  l.flatMap fun g => g.slots.flatMap fun x => (x.claimed.filter fun b => isRouter r b.src).map ClaimedBeat.bytes

/-- Every claimed die-to-die transfer has its match in the neighbour's program (R83). -/
def transfersGood (d : DieId) (l : List SwitchSegment) (neighbour : DieId → List SwitchSegment) : Bool :=
  (List.finRange 4).all fun r =>
    match acrossRouter d r with
    | some n => sentBy l r == takenBy (neighbour n) (facing r) && takenBy l r == sentBy (neighbour n) (facing r)
    | none => (sentBy l r).isEmpty && (takenBy l r).isEmpty

/-! ## Entries, orientation and buffers (R48, R54, R125) -/

/-- The stations of a ring that an entry bent or a head bent belongs to (R71). -/
def ringStations (quarter : Bool) (b : BentIx) : List BentIx :=
  (List.finRange 16).filter fun x => !quarter || decide (x.val / 4 = b.val / 4)

/-- The entries written and not yet read, by bent and entry, after an act; none where one is rewritten before it has been read
(R48, R83). -/
def entriesAfter (quarter : Bool) (dirty : List (BentIx × Nat)) (a : RingAct) : Option (List (BentIx × Nat)) :=
  match a with
  | .emit _ e _ _ entry firstK _ =>
    let mine := (ringStations quarter e).map fun b => (b, entry.toNat)
    if firstK && mine.any dirty.contains then none else some (mine ++ dirty.filter fun x => !mine.contains x)
  | .zero b first count =>
    let mine := (List.range count).map fun i => (b, first + i)
    if mine.any dirty.contains then none else some (mine ++ dirty)
  | .reduce h entry _ _ _ =>
    let mine := (ringStations quarter h).map fun b => (b, entry.toNat)
    some (dirty.filter fun x => !mine.contains x)
  | .epilogue b _ first _ _ _ _ =>
    some (dirty.filter fun x => !(x.1 = b && decide (first.toNat ≤ x.2) && decide (x.2 < first.toNat + 32)))
  | _ => some dirty

/-- The acts of a program in order, each with its segment's configuration. -/
def programActs (l : List SwitchSegment) : List (Bool × RingAct) :=
  l.flatMap fun g => g.slots.flatMap fun x => x.acts.map fun a => (g.quarter, a)

/-- No entry is rewritten before it has been read (R48, R83). -/
def entriesGood (l : List SwitchSegment) : Bool :=
  ((programActs l).foldl
    (fun acc x => acc.bind fun dirty => entriesAfter x.1 dirty x.2) (some ([] : List (BentIx × Nat)))).isSome

/-- A fill that covers a buffer. -/
def fillOf (fills : List BufferFill) (stream : BitVec 12) (scale : Bool) (seq : Nat) : Option BufferFill :=
  fills.find? fun f => f.stream = stream && f.scale = scale && decide (f.first ≤ seq) && decide (seq < f.first + f.count)

/-- The orientation of every load fits its plank's axis: a plain load an ALONG plank, a turned load an ACROSS one (R54). The feed
stage turns a plank by its axis (R55), so its loads always fit. -/
def orientationGood (fills : List BufferFill) (l : List SwitchSegment) : Bool :=
  (programActs l).all fun x => match x.2 with
    | .load _ turned _ across stream seq _ _ _ =>
      turned == across && (match fillOf fills stream false seq with
        | some f => f.across == across
        | none => true)
    | _ => true

/-- The buffers that a slot reads: stream, sequence, number (R125). -/
def buffersRead (x : SwitchSlot) : List (BitVec 12 × Bool × Nat) :=
  (x.acts.filterMap fun a => match a with
    | .load _ _ _ _ stream seq _ _ _ => some (stream, false, seq)
    | .feedLoad _ _ stream seq _ _ _ => some (stream, false, seq)
    | _ => none) ++
  (x.claimed.filterMap fun b => match b.src with
    | .slice _ (.buffer stream scale seq _) => some (stream, scale, seq)
    | _ => none)

/-- Every buffer that a segment reads is filled by a descriptor whose completion its start command names (R125). -/
def buffersGood (fills : List BufferFill) (g : SwitchSegment) : Bool :=
  g.slots.all fun x => (buffersRead x).all fun b =>
    fills.any fun f => f.stream = b.1 && f.scale = b.2.1 && decide (f.first ≤ b.2.2) && decide (b.2.2 < f.first + f.count) &&
      g.completions.any fun c => c.1 = f.bay && c.2.1 = f.ctr && !(c.2.2 - f.value).msb

/-! ## The pool (R120) and the kiln (R100) -/

/-- The open streams of a bay after one more command, each with its mask and minimum. -/
def poolAfter (l : List (SlotIx × BitVec 16 × Nat)) (u : PoolUse) : List (SlotIx × BitVec 16 × Nat) :=
  match u with
  | .take k mask n => (k, mask, n) :: l.filter fun x => x.1 ≠ k
  | .drop k => l.filter fun x => x.1 ≠ k

/-- The minimums of the open streams in a slice. -/
def poolSum (l : List (SlotIx × BitVec 16 × Nat)) (slice : Nat) : Nat :=
  ((l.filter fun x => x.2.1.getLsbD slice).map fun x => x.2.2).sum

/-- The greatest sum of minimums in a slice over the streams open at one time, in program order (R120). -/
def poolPeak (slice : Nat) : List (SlotIx × BitVec 16 × Nat) → List PoolUse → Nat
  | l, [] => poolSum l slice
  | l, u :: rest => max (poolSum l slice) (poolPeak slice (poolAfter l u) rest)

/-- Pooled buffers of a slice under a loft map (R119). -/
def pooledCount (map : BitVec 16384) (slice : Nat) : Nat :=
  (List.range 1024).countP fun i => map.getLsbD (slice * 1024 + i)

/-- The minimums that can be reserved at once, the greatest of each bay added, fit the pooled buffers of every slice (R120). -/
def poolGood (map : BitVec 16384) (cores : List CoreProgram) : Bool :=
  (List.range 16).all fun i => decide ((cores.map fun c => poolPeak i [] c.pool).sum ≤ pooledCount map i)

/-- Groups of a region as an OPEN gives it: first and count. -/
def openGroups (f : KilnOpenFields) : Nat × Nat := (f.baseGroup.toNat, f.rows.toNat * f.cols256.toNat * 8)

/-- The resident regions of a program: bay and groups. -/
def residentRegions (l : List KilnUse) : List (BayIx × Nat × Nat) :=
  l.filterMap fun u => match u with
    | .take b f _ => if f.spill then none else some (b, openGroups f)
    | .read _ _ _ => none

/-- No two resident regions of a bay overlap within a step (R100). -/
def regionsApart : List (BayIx × Nat × Nat) → Bool
  | [] => true
  | x :: rest => (rest.all fun y => !(x.1 = y.1 && rangesMeet x.2 y.2)) && regionsApart rest

/-- The tail bent of a reduction: the one before its head in ring order (R60, R71). -/
def tailBent (head : BentIx) (quarter : Bool) : BentIx :=
  if quarter then ⟨head.val / 4 * 4 + (head.val + 3) % 4, by omega⟩ else ⟨(head.val + 15) % 16, Nat.mod_lt _ (by omega)⟩

/-- Every reduction targets a region that the program has opened before its segment (R100). -/
def reductionsGood (kiln : List KilnUse) (l : List SwitchSegment) : Bool :=
  l.zipIdx.all fun g => g.1.slots.all fun x => x.acts.all fun a => match a with
    | .reduce h _ region _ _ => kiln.any fun u => match u with
        | .take b f after => f.region = region && decide (b.val = (tailBent h g.1.quarter).val / 4) && decide (after ≤ g.2)
        | .read _ _ _ => false
    | _ => true

/-- A READOUT names a segment that the step issues, at most 32,767 segments after the last issued before it (R100). -/
def readoutsGood (kiln : List KilnUse) (l : List SwitchSegment) : Bool :=
  kiln.all fun u => match u with
    | .take _ _ _ => true
    | .read _ f after => (List.range l.length).any fun n =>
        decide (n % 65536 = f.segment.toNat) && decide (n < after + 32767)

/-! ## The verifier's answer (R83, R252) -/

/-- Longest segment in slots (R83). -/
def segmentLimit : Nat := 262144

/-- Why the switch program of a die is refused: the reason codes of R252 that come from R83, in their order. -/
def switchFault (d : DieId) (l : List SwitchSegment) (neighbour : DieId → List SwitchSegment) : Option Byte :=
  if !(l.all fun g => g.slots.all portsGood) then some 0x11
  else if !(l.all fun g => g.slots.zipIdx.all fun x => reservedGood x.2 x.1) then some 0x12
  else if !(l.all fun g => routersGood d g) then some 0x13
  else if !entriesGood l then some 0x14
  else if l.any fun g => decide (segmentLimit < g.slots.length) then some 0x15
  else if !transfersGood d l neighbour then some 0x16
  else none

/-- The entry that an act of the ring schedule encodes through. -/
def actEntry (a : RingAct) : Option Nat :=
  match a with
  | .epilogue _ mode _ ledger _ _ _ => if mode = 1 ∨ mode = 2 then some ledger.toNat else none
  | _ => none

/-- Every encode of a program names an entry of LEDGER_MAP, in the entry's FORMAT (R40, R252). -/
def encodesGood (map : List (Nat × BitVec 2)) (p : DieProgram) : Bool :=
  (p.encodes.all fun e => map.contains e) &&
  ((programActs p.segments).all fun x => match actEntry x.2 with
    | some e => map.any fun m => m.1 = e
    | none => true)

/-- A core's image and data fit its banks, and a die's switch program its store (R252; log entry 12 for the store's size). -/
def banksGood (p : DieProgram) : Bool :=
  (p.cores.all fun c => decide (c.code.length ≤ 16384) && decide (c.data.length ≤ 65536)) &&
    decide ((p.segments.map fun g => g.slots.length).sum ≤ Config.switchStore)

/-- Each queue's pushes are its named producer's (R76). -/
def producersGood (c : CoreProgram) : Bool :=
  c.pushes.all fun x => c.producers[(queueNo x.2).val]? = some x.1

/-- Why the private program of a die is refused (R252), in the order of the reason codes: its ledger map, its loft map and its
neighbours' programs are those of the same bundle, shape and variant. -/
def programFault (d : DieId) (p : DieProgram) (ledger : List (Nat × BitVec 2)) (map : BitVec 16384)
    (neighbour : DieId → List SwitchSegment) : Option Byte :=
  if !banksGood p then some 0x07
  else if !(p.cores.all producersGood) then some 0x10
  else (switchFault d p.segments neighbour).orElse fun _ =>
    if !orientationGood p.fills p.segments then some 0x17
    else if !encodesGood ledger p then some 0x18
    else if !(p.segments.all fun g => buffersGood p.fills g) then some 0x19
    else if !poolGood map p.cores then some 0x1A
    else if !(regionsApart (residentRegions p.kiln) && reductionsGood p.kiln p.segments && readoutsGood p.kiln p.segments) then
      some 0x1B
    else none

/-! ## Binding (R247) -/

/-- An act with its bays and stations physical (R247). -/
def RingDie.bindAct (r : RingDie) (a : RingAct) : RingAct :=
  match a with
  | .load b t h x st q f i n => .load (r.physStation b.val) t h x st q f i n
  | .feedLoad b h st q f i n => .feedLoad (r.physBay b.val) h st q f i n
  | .feedSwap b => .feedSwap (r.physBay b.val)
  | .hop => .hop
  | .emit b e p row entry k w => .emit (r.physBay b.val) (r.physStation e.val) p row entry k w
  | .zero b i n => .zero (r.physStation b.val) i n
  | .reduce h entry g row cg => .reduce (r.physStation h.val) entry g row cg
  | .epilogue b m i l o lanes fs => .epilogue (r.physStation b.val) m i l o lanes fs
  | .release st sc n => .release st sc n

/-- An end of a claimed beat with its bay physical (R247). -/
def RingDie.bindEnd (r : RingDie) (e : BeatEnd) : BeatEnd :=
  match e with
  | .bay b o => .bay (r.physBay b.val) o
  | e => e

/-- A slot bound to a die (R247). -/
def RingDie.bindSlot (r : RingDie) (x : SwitchSlot) : SwitchSlot :=
  { x with claimed := x.claimed.map (fun b => { b with src := r.bindEnd b.src, dst := r.bindEnd b.dst })
           acts := x.acts.map r.bindAct }

/-- A claimed-beat mask with its stations physical (R22, R247). -/
def RingDie.bindMask (r : RingDie) (mask : BitVec 16) : BitVec 16 :=
  ((List.range 16).filter fun i => mask.getLsbD i).foldl (fun m i => m ||| (1#16 <<< (r.physStation i).val)) 0

/-- A segment bound to a die: bays, stations, completions and mask physical (R247). -/
def RingDie.bindSegment (r : RingDie) (g : SwitchSegment) : SwitchSegment :=
  { g with bays := g.bays.map fun b => r.physBay b.val
           completions := g.completions.map fun c => (r.physBay c.1.val, c.2)
           mask := r.bindMask g.mask
           slots := g.slots.map r.bindSlot }

end Sys2Proof.Machine
end

