-- ==== Sys2Proof/Machine/Loader.lean ====
section
/-! DEFINITION. The loader: the bundle container and its checks (R243 to R252), Onesk images (R256 to R258), binding (R246 to
R249), and the switch of the halves (R253 to R255). -/

namespace Sys2Proof.Machine

/-- Why a load is refused: the status and, for VERIFY_FAILED, the reason, the section's index and the byte offset in it. -/
structure LoadFail where
  status : Status
  reason : Byte := 0
  index  : Nat := 0
  offset : Nat := 0
deriving DecidableEq, Repr

/-- A refusal of the verifier (R252). -/
def refuse (reason : Byte) (index : Nat := 0) (offset : Nat := 0) : LoadFail :=
  { status := .verifyFailed, reason := reason, index := index, offset := offset }

/-- Bytes 16 to 63 of the RESPONSE of a failed load (R287). -/
def LoadFail.data (f : LoadFail) : BitVec 384 :=
  BitVec.ofNat 384 (f.reason.toNat + 2 ^ 16 * (f.index % 65536) + 2 ^ 64 * f.offset)

/-! ## The container (R243 to R245) -/

/-- One entry of the section table (R244). -/
structure SecEntry where
  kind    : Nat
  shape   : Nat
  die     : Nat
  variant : Nat
  clear   : Bool
  offset  : Nat
  length  : Nat
deriving DecidableEq, Repr

/-- Entry `i` of an image's section table (R244). -/
def secEntry (image : List Byte) (i : Nat) : SecEntry :=
  let f (k n : Nat) : Nat := fieldAt image (256 + 32 * i + k) n
  { kind := f 0 2, shape := f 2 1, die := f 3 1, variant := f 4 2, clear := decide (f 6 2 = 0) && decide (f 24 8 = 0),
    offset := f 8 8, length := f 16 8 }

/-- Sections of an image. -/
def secEntries (image : List Byte) : List SecEntry := (List.range (fieldAt image 6 2)).map (secEntry image)

/-- The bytes of a section. -/
def secBytes (image : List Byte) (e : SecEntry) : List Byte := (image.drop e.offset).take e.length

/-- The counts of a VARIANT field (R244). -/
def variantCounts (v : Nat) : List Nat := [v % 8, v / 8 % 8, v / 64 % 8, v / 512 % 8]

/-- A program section (R244). -/
def SecEntry.isProgram (e : SecEntry) : Bool := decide (e.kind = 0x10) || decide (e.kind = 0x11) || decide (e.kind = 0x20)

/-- An informative section (R245). -/
def SecEntry.informative (e : SecEntry) : Bool := decide (e.kind ≥ 0x8000)

/-- A kind of the table of R245. -/
def SecEntry.kindGood (e : SecEntry) : Bool :=
  e.informative || e.isProgram || (decide (1 ≤ e.kind) && decide (e.kind ≤ 6))

/-- DIE lies in the scope of the kind (R245). -/
def SecEntry.scopeGood (e : SecEntry) : Bool :=
  if e.informative then true
  else if e.isProgram || e.kind = 1 || e.kind = 2 then decide (e.die ≤ 0x0F) || e.die = 0xFF
  else if e.kind = 3 then (decide (0x10 ≤ e.die) && decide (e.die ≤ 0x1B)) || e.die = 0xFF
  else decide (e.die = 0xFF)

/-- SHAPE and VARIANT as R244 and R245 allow them. -/
def SecEntry.shapeGood (e : SecEntry) : Bool :=
  let shape := decide (12 ≤ e.shape) && decide (e.shape ≤ 16)
  if e.isProgram then
    shape && decide (e.variant < 4096) && (variantCounts e.variant).all (fun c => decide (c ≤ 4)) &&
      decide ((variantCounts e.variant).sum = e.shape)
  else (shape || decide (e.shape = 0)) && decide (e.variant = 0)

/-- A table section has a right length (R119, R217, R234, R245; log entry 11 for those whose layout the spec does not give). -/
def SecEntry.lengthGood (e : SecEntry) (image : List Byte) : Bool :=
  match e.kind with
  | 1 => decide (e.length = 2048)
  | 2 => (Config.parseLedgerMap (secBytes image e)).isSome
  | 3 => (Config.splitUpdateList (secBytes image e)).isSome
  | 4 => (Config.parseGroups (secBytes image e)).isSome
  | 5 => decide (e.length % 256 = 0) && decide (e.length / 256 ≤ 4096)
  | 6 => decide (e.length % 8 = 0) && decide (e.length / 8 ≤ 16384)
  | _ => true

/-- The first section that R244 or R245 refuses. -/
def tableFault (image : List Byte) (es : List SecEntry) : Option Nat :=
  let head := 256 + 32 * es.length
  let bad (i : Nat) (e : SecEntry) : Bool :=
    !(e.clear && e.kindGood && e.scopeGood && e.shapeGood && decide (e.offset % 64 = 0) &&
      decide (e.offset + e.length ≤ image.length) && e.lengthGood image) ||
    decide (e.offset < head) ||
    (es.take i).any fun g => rangesMeet (g.offset, g.length) (e.offset, e.length)
  (es.zipIdx.find? fun x => bad x.2 x.1).map Prod.snd

/-- The image with the 48 bytes of DIGEST taken as 0 (R243). -/
def digestInput (image : List Byte) : List Byte := image.take 48 ++ List.replicate 48 0 ++ image.drop 96

/-- DIGEST of an image (R243). -/
def imageDigest (image : List Byte) : BitVec 384 := BitVec.ofNat 384 (fieldAt image 48 48)

/-! ## Onesk images (R257, R258) -/

/-- An Onesk word of an image of `n` words at index `i` is defined, and its TEST or CALL target lies in the image (R258). -/
def oneskWordGood (w : Word) (i n : Nat) : Bool :=
  let inImage (off : Int) : Bool := decide (0 ≤ (i : Int) + off) && decide ((i : Int) + off < n)
  match oneskCommand ⟨⟨0, 0⟩, 0⟩ w with
  | none => false
  | some (.test _ _ _ _ off) => inImage off.toInt
  | some (.call _ _ imm) => inImage imm.toInt
  | some _ => true

/-- The words of bytes. -/
def wordsOf (n : Nat) (bytes : List Byte) : List Word :=
  (List.range n).map fun i => BitVec.ofNat 32 (fieldAt bytes (4 * i) 4)

/-- One Onesk image at an offset of its section, or the offset at which it breaks R257 or R258. -/
def parseImage (bytes : List Byte) (at' : Nat) : Except Nat OneskImage :=
  let f (k n : Nat) : Nat := fieldAt bytes (at' + k) n
  let words := f 20 2
  let data := f 22 2
  if bytes.length < at' + 64 ∨ f 17 3 ≥ 2 ^ 18 ∨ f 24 40 ≠ 0 ∨ words = 0 ∨ words > 16384 ∨
      bytes.length < at' + 64 + 4 * words + data then .error at'
  else
    let entry := (List.range 8).map fun t => f (2 * t) 2
    let threads : Byte := BitVec.ofNat 8 (f 16 1)
    if (List.range 8).any fun t => threads.getLsbD t && decide (words ≤ entry.getD t 0) then .error (at' + 16)
    else
      let code := wordsOf words (bytes.drop (at' + 64))
      match code.zipIdx.find? fun x => !oneskWordGood x.1 x.2 words with
      | some x => .error (at' + 64 + 4 * x.2)
      | none => .ok { entry := entry, threads := threads, code := code,
                      producer := (List.range 6).map fun q => f 17 3 / 2 ^ (3 * q) % 8,
                      data := (bytes.drop (at' + 64 + 4 * words)).take data }

/-- The images of an ONESK section, each at the first 64-byte boundary after the one before (R257). -/
def parseImages (bytes : List Byte) : Nat → Nat → Except Nat (List OneskImage)
  | 0, _ => .ok []
  | n + 1, at' =>
    match parseImage bytes at' with
    | .error e => .error e
    | .ok img =>
      let next := ceilDiv (at' + 64 + 4 * img.code.length + img.data.length) 64 * 64
      match parseImages bytes n next with
      | .error e => .error e
      | .ok rest => .ok (img :: rest)

/-- The words that a thread can reach from word `i` of an image of `n` words: by fall-through, by either outcome of a TEST, into the
target of a CALL and on to the word after it; a GOTO or a STOP ends the path (R76). -/
def wordsAfter (w : Word) (i n : Nat) : List Nat :=
  let op := (w.extractLsb' 0 8).toNat
  let jump (off : Int) : Nat := ((i : Int) + off).toNat
  let after :=
    if op = 0x22 ∨ op = 0x3F then []
    else if op = 0x20 then [i + 1, jump (w.extractLsb' 20 12).toInt]
    else if op = 0x21 then [jump (w.extractLsb' 12 20).toInt, i + 1]
    else [i + 1]
  after.filter fun k => decide (k < n)

/-- Every word reached from a list of words still to visit; `fuel` is at least the number of visits (R76). -/
def reachedWords (code : List Word) : Nat → List Nat → List Nat → List Nat
  | 0, _, seen => seen
  | _, [], seen => seen
  | fuel + 1, i :: rest, seen =>
    if seen.contains i then reachedWords code fuel rest seen
    else reachedWords code fuel (wordsAfter (code.getD i 0) i code.length ++ rest) (i :: seen)

/-- The word is a PUSH to a queue whose named producer is another thread than `t` (R76, R258). -/
def wrongPush (producer : List Nat) (t : Nat) (w : Word) : Bool :=
  (w.extractLsb' 0 8).toNat == 0x28 && producer.getD (w.extractLsb' 8 4).toNat 0 != t

/-- The lowest word of an image at which a started thread can reach a push that is not its own (R76). -/
def OneskImage.wrongPush (x : OneskImage) : Option Nat :=
  let fuel := 2 * x.code.length + 2
  let bad (t : Nat) : List Nat :=
    (reachedWords x.code fuel [x.entry.getD t 0] []).filter fun i => Machine.wrongPush x.producer t (x.code.getD i 0)
  (((List.range 8).filter fun t => x.threads.getLsbD t).flatMap bad).min?

/-- The offset in its section of the first wrong push, image by image (R76, R252, R257). -/
def producerFault : Nat → List OneskImage → Option Nat
  | _, [] => none
  | at', x :: rest =>
    match x.wrongPush with
    | some i => some (at' + 64 + 4 * i)
    | none => producerFault (ceilDiv (at' + 64 + 4 * x.code.length + x.data.length) 64 * 64) rest

/-- An ONESK section holds four images; why it is refused (R252: 0x08 ONESK_ENCODING, 0x10 QUEUE_PRODUCER). -/
def oneskCheck (bytes : List Byte) : Except (Byte × Nat) (List OneskImage) :=
  match parseImages bytes 4 0 with
  | .error at' => .error (0x08, at')
  | .ok images =>
    match producerFault 0 images with
    | some at' => .error (0x10, at')
    | none => .ok images

/-! ## What the bundle holds -/

/-- A section's DIE as the unit it names; none for every one. -/
def SecEntry.dieOf (e : SecEntry) : Option DieId := if h : e.die < 16 then some ⟨e.die, h⟩ else none

/-- A section's DIE as a sill; none for every one. -/
def SecEntry.sillOf (e : SecEntry) : Option SillId :=
  if h : 0x10 ≤ e.die ∧ e.die < 0x1C then some ⟨e.die - 0x10, by omega⟩ else none

/-- The program of one section; an ONESK section that breaks R257 stands as one of no image until step 5 refuses it (R251). -/
def secProgram (image : List Byte) (e : SecEntry) : Program :=
  let bytes := secBytes image e
  { shape := e.shape, die := e.dieOf, variant := variantCounts e.variant,
    onesk := if e.kind = 0x20 then (match parseImages bytes 4 0 with
      | .ok l => some l
      | .error _ => some []) else none,
    core := if e.kind = 0x10 then some bytes else none,
    switch := if e.kind = 0x11 then some bytes else none }

/-- An update list from its section (R162, R163; log entry 11). -/
def secList (image : List Byte) (e : SecEntry) : UpdateList :=
  match Config.splitUpdateList (secBytes image e) with
  | none => {}
  | some (shards, hypers) => { shards := shards.map parseShard, hypers := hypers.map parseHyper }

/-- The entries of a COLLECTIVES section (R217). -/
def collsOf (image : List Byte) (e : SecEntry) : List CollEntry :=
  (List.range (e.length / 256)).map fun i => parseColl ((secBytes image e).drop (256 * i))

/-- The bundle of an image that has passed the table checks; programs of another GEN's private form are left out (R256). -/
def buildBundle (image : List Byte) (addr : Nat) (mode : OpMode) : Bundle :=
  let es := secEntries image
  let own := decide (fieldAt image 12 4 = 1)
  let of' (k : Nat) : List SecEntry := es.filter fun e => e.kind = k
  { addr := addr, length := image.length, digest := imageDigest image, shapes := BitVec.ofNat 8 (fieldAt image 8 1),
    features := BitVec.ofNat 256 (fieldAt image 16 32), mode := mode,
    programs := (es.filter fun e => e.isProgram && (e.kind = 0x20 || own)).map (secProgram image),
    loftMaps := (of' 1).map fun e => (e.shape, e.dieOf, BitVec.ofNat 16384 (leNat (secBytes image e))),
    ledger := (of' 2).map fun e =>
      (e.shape, e.dieOf, ((Config.parseLedgerMap (secBytes image e)).getD []).map fun x => ⟨x.1, x.2.1, x.2.2⟩),
    lists := (of' 3).map fun e => (e.shape, e.sillOf, secList image e),
    groups := (of' 4).map fun e => (e.shape, (Config.parseGroups (secBytes image e)).getD []),
    colls := (of' 5).map fun e => (e.shape, collsOf image e),
    experts := (of' 6).map fun e =>
      (e.shape, (List.range (e.length / 8)).map fun i => parseExpert (((secBytes image e).drop (8 * i)).take 8)) }

/-! ## Binding (R246 to R249, R256) -/

/-- The private sections of a die at a shape and variant. -/
def privateOf (b : Bundle) (d : DieId) (shape : Nat) (variant : List Nat) : Option (List Byte × List Byte) :=
  let mine := b.programs.filter fun p => p.shape = shape && p.variant = variant
  match specific d (mine.filterMap fun p => p.core.map fun x => (p.die, x)),
      specific d (mine.filterMap fun p => p.switch.map fun x => (p.die, x)) with
  | some c, some w => some (c, w)
  | _, _ => none

/-- The Onesk images of a die at a shape and variant. -/
def oneskOf (b : Bundle) (d : DieId) (shape : Nat) (variant : List Nat) : Option (List OneskImage) :=
  specific d ((b.programs.filter fun p => p.shape = shape && p.variant = variant).filterMap fun p =>
    p.onesk.map fun x => (p.die, x))

/-- The variants of a shape in section-table order (R247). -/
def bundleVariants (b : Bundle) (shape : Nat) : List (List Nat) :=
  ((b.programs.filter fun p => p.shape = shape).map Program.variant).eraseDups

/-- A shape's section set holds a private program for a die (R256). -/
def holdsPrivate (b : Bundle) (d : DieId) (shape : Nat) : Bool :=
  (bundleVariants b shape).any fun v => (privateOf b d shape v).isSome

/-- The program of a die at a shape and variant: the private one where the shape's section set holds a private program, else the
Onesk images (R256). -/
def dieProgram (b : Bundle) (d : DieId) (shape : Nat) (variant : List Nat) : Option Program :=
  if holdsPrivate b d shape then
    (privateOf b d shape variant).map fun x =>
      { shape := shape, die := some d, variant := variant, onesk := none, core := some x.1, switch := some x.2 }
  else
    (oneskOf b d shape variant).map fun o =>
      { shape := shape, die := some d, variant := variant, onesk := some o, core := none, switch := none }

/-- What a private program says (R242). -/
def Program.privateForm (p : Program) : DieProgram := Config.privateProgram (p.core.getD []) (p.switch.getD [])

/-- The switch program of a die; the translator builds an Onesk program's segments from its commands as they run (R260). -/
def Program.segments (p : Program) : List SwitchSegment := if p.onesk.isSome then [] else p.privateForm.segments

/-- Enabled bents in each physical bay of a die (R247). -/
def RingDie.bayCounts (r : RingDie) : List Nat :=
  (List.range 4).map fun b => (List.finRange 16).countP fun i => decide (i.val / 4 = b) && r.bentOn i

/-- The least rotation that binds counts to a variant (R247). -/
def bindRotation (counts variant : List Nat) : Option (Fin 4) :=
  (List.finRange 4).find? fun rho => (List.range 4).all fun j => counts.getD ((j + rho.val) % 4) 0 == variant.getD j 0

/-- The first variant that binds a die, with its rotation and program (R247). -/
def bindDie (b : Bundle) (r : RingDie) (d : DieId) (shape : Nat) : Option (Fin 4 × Program) :=
  (bundleVariants b shape).findSome? fun v =>
    match bindRotation r.bayCounts v, dieProgram b d shape v with
    | some rho, some p => some (rho, p)
    | _, _ => none

/-- The segments of a die's program as bound to it: none where it does not bind (R247). -/
def State.boundSegments (s : State) (b : Bundle) (shape : Nat) (d : DieId) : List SwitchSegment :=
  match bindDie b (s.die d) d shape with
  | some (rho, p) => p.segments.map ({ s.die d with rho := rho } : RingDie).bindSegment
  | none => []

/-- What the checks of R83 find in the bound program of a die (R247). -/
def State.boundFault (s : State) (b : Bundle) (shape : Nat) (d : DieId) : Option Byte :=
  switchFault d (s.boundSegments b shape d) (s.boundSegments b shape)

/-- Every die has a variant that binds at the shape (R246, R249). -/
def State.bindsAll (s : State) (b : Bundle) (shape : Nat) : Bool :=
  allDies.all fun d => (bindDie b (s.die d) d shape).isSome

/-- Every die binds at the shape, and the bound programs pass the checks of R83 again (R246, R247, R249). -/
def State.binds (s : State) (b : Bundle) (shape : Nat) : Bool :=
  s.bindsAll b shape && allDies.all fun d => (s.boundFault b shape d).isNone

/-- Some shape of the bundle uses Onesk because its private sections carry another GEN (R256). -/
def usesOnesk (b : Bundle) (shape : Nat) (gen : Nat) (es : List SecEntry) : Bool :=
  decide (gen ≠ 1) && (es.any fun e => (e.kind = 0x10 || e.kind = 0x11) && e.shape = shape) &&
    b.programs.any fun p => p.shape = shape && p.onesk.isSome

/-! ## The checks of a LOAD (R251, R252, R378) -/

/-- The header (R243, R252). -/
def State.headerFault (s : State) (image : List Byte) (length : Nat) : Option LoadFail :=
  let f := fieldAt image
  if f 0 4 ≠ 0x434D5242 ∨ f 4 2 ≠ 1 ∨ f 8 1 ≥ 32 ∨ f 10 2 ≥ 2 ^ 15 ∨ f 108 148 ≠ 0 ∨ f 96 8 > 2 ^ 36 ∨ f 96 8 ≠ length then
    some (refuse 0x01)
  else if Config.sha384 (digestInput image) ≠ imageDigest image then some (refuse 0x02)
  else if f 10 2 ≠ s.moduleId.toNat then some (refuse 0x03)
  else if f 9 1 ≠ (s.cfg.memMap.extractLsb' 0 5).toNat then some (refuse 0x06)
  else none

/-- The section table (R244, R245), and GEN (R256). -/
def sectionsFault (image : List Byte) : Option LoadFail :=
  let n := fieldAt image 6 2
  let es := secEntries image
  if n = 0 ∨ n > 1024 ∨ image.length < 256 + 32 * n then some (refuse 0x04)
  else match tableFault image es with
    | some i => some (refuse 0x04 i)
    | none =>
      if fieldAt image 12 4 = 1 then none
      else (es.zipIdx.find? fun x => (x.1.kind = 0x10 || x.1.kind = 0x11) &&
        !(es.any fun g => g.kind = 0x20 && g.shape = x.1.shape)).map fun x => refuse 0x05 x.2

/-- FEATURES (R251, R378). -/
def State.featuresFault (s : State) (b : Bundle) : Bool :=
  decide (b.features &&& ~~~s.mgmt.accepted ≠ 0) ||
  (match s.cfg.mode with
    | .train => b.features.getLsbD 2
    | .rollout => !b.features.getLsbD 2
    | .calibrate => b.programs.any fun p => p.onesk.isNone)

/-- LEDGER_MAP changes the FORMAT of an entry that the bundle in effect uses (R252, 0x24). -/
def ledgerChanged (old new : List LedgerInit) : Bool :=
  new.any fun x => old.any fun y => y.entry = x.entry && y.format ≠ x.format

/-- What the verifier finds in one section (R252). -/
def State.sectionFault (s : State) (image : List Byte) (b : Bundle) (e : SecEntry) : Option (Byte × Nat) :=
  let bytes := secBytes image e
  let i := s.interleave
  match e.kind with
  | 0x20 =>
    match oneskCheck bytes with
    | .error x => some x
    | .ok _ => none
  | 0x11 =>
    if fieldAt image 12 4 = 1 then
      let v := variantCounts e.variant
      let dies := match e.dieOf with
        | some d => [d]
        | none => allDies
      let segments (n : DieId) : List SwitchSegment := ((dieProgram b n e.shape v).map Program.segments).getD []
      dies.findSome? fun d =>
        match privateOf b d e.shape v with
        | some (core, switch) =>
          (programFault d (Config.privateProgram core switch) ((bundleLedger b d e.shape).map fun x => (x.entry, x.format))
            (bundleLoft b d e.shape) segments).map fun reason => (reason, Config.privateOffset bytes reason)
        | none => none
    else none
  | 2 =>
    match s.loader.inEffect with
    | none => none
    | some old =>
      let dies := match e.dieOf with
        | some d => [d]
        | none => allDies
      let new := ((Config.parseLedgerMap bytes).getD []).map fun x => (⟨x.1, x.2.1, x.2.2⟩ : LedgerInit)
      if dies.any fun d => ledgerChanged (bundleLedger old d s.kp.shape) new then some (0x24, 0) else none
  | 3 =>
    let l := secList image e
    if s.cfg.mode = .rollout ∧ l.shards ≠ [] then some (0x20, 0)
    else (listFault i l).map fun k => (0x20, 64 * k)
  | 4 =>
    let bad (g : List Nat) : Bool :=
      !(g.zip (g.drop 1)).all (fun x => decide (x.1 < x.2)) || !g.contains s.moduleId.toNat || decide (g.length > 32768)
    let groups := (Config.parseGroups bytes).getD []
    if groups.length > 16 ∨ groups.any bad then some (0x21, 0) else none
  | 6 =>
    let experts := (List.range (e.length / 8)).map fun i => parseExpert ((bytes.drop (8 * i)).take 8)
    (experts.zipIdx.find? fun x => x.1.reserved).map fun x => (0x23, 8 * x.2)
  | _ => none

/-- Bytes of the copy elements and scales, or of the signs and results, of blocks of an entry (R218). -/
def collSizes (e : CollEntry) (blocks : Nat) : Nat × Nat :=
  if e.vote then (4 * blocks, 8 * blocks) else if e.copyA4 then (16 * blocks, 2 * blocks) else (32 * blocks, blocks)

/-- The areas of an entry's chunk that stand on every member: copies, or signs and results (R218). -/
def copyAreas (l : UpdateList) (e : CollEntry) (n c : Nat) : List (Nat × Nat) :=
  let (x, y) := collSizes e (chunkLength l e n c)
  [(elemAt e n c, x), (scaleAt e n c, y)]

/-- The staging area of an owned chunk: one slot for each member (R218). -/
def stageArea (e : CollEntry) (n c : Nat) : Nat × Nat := (stageAt e n c 0, 4224 * n)

/-- The areas that entry `i` has in a stack, each with its chunk: copies, signs and results of every chunk, and the staging of the
chunks that member `me` owns, apart from the staging of chunk `c` of entry `x` (R218). -/
def otherAreas (lists : SillId → UpdateList) (t : LinkTables) (self : Nat) (x c : Nat) (m : SillId) : List (Nat × Nat) :=
  t.colls.zipIdx.flatMap fun y =>
    let g := t.groups.getD y.1.group []
    let n := g.length
    ((List.range y.1.chunks).filter fun k => stackOf y.1.chunks n k = m).flatMap fun k =>
      copyAreas (lists m) y.1 n k ++
        (if !y.1.vote && ownerOf y.1.chunks n k = g.idxOf self && !(y.2 = x && k = c) then [stageArea y.1 n k] else [])

/-- Entry `x` keeps to R218 at a shape's tables and lists: its areas lie in their local windows, every block of a sum, copy, sign or
result range is the same block of the shards that own it, and its staging meets no other area of the bundle. -/
def State.collGood (s : State) (lists : SillId → UpdateList) (t : LinkTables) (x : Nat) (e : CollEntry) : Bool :=
  match t.groups[e.group]? with
  | none => false
  | some g =>
    let n := g.length
    let me := g.idxOf s.moduleId.toNat
    let i := s.interleave
    !e.reserved && (!e.vote || (e.stage ++ e.grad).all fun a => decide (a = 0)) && (List.range e.chunks).all fun c =>
      let m := stackOf e.chunks n c
      let l := lists m
      let blocks := chunkLength l e n c
      let covered := chunkOwned l e n c && decide (ownedBlocks l e n c = blocks)
      (copyAreas l e n c).all (inLocal i) &&
      (if e.vote then covered
       else if ownerOf e.chunks n c = me then
        let stage := stageArea e n c
        covered && inLocal i (gradAt e n c, 128 * blocks) && inLocal i stage &&
          !(l.shards.any fun h => (shardAreas h).any (rangesMeet stage)) &&
          !((otherAreas lists t s.moduleId.toNat x c m).any (rangesMeet stage))
       else true)

/-- The shapes at which a COLLECTIVES section stands: its own, or each shape with a program that no more specific section serves
(R245). -/
def collShapes (b : Bundle) (shape : Nat) : List Nat :=
  if shape ≠ 0 then [shape]
  else [12, 13, 14, 15, 16].filter fun n => !(bundleVariants b n).isEmpty && !(b.colls.any fun x => x.1 = n)

/-- The first entry of a COLLECTIVES section that breaks R218 at a shape the section serves. -/
def State.collFault (s : State) (b : Bundle) (shape : Nat) (colls : List CollEntry) : Option Nat :=
  (collShapes b shape).findSome? fun n =>
    let t := { bundleTables b n with colls := colls }
    (colls.zipIdx.find? fun y => !s.collGood (fun m => bundleList b m n) t y.2 y.1).map Prod.snd

/-- The tables and programs in ascending DIE order (R251, step 5). -/
def State.contentFault (s : State) (image : List Byte) (b : Bundle) : Option LoadFail :=
  let es := (secEntries image).zipIdx
  (List.range 256).findSome? fun die =>
    (es.filter fun x => x.1.die = die).findSome? fun x =>
      if x.1.kind = 5 then
        (s.collFault b x.1.shape (collsOf image x.1)).map fun k => refuse 0x22 x.2 (256 * k)
      else (s.sectionFault image b x.1).map fun y => refuse y.1 x.2 y.2

/-- The checks of R83 on the program as bound at the present shape (R247); the refusal names the die's SWITCH_PROGRAM section. -/
def State.bindFault (s : State) (image : List Byte) (b : Bundle) : Option LoadFail :=
  allDies.findSome? fun d => (s.boundFault b s.kp.shape d).map fun reason =>
    let at' := (secEntries image).findIdx fun e => e.kind = 0x11 && e.shape = s.kp.shape && (e.dieOf = some d || e.dieOf = none)
    refuse reason at' (Config.privateOffset (secBytes image ((secEntries image).getD at' ⟨0, 0, 0, 0, false, 0, 0⟩)) reason)

/-- The checks of a LOAD in R251's order. -/
def State.checkBundle (s : State) (image : List Byte) (addr : Nat) : Except LoadFail Bundle :=
  match s.headerFault image image.length with
  | some f => .error f
  | none =>
    match sectionsFault image with
    | some f => .error f
    | none =>
      let b := buildBundle image addr s.cfg.mode
      if s.featuresFault b then .error { status := .featureAbsent }
      else if !s.bindsAll b s.kp.shape then .error { status := .shapeMismatch }
      else
        match (s.contentFault image b).orElse fun _ => s.bindFault image b with
        | some f => .error f
        | none => .ok b

/-! ## The switch (R247, R252 to R255) -/

/-- The logical bay of a physical bay under a rotation (R247). -/
def logicalBay (rho : Fin 4) (p : BayIx) : Nat := (p.val + 4 - rho.val) % 4

/-- What an Onesk image holds, in the shape of a bay's program (R257). -/
def OneskImage.core (i : OneskImage) : CoreProgram :=
  { code := i.code
    entries := ((List.finRange 8).filter fun t => i.threads.getLsbD t.val).map fun t => (t, i.entry.getD t.val 0)
    producers := (List.range 6).map fun q => ⟨i.producer.getD q 0 % 8, Nat.mod_lt _ (by omega)⟩
    pushes := [], data := i.data, pool := [] }

/-- What a program puts into logical bay `j`: code, the threads that start, producers by queue, data image (R242, R257). -/
def Program.core' (p : Program) (j : Nat) : CoreProgram :=
  (match p.onesk with
    | some images => images[j]?.map OneskImage.core
    | none => p.privateForm.cores[j]?).getD default

/-- A write to an instruction bank: one aimed at the active bank is dropped and counted (R253). -/
def State.writeBank (s : State) (b : BayId) (half : Fin 2) (code : List Word) : State :=
  if half = (s.bay b).activeBank then s.countRing b.die 0x17
  else s.modBay b fun y => { y with banks := y.banks.set half code }

/-- A write to a half of a die's switch-program store: one aimed at the active half is dropped and counted (R253). -/
def State.writeSwitch (s : State) (d : DieId) (half : Fin 2) (l : List SwitchSegment) : State :=
  if half = (s.die d).activeHalf then s.countRing d 0x17
  else s.modDie d fun r => { r with switchHalves := r.switchHalves.set half l }

/-- A write to a sill's update list: one aimed at the active half is dropped and counted (R253). -/
def State.writeList (s : State) (m : SillId) (half : Fin 2) (l : UpdateList) : State :=
  if half = (s.sill m).activeList then s.countSill m 0x2E 1
  else s.modSill m fun x => { x with lists := x.lists.set half l }

/-- A write to the edge dies' tables: one aimed at the active half is dropped and counted (R253). -/
def State.writeTables (s : State) (half : Fin 2) (t : LinkTables) : State :=
  if half = s.coll.activeTables then allEdges.foldl (fun s e => s.countEdge e 0x0E) s
  else { s with coll := { s.coll with tables := s.coll.tables.set half t } }

/-- A die's bound program goes into its inactive halves (R247, R253). -/
def State.stageDie (s : State) (b : Bundle) (d : DieId) : State :=
  match bindDie b (s.die d) d s.kp.shape with
  | none => s
  | some (rho, p) =>
    let s := (List.finRange 4).foldl (fun s y =>
      s.writeBank ⟨d, y⟩ ((s.bay ⟨d, y⟩).activeBank + 1) (p.core' (logicalBay rho y)).code) s
    s.writeSwitch d ((s.die d).activeHalf + 1) (s.boundSegments b s.kp.shape d)

/-- A bundle goes into every inactive half, bound at the present shape: the load is pending (R249, R253, R254). -/
def State.stageBundle (s : State) (b : Bundle) : State :=
  let s := allDies.foldl (fun s d => s.stageDie b d) s
  let s := allSills.foldl (fun s m => s.writeList m ((s.sill m).activeList + 1) (bundleList b m s.kp.shape)) s
  let s := s.writeTables (s.coll.activeTables + 1) (bundleTables b s.kp.shape)
  { s with loader := { s.loader with stagedAt := s.kp.shape } }

/-- A bay's bank switches, its data image is written, and its threads stand ready to start at their entry points (R254). -/
def Bay.install (y : Bay) (c : CoreProgram) : Bay :=
  { y with
    activeBank := y.activeBank + 1
    entries := c.entries
    dataImage := c.data
    dmem := y.dmem.write 0 c.data
    queues := Vector.ofFn fun q : Fin 6 => { y.queues[q] with producer := c.producers.getD q.val 0 } }

/-- A die's halves switch, and it takes its loft map (R119, R247, R254). -/
def RingDie.install (r : RingDie) (rho : Fin 4) (p : Program) (map : BitVec 16384) : RingDie :=
  RingDie.noteLow { r with
    rho := rho
    bays := Vector.ofFn fun b : Fin 4 => r.bays[b].install (p.core' (logicalBay rho b))
    activeHalf := r.activeHalf + 1
    pooled := map
    poolDefined := true
    nextSegment := 0
    lastEnded := none }

/-- All halves switch together to the staged bundle (R254). -/
def State.flip (s : State) (b : Bundle) : State :=
  { s with
    dies := Vector.ofFn fun d : Fin 16 =>
      match bindDie b s.dies[d] d s.kp.shape with
      | some (rho, p) => s.dies[d].install rho p (bundleLoft b d s.kp.shape)
      | none => s.dies[d]
    sills := s.sills.map fun m => { m with activeList := m.activeList + 1 }
    coll := { s.coll with activeTables := s.coll.activeTables + 1 }
    loader := { s.loader with bound := true } }

/-- A bundle bound at the present shape and put into effect (R247, R249). -/
def State.bindAll (s : State) (b : Bundle) : State := (s.stageBundle b).flip b

/-- FORMAT and SCALE of named ledger entries written, LOW_RUN set to 0 (R252). -/
def RingDie.initLedger (r : RingDie) (l : List LedgerInit) : RingDie :=
  l.foldl (fun r x =>
    let w := (LedgerEntry.mk x.scale.toNat 0 false false false false x.format.toNat 0).toWord
    { r with ledger := Sparse.set ledgerReset r.ledger x.entry w, ledgerStart := Sparse.set ledgerReset r.ledgerStart x.entry w }) r

/-- The entries that a switch writes: all on a first load, those new to the map after a mode change, none else (R252, R378). -/
def State.ledgerToInit (s : State) (b : Bundle) (d : DieId) : List LedgerInit :=
  let new := bundleLedger b d s.kp.shape
  match s.loader.inEffect with
  | none => new
  | some old =>
    if s.loader.modeChanged then new.filter fun x => !(bundleLedger old d s.kp.shape).any fun y => y.entry = x.entry else []

/-- Every half switches to a bundle (R253, R254). -/
def State.switchTo (s : State) (b : Bundle) : State :=
  let s := { s with dies := Vector.ofFn fun d : Fin 16 => s.dies[d].initLedger (s.ledgerToInit b d) }
  ({ s with loader := { s.loader with inEffect := some b, modeChanged := false } } : State).bindAll b

/-- The image of a bundle as module memory holds it. -/
def State.bundleImage (s : State) (b : Bundle) : List Byte := s.readMem b.addr b.length

/-- The bundle image still has its DIGEST (R249, R298). -/
def State.digestHolds (s : State) (b : Bundle) : Bool :=
  decide (Config.sha384 (digestInput (s.bundleImage b)) = b.digest)

/-- The record of a refused load: its reason, section and offset (R252, R416). -/
def State.reportLoad (s : State) (f : LoadFail) (tag : Word) : State :=
  s.report { cls := .work, code := 0x1807, status := f.status, subject := idModule, tag := tag,
             reporter := idKp s.fw.activeB 2,
             detail := BitVec.ofNat 64 (f.reason.toNat + 2 ^ 8 * (f.index % 65536) + 2 ^ 24 * f.offset) }

/-- A pending load switches and its LOAD completes (R254). Where the shape has changed since it was loaded, its DIGEST is checked
again and it is bound anew; the answer names what stops it (R249, R255). -/
def State.trySwitch (s : State) : State × Option Status :=
  match s.loader.pending with
  | none => (s, none)
  | some (b, tag) =>
    let s : State := { s with loader := { s.loader with pending := none } }
    if s.loader.stagedAt = s.kp.shape then ((s.switchTo b).respond tag .done, none)
    else if !s.digestHolds b then
      ((s.reportLoad (refuse 0x02) tag).respond tag .verifyFailed (refuse 0x02).data, some .verifyFailed)
    else if s.binds b s.kp.shape then ((s.switchTo b).respond tag .done, none)
    else (s.respond tag .shapeMismatch, some .shapeMismatch)

/-- A pending load switches outside a fence (R255). -/
def State.switchPending (s : State) : State := s.trySwitch.1

/-- The loader takes a bundle that has passed (R253 to R256): it replaces a pending load, stands in every inactive half, and
switches at once unless the module is RUNNING. -/
def State.takeBundle (s : State) (b : Bundle) (gen : Nat) (es : List SecEntry) (tag : Word) : State :=
  let s := match s.loader.pending with
    | some (_, old) => s.respond old .cancelled
    | none => s
  let s := if usesOnesk b s.kp.shape gen es then s.postEvent 0x06 .done 0 (BitVec.ofNat 384 s.kp.shape) else s
  let s : State := { s.stageBundle b with loader := { (s.stageBundle b).loader with pending := some (b, tag) } }
  if s.kp.state = .running then s else s.switchPending

end Sys2Proof.Machine
end

