-- ==== Sys2Proof/Machine/Maintenance.lean ====
section
/-! DEFINITION. Wear and maintenance: bents that fail and the shape (R358, R359), loft rows (R360), the items of R351 at fences,
in idle states and under a claim (R353, R354), and what the module does as it comes to an idle state (R249, R255, R361). -/

namespace Sys2Proof.Machine

/-! ## The shape (R2, R248, R359) -/

/-- Bents of a die that can work: fused on and not failed (R1, R359). -/
def RingDie.usable (r : RingDie) : List BentIx :=
  (List.finRange 16).filter fun b => r.enabled.getLsbD b.val && !r.failed.getLsbD b.val

/-- Sublists of a length. -/
def sublistsOf {α : Type} : List α → Nat → List (List α)
  | _, 0 => [[]]
  | [], _ + 1 => []
  | x :: xs, n + 1 => (sublistsOf xs n).map (fun l => x :: l) ++ sublistsOf xs (n + 1)

/-- A mask of bents. -/
def bentMask (l : List BentIx) : BitVec 16 := l.foldl (fun m b => m ||| BitVec.ofNat 16 (2 ^ b.val)) 0

/-- The sets of bents a die may retire to run at a shape: a swap re-enables retired bents, a drop retires more (R359). -/
def RingDie.retireSets (r : RingDie) (shape : Nat) : List (List BentIx) :=
  let free := r.usable
  let old := free.filter fun b => r.retired.getLsbD b.val
  let k := free.length - shape
  if k ≤ old.length then sublistsOf old k
  else (sublistsOf (free.filter fun b => !r.retired.getLsbD b.val) (k - old.length)).map fun l => old ++ l

/-- The sets that leave a variant that the loaded bundle carries, of these those that leave the counts the firmware aims for where
some do; where no set leaves such a variant, those that leave the counts aimed for, else all (R248, R375). -/
def State.goodSets (s : State) (d : DieId) (shape : Nat) : List (List BentIx) :=
  let all := (s.die d).retireSets shape
  let counts (l : List BentIx) : List Nat := ({ s.die d with retired := bentMask l }).bayCounts
  let aimed (l : List (List BentIx)) : List (List BentIx) :=
    l.filter fun x => (bindRotation (counts x) (s.retirePattern shape)).isSome
  let variants := match s.loader.inEffect with
    | some b => bundleVariants b shape
    | none => []
  let carried := all.filter fun l => variants.any fun v => (bindRotation (counts l) v).isSome
  let from' := if carried ≠ [] then carried else all
  if aimed from' ≠ [] then aimed from' else from'

/-- A die retires bents to run at a shape; which of the sets that suit it takes is free (R359; log entry 8). The bents
that leave service are off: banks, accumulators and wake deadline (R70, R327). -/
def State.retireOn (s : State) (d : DieId) (shape : Nat) : State :=
  let sets := s.goodSets d shape
  let (w, s) := if sets.length ≤ 1 then ((0 : DWord), s) else s.takeFree
  let mask := bentMask (sets.getD (w.toNat % sets.length) [])
  s.modDie d fun r =>
    ({ r with retired := mask } : RingDie).offDisabled

/-- The shape the module can run: the least over its dies, never above the present one (R2, R359). -/
def State.newShape (s : State) : Nat := allDies.foldl (fun n d => min n (s.die d).usable.length) s.kp.shape

/-- The failed bents' masks brought up to date (R359). -/
def State.markFailed (s : State) : State :=
  s.job.failedBents.foldl (fun s x => s.modDie x.1 fun r => ({ r with
    failed := r.failed ||| BitVec.ofNat 16 (2 ^ x.2.val)
    retired := r.retired &&& ~~~BitVec.ofNat 16 (2 ^ x.2.val) } : RingDie).offDisabled) s

/-- A spare bent has been used up: the failed bent's record rises to DEGRADED (R342, R356, R359). -/
def State.reportSwap (s : State) (x : DieId × BentIx) : State :=
  s.report { cls := .degraded, code := 0x5802, subject := idDie x.1 x.2.val, reporter := idDie x.1 x.2.val,
             detail := BitVec.ofNat 64 x.2.val }

/-- Failed bents leave service: swap or drop (R359). The answer of `newShape` below 12 takes the module to FAULTED. -/
def State.retireBents (s : State) : State :=
  if s.job.failedBents = [] then s
  else
    let failed := s.job.failedBents
    let s := s.markFailed
    let s : State := { s with job := { s.job with failedBents := [] } }
    let old := s.kp.shape
    let new := s.newShape
    if new < 12 then s.goFaulted 0x5803 idModule .shapeMismatch (BitVec.ofNat 64 (old + 256 * new))
    else
      let s : State := { s with kp := { s.kp with shape := new }, loader := { s.loader with bound := false, stagedAt := 0 } }
      let s := allDies.foldl (fun s d => s.retireOn d new) s
      if new < old then
        (s.report { cls := .degraded, code := 0x5803, subject := idModule, reporter := idKp s.fw.activeB 2,
                    detail := BitVec.ofNat 64 (old + 256 * new) }).evalCauses
      else failed.foldl (fun s x => s.reportSwap x) s

/-- The SHAPE event: old and new shape, and whether a program binds (R249, R287). -/
def State.shapeEvent (s : State) (old : Nat) (binds : Bool) : State :=
  if s.kp.shape = old then s
  else s.postEvent 0x05 .done 0 (BitVec.ofNat 384 (old + 2 ^ 8 * s.kp.shape + 2 ^ 16 * bit binds))

/-- The bundle in effect is bound at the present shape after its DIGEST is checked again; the answer names what stops it
(R249). -/
def State.rebind (s : State) : State × Option Status :=
  match s.loader.inEffect with
  | none => (s, none)
  | some b =>
    if s.loader.bound then (s, none)
    else if !s.digestHolds b then (s.reportLoad (refuse 0x02) 0, some .verifyFailed)
    else if s.binds b s.kp.shape then (s.bindAll b, none)
    else (s, some .shapeMismatch)

/-! ## Loft rows (R360) -/

/-- What the private program in effect can reserve at once in a slice of a die (R120). -/
def State.programMinimum (s : State) (d : DieId) (slice : Nat) : Nat :=
  match s.loader.inEffect with
  | none => 0
  | some b =>
    match bindDie b (s.die d) d s.kp.shape with
    | some (_, p) => if p.onesk.isSome then 0 else (p.privateForm.cores.map fun c => poolPeak slice [] c.pool).sum
    | none => 0

/-- A slice's pooled minimums still fit its buffers in service: those of the program's text and those reserved now (R120, R360). -/
def State.minimumsFit (s : State) (d : DieId) (slice : Nat) : Bool :=
  let r := s.die d
  decide ((r.allStreams.map fun x => x.2.2.reserveIn slice).sum ≤ (r.pooledIn slice).length) &&
    decide (s.programMinimum d slice ≤ (r.pooledIn slice).length)

/-- A withdrawn buffer breaks the program: the bundle marks it static, or its slice's minimums no longer fit (R360). -/
def State.breaks (s : State) (d : DieId) (buffer : Nat) : Bool :=
  (s.die d).poolDefined && (!(s.die d).pooled.getLsbD buffer || !s.minimumsFit d (sliceOfBuffer buffer))

/-- A failed loft row gets a spare row of its slice, or its buffer is withdrawn (R360). The record's FAULT event names the
buffer. -/
def State.repairLoftRow (s : State) (d : DieId) (row : Nat) : State :=
  let slice : Fin 16 := ⟨row / rowsPerSlice % 16, Nat.mod_lt _ (by omega)⟩
  let buffer := row / 8
  let spare := decide ((s.die d).sparesUsed[slice] < 32)
  let s := s.modDie d fun r =>
    let r := { r with failedRows := r.failedRows.filter fun x => x ≠ row }
    if spare then { r with sparesUsed := r.sparesUsed.set slice (r.sparesUsed[slice] + 1) }
    else { r with withdrawn := if r.withdrawn.contains buffer then r.withdrawn else r.withdrawn ++ [buffer] }
  let s := s.report {
    cls := .degraded, code := 0x5804, subject := idDie d (0x30 + slice.val) (row % rowsPerSlice),
    reporter := idDie d (0x30 + slice.val) (row % rowsPerSlice),
    detail := BitVec.ofNat 64 (buffer + 2 ^ 16 * bit (!spare)) }
  if spare then s
  else
    let s := (s.modDie d RingDie.noteLow).evalCauses
    if s.breaks d buffer && (s.kp.state = .running || s.kp.state = .armed) then s.enter .quiesced .internal else s

/-- Failed loft rows of every die. -/
def State.failedLoftRows (s : State) : List (DieId × Nat) :=
  allDies.flatMap fun d => (s.die d).failedRows.map fun x => (d, x)

/-- The first `n` failed loft rows repaired (R360). -/
def State.repairLoft (s : State) (n : Nat) : State :=
  (s.failedLoftRows.take n).foldl (fun s x => s.repairLoftRow x.1 x.2) s

/-! ## Items (R351 to R354) -/

/-- Microseconds of an item (R351). -/
def State.itemCost (s : State) (i : Item) : Nat :=
  if i.code = itemRetrain then 400
  else if i.code = itemSoftRepair then 20 * s.failedStackRows.length
  else if i.code = itemLoftRow then 5 * s.failedLoftRows.length
  else if i.code = itemScan then 150000
  else if i.code = itemMargin then 30000
  else 2400000

/-- Items that run at a fence within the budget (R351); the others run under a claim or in an idle state. -/
def Item.atFence (i : Item) : Bool := decide (i.code ≤ itemLoftRow)

/-- A fence item runs, as many of its rows as are allowed. -/
def State.runFenceItem (s : State) (i : Item) (rows : Nat) : State :=
  if i.code = itemRetrain then s.retrainStacks i.mask
  else if i.code = itemSoftRepair then s.softRepairs rows
  else s.repairLoft rows

/-- Rows of a fence item that fit in microseconds, and all it has; a retraining counts as one. -/
def State.itemRows (s : State) (i : Item) (micros : Nat) : Nat × Nat :=
  if i.code = itemRetrain then (micros / 400, 1)
  else if i.code = itemSoftRepair then (micros / 20, s.failedStackRows.length)
  else (micros / 5, s.failedLoftRows.length)

/-- The items at a fence, in request order, as many as fit in what is left of the budget (R353); the answer lists those that
still wait. -/
def State.itemsAtFence : List Item → Nat → State → State × List Item
  | [], _, s => (s, [])
  | i :: rest, left, s =>
    if i.atFence then
      let (fit, all) := s.itemRows i left
      let n := min fit all
      let cost := if i.code = itemRetrain then 400 * n else if i.code = itemSoftRepair then 20 * n else 5 * n
      let s := if n = 0 then s else s.runFenceItem i n
      let (s, kept) := State.itemsAtFence rest (left - cost) s
      (s, if n < all then i :: kept else kept)
    else
      let (s, kept) := State.itemsAtFence rest left s
      (s, i :: kept)

/-- FENCE_BUDGET in microseconds (R355). -/
def State.fenceBudget (s : State) : Nat :=
  let n := (s.cfg.defer.extractLsb' 0 16).toNat
  if n = 0 then 500 else n

/-- DEFER_LIMIT in seconds; none: never claim (R355). -/
def State.deferLimit (s : State) : Option Nat :=
  let n := (s.cfg.defer.extractLsb' 16 16).toNat
  if n = 0 then some 60 else if n = 0xFFFF then none else some n

/-- The waiting items at a step fence (R353). -/
def State.fenceItems (s : State) : State :=
  let (s, kept) := State.itemsAtFence s.job.items s.fenceBudget s
  { s with job := { s.job with items := kept } }

/-- Waiting items run one after another, without a budget: a fence item at once; a long one runs until SELFTEST_ITEM_END
(R351, R354). -/
def State.startItems : Nat → State → State
  | 0, s => s
  | n + 1, s =>
    if s.job.running.isSome then s
    else
      match s.job.items with
      | [] => s
      | i :: rest =>
        let s : State := { s with job := { s.job with items := rest } }
        if i.atFence then
          State.startItems n (s.runFenceItem i (s.failedStackRows.length + s.failedLoftRows.length))
        else { s with job := { s.job with running := some i } }

/-- Items that wait in an idle state run at once (R351, R361). -/
def State.idleItems (s : State) : State := s.startItems (s.job.items.length + 1)

/-- An item is asked for: at once in an idle state, else it waits its turn (R351, R353). -/
def State.askItem (s : State) (i : Item) : State :=
  let s : State := { s with job := { s.job with items := s.job.items ++ [i] } }
  if s.isIdleKind then s.idleItems else s

/-! ## Coming to an idle state (R249, R255, R361) -/

/-- Failed bents are handled outside a step: masks and shape at once; the program is bound before the next STEP (R361). -/
def State.retireIdle (s : State) : State :=
  let old := s.kp.shape
  let s := s.retireBents
  let binds := match s.loader.inEffect with
    | some b => s.binds b s.kp.shape
    | none => false
  s.shapeEvent old binds

/-- FUNCTION requests of every bay looked at (R93). -/
def State.allFuncs (s : State) (fence : Bool) : State := allBays.foldl (fun s b => s.nextFuncs b fence) s

/-- What happens as the module comes to an idle state: a pending load switches, failed bents, waiting items and FUNCTION
requests are handled at once (R93, R255, R361). -/
def State.settleIdle (s : State) : State := (s.switchPending.retireIdle.idleItems).allFuncs false

/-- The module enters an idle state. -/
def State.hold (s : State) (st : ModState) (cause : Status) : State :=
  if s.kp.state = st then s else (s.enter st cause).settleIdle

/-! ## Commands -/

/-- A wrong value in an accumulator entry of a bent: which lane and entry, and the value, are free (R358; log entry 8). -/
def State.spoilEntry (s : State) (d : DieId) (b : BentIx) : State :=
  let (at', s) := s.takeFree
  let (v, s) := s.takeFree
  s.modBent d b fun x => { x with acc := Sparse.set (0 : Word) x.acc (at'.toNat % 524288) (v.extractLsb' 0 32) }

/-- BENT_RESIDUE_FAULT (R358, R361): counted and recorded; a second fault within 24 hours, or one in a scan, fails the bent. -/
def execBentResidueFault (die : DieId) (bent : BentIx) (inScan : Bool) (s : State) : Out :=
  if (s.die die).bentOn bent && !s.job.failedBents.contains (die, bent) then
    let now := s.clk.aonMicros
    let recent := (s.bent die bent).faults.filter fun t => decide (now < t + dayMicros)
    let fails := inScan || decide (1 ≤ recent.length)
    let s := (s.countRing die 0x18).modBent die bent fun x => { x with faults := recent ++ [now] }
    let s := if inScan then s else s.spoilEntry die bent
    let s := s.report {
      cls := .work, code := if fails then 0x5802 else 0x5018, subject := idDie die bent.val, reporter := idDie die bent.val,
      detail := if fails then BitVec.ofNat 64 bent.val else 0 }
    let s := s.setReplay
    if fails then
      let s : State := { s with job := { s.job with failedBents := s.job.failedBents ++ [(die, bent)] } }
      .next (if s.isIdleKind then s.retireIdle else s)
    else .next s
  else .next s

/-- LOFT_UNCORRECTABLE (R360): the 32-byte word reads as zero, REPLAY is set, and its row has failed. -/
def execLoftUncorrectable (die : DieId) (offset : BitVec 30) (s : State) : Out :=
  let o := offset.toNat
  let row := o / 8192
  let slice := row / rowsPerSlice
  let s := s.writeLoft die (o / 32 * 32) (List.replicate 32 0)
  let s := s.report { cls := .work, code := Config.unlistedCode 4, subject := idDie die (0x30 + slice) (row % rowsPerSlice),
                      reporter := idDie die (0x30 + slice) (row % rowsPerSlice) }
  let s := s.setReplay
  if (s.die die).failedRows.contains row then .next s
  else
    let s := s.modDie die fun r => { r with failedRows := r.failedRows ++ [row] }
    .next (if s.isIdleKind then s.repairLoft s.failedLoftRows.length else s.waitItem itemLoftRow 0)

/-- The firmware's 24-hour scan is asked for, or waits for a mode with AUTO_SCAN 1 (R351, R375). -/
def State.askScan (s : State) : State :=
  if s.setting keyAutoScan = 1 then
    ({ s with job := { s.job with scanDue := false } }).askItem ⟨itemScan, 0, none, s.clk.aonMicros⟩
  else { s with job := { s.job with scanDue := true } }

/-- A scan that waited for a mode with AUTO_SCAN 1 is asked for when one takes effect (R375). -/
def State.scanIfDue (s : State) : State := if s.job.scanDue then s.askScan else s

/-- AUTO_BENT_SCAN (R351, R375). -/
def execAutoBentScan (s : State) : Out :=
  .next (if s.kp.state = .armed ∨ s.kp.state = .running then s.askScan else s)

/-- The first waiting item that no fence can take: it does not run at fences, or is longer than the whole budget (R353). -/
def State.overdueItem (s : State) : Option Item :=
  s.job.items.find? fun i => !i.atFence || decide (s.itemCost i > s.fenceBudget)

/-- An item that is never claimed: longer than half the job's verdict timeout (R354). -/
def State.neverClaimed (s : State) (i : Item) : Bool := decide (2 * s.itemCost i > 1000000 * s.job.verdictTimeout)

/-- DEFER_LIMIT_EXPIRY (R353, R354): the next attempt 0 is claimed, or a NOTICE says that the item is never claimed. -/
def execDeferLimitExpiry (s : State) : Out :=
  if s.kp.state = .running then
    match s.overdueItem, s.deferLimit with
    | some i, some _ =>
      if s.neverClaimed i then
        .next (s.report { cls := .notice, code := Config.unlistedCode 5, subject := idModule, reporter := idKp s.fw.activeB 2 })
      else .next { s with job := { s.job with claimDue := true } }
    | _, _ => .next s
  else .next s

/-- The loft of every die as a march test leaves it: destroyed, as after power-on (R351; log entry 3). -/
def State.destroyLofts (s : State) : State := s.mapDies fun r => { r with loft := [] }

/-- The claim of a step record with ATTEMPT 0: no program starts, void fill answers, REPLAY is contributed, a NOTICE names
the item, which runs before every other waiting item (R354). -/
def State.claimStep (s : State) : State :=
  match s.overdueItem with
  | none => { s with job := { s.job with claimDue := false } }
  | some i =>
    let s : State := { s with job := { s.job with
      claimDue := false, claimed := true, voidFill := true, items := i :: s.job.items.erase i } }
    let s := s.setReplay
    (s.report { cls := .notice, code := 0x5806, subject := idModule, reporter := idKp s.fw.activeB 2,
                detail := BitVec.ofNat 64 i.code }).idleItems

end Sys2Proof.Machine
end

