-- ==== Sys2Proof/Machine/Checkpoint.lean ====
section
/-! DEFINITION. Checkpoint images (R362 to R370): what an image holds, how a stack's snapshot region holds its part, and what a
restore checks and writes. The order of the system block's items is R365's; how each is packed is the model's (log entry 24). -/

namespace Sys2Proof.Machine

/-! ## Regions (R364) -/

/-- The saved areas of a shard: HEADER, MASTER, STATE, COPY_ELEM, COPY_SCALE, and PRECOND's tile records (R364). -/
def shardRegions (h : Shard) : List (Nat × Nat) :=
  let a := shardAreas h
  let pick (k : Nat) : List (Nat × Nat) := (a[k]?).toList
  pick 0 ++ pick 1 ++ pick 2 ++ pick 4 ++ pick 5 ++ (if h.rule = .precond then pick 6 else [])

/-- A range lies in one stack's local window (R364). -/
def State.inWindow (s : State) (a n : Nat) : Bool :=
  decide (a / 2 ^ 36 < 12) && inLocal s.interleave (a % 2 ^ 36, n)

/-- The extra ranges that EXTRA names: address and length; none where the list breaks R364. -/
def State.extraRanges (s : State) (extra : Nat) : Option (List (Nat × Nat)) :=
  if extra = 0 then some []
  else if !s.inMemory extra 4 then none
  else
    let n := leNat (s.readMem extra 4)
    if n > 64 ∨ !s.inMemory (extra + 4) (16 * n) then none
    else
      let l := (List.range n).map fun i =>
        (leNat (s.readMem (extra + 4 + 16 * i) 8), leNat (s.readMem (extra + 12 + 16 * i) 8))
      if l.all fun x => s.inWindow x.1 x.2 then some l else none

/-- The regions of an image: each sill's shards in list order, then the extra ranges (R364). -/
def State.imageRegions (s : State) (extra : List (Nat × Nat)) : List (Nat × Nat) :=
  (allSills.flatMap fun m =>
    (s.sill m).active.shards.flatMap fun h => (shardRegions h).map fun x => (localAddr m x.1, x.2)) ++ extra

/-! ## The system block (R365) -/

/-- Bytes padded with zeros to a length. -/
def padTo (n : Nat) (l : List Byte) : List Byte := l ++ List.replicate (n - l.length) 0

/-- The verdict-tree entry in 32 bytes: PARENT and ROOT, CHILD_COUNT, whether there is one, and the children from byte 16. -/
def treeBytes (t : Option TreeEntry) : List Byte :=
  match t with
  | none => List.replicate 32 0
  | some e =>
    padTo 16 (leBytes 2 (e.parent.toNat + 2 ^ 15 * bit e.root) ++ [BitVec.ofNat 8 e.children.length, 1]) ++
      padTo 16 (e.children.flatMap fun c => leBytes 2 c.toNat)

/-- The verdict-tree entry read back. -/
def parseTree (b : List Byte) : Option TreeEntry :=
  if fieldAt b 3 1 = 0 then none
  else some {
    parent := BitVec.ofNat 15 (fieldAt b 0 2), root := (fieldAt b 0 2).testBit 15
    children := (List.range (fieldAt b 2 1)).map fun i => BitVec.ofNat 15 (fieldAt b (16 + 2 * i) 2) }

/-- The saved ring indices, 160 bytes (R365). -/
def State.indexBytes (s : State) : List Byte :=
  padTo 160 (((List.finRange 16).flatMap fun n => leBytes 4 (s.ring n).consumed.toNat ++ leBytes 4 (s.ring n).completed.toNat) ++
    leBytes 4 s.mgmt.reqProduced.toNat ++ leBytes 4 s.mgmt.reqConsumed.toNat ++ leBytes 4 s.mgmt.evtProduced.toNat ++
    leBytes 4 s.mgmt.evtConsumed.toNat ++ leBytes 4 s.mgmt.journal.length)

/-- Offsets of the items of the system block: ledger, routes, tree, plan, epochs, job, indices, time, shape, map, end. -/
def sysOffsets : List Nat :=
  [0, 1048576, 1081344, 1081376, 1092928, 1101120, 1101152, 1101312, 1101320, 1101354, 1101390]

/-- Bytes of the system block. -/
def sysBytes : Nat := 1101390

/-- The s that a job expects next: that of the first shard's header where no step has run since arming (R365, R366). -/
def State.nextStep (s : State) : DWord :=
  match s.job.expected with
  | some x => x
  | none =>
    match allSills.findSome? fun m => ((s.sill m).active.shards.head?).map fun h => (m, h) with
    | some (m, h) => BitVec.ofNat 64 (s.stackNat m (32 * h.header.toNat) 8)
    | none => 0

/-- The system block (R365). -/
def State.systemBlock (s : State) : List Byte :=
  (allDies.flatMap fun d => (List.range 16384).flatMap fun i => leBytes 4 ((s.die d).ledgerAt i).toNat) ++
  ((List.range 32768).map fun i => Sparse.get (0 : Byte) s.coll.routes i) ++ treeBytes s.coll.tree ++
  padTo 11552 (if s.pwr.plan = [] then [] else s.planBytes) ++
  (allBays.flatMap fun b => (List.finRange 64).flatMap fun k => leBytes 2 (s.stream b k).epoch.toNat) ++
  (leBytes 8 s.nextStep.toNat ++ leBytes 4 s.job.lrFactor.toNat ++ leBytes 4 s.job.verdictTimeout ++
    leBytes 4 s.host.heartbeatTimeout ++ leBytes 4 0 ++ leBytes 8 s.job.id.toNat) ++
  s.indexBytes ++ leBytes 8 s.now.toNat ++
  (leBytes 2 s.kp.shape ++ allDies.flatMap fun d =>
    leBytes 2 (bentMask ((List.finRange 16).filter fun b => (s.die d).bentOn b)).toNat) ++
  (leBytes 4 s.cfg.memMap.toNat ++ leBytes 32 s.mgmt.accepted.toNat)

/-! ## The image (R366) -/

/-- The UPDATE_LIST section that serves a sill at a shape in a bundle's image (R162, R245). -/
def listSection (image : List Byte) (m : SillId) (shape : Nat) : List Byte :=
  let es := (secEntries image).filter fun e => e.kind = 3
  (forShape shape m (es.map fun e => (e.shape, e.sillOf, secBytes image e))).getD []

/-- LIST_DIGEST: SHA-384 over the 12 sections in effect, in sill order (R366). -/
def State.listDigest (s : State) : BitVec 384 :=
  match s.loader.inEffect with
  | none => Config.sha384 []
  | some b =>
    let image := s.bundleImage b
    Config.sha384 (allSills.flatMap fun m => listSection image m s.kp.shape)

/-- The header of an image with a given IMAGE_DIGEST (R366). -/
def State.imageHeader (s : State) (mode : Byte) (regions total : Nat) (digest : BitVec 384) : List Byte :=
  let bundle := match s.loader.inEffect with
    | some b => b.digest
    | none => 0
  padTo 4096 (leBytes 4 0x434B5054 ++ leBytes 2 1 ++ leBytes 2 s.moduleId.toNat ++ leBytes 8 s.job.id.toNat ++
    leBytes 8 s.nextStep.toNat ++ leBytes 8 s.now.toNat ++
    [BitVec.ofNat 8 s.kp.shape, BitVec.ofNat 8 (s.cfg.memMap.extractLsb' 0 5).toNat, mode, 0] ++ leBytes 4 regions ++
    leBytes 8 total ++ leBytes 48 bundle.toNat ++ leBytes 48 s.listDigest.toNat ++ leBytes 48 digest.toNat)

/-- Bytes of an image (R366). -/
def imageSize (regions : List (Nat × Nat)) : Nat := 4096 + sysBytes + 16 * regions.length + (regions.map Prod.snd).sum

/-- The image with IMAGE_DIGEST taken as 0 (R366). -/
def clearDigest (image : List Byte) : List Byte := image.take 144 ++ List.replicate 48 0 ++ image.drop 192

/-- The image of the module as it stands (R364 to R366). -/
def State.makeImage (s : State) (mode : Byte) (extra : List (Nat × Nat)) : List Byte :=
  let regions := s.imageRegions extra
  let body := s.systemBlock ++ (regions.flatMap fun x => leBytes 8 x.1 ++ leBytes 8 x.2) ++
    regions.flatMap fun x => s.readMem x.1 x.2
  let head (d : BitVec 384) : List Byte := s.imageHeader mode regions.length (imageSize regions) d
  head (Config.sha384 (head 0 ++ body)) ++ body

/-- The regions that an image's table names. -/
def tableRegions (image : List Byte) : List (Nat × Nat) :=
  (List.range (fieldAt image 36 4)).map fun i =>
    (fieldAt image (4096 + sysBytes + 16 * i) 8, fieldAt image (4096 + sysBytes + 16 * i + 8) 8)

/-- Bytes before an image's regions. -/
def headBytes (regions : Nat) : Nat := 4096 + sysBytes + 16 * regions

/-! ## Snapshot regions (R362, R367) -/

/-- A stack's part of a snapshot: its regions in table order; stack 0 holds header, system block and table first (R367). -/
def snapPart (image : List Byte) (m : SillId) : List Byte :=
  let regions := tableRegions image
  let head := headBytes regions.length
  let first := if m = 0 then image.take head else []
  let step (p : Nat × List Byte) (x : Nat × Nat) : Nat × List Byte :=
    (p.1 + x.2, if x.1 / 2 ^ 36 = m.val then p.2 ++ (image.drop p.1).take x.2 else p.2)
  first ++ (regions.foldl step (head, [])).2

/-- Bytes of a stack's part. -/
def snapPartBytes (regions : List (Nat × Nat)) (m : SillId) : Nat :=
  (if m = 0 then headBytes regions.length else 0) + ((regions.filter fun x => x.1 / 2 ^ 36 = m.val).map Prod.snd).sum

/-- The areas of the collective entries in a stack that a snapshot must not meet: copies, signs and results, and the sums and
staging of the chunks the module owns (R217, R218, R362). -/
def State.collAreas (s : State) (m : SillId) : List (Nat × Nat) :=
  s.linkTables.colls.flatMap fun e =>
    let g := s.members e.group
    let n := g.length
    ((List.range e.chunks).filter fun c => n ≠ 0 && stackOf e.chunks n c = m).flatMap fun c =>
      copyAreas (s.sill m).active e n c ++
        (if !e.vote && ownerOf e.chunks n c = s.myIndex g then [(gradAt e n c, 16384), stageArea e n c] else [])

/-- The snapshot region lies in every local window and meets no area of the lists and the collectives (R362). -/
def State.snapGood (s : State) (f : CkptFields) : Bool :=
  let r := (f.snapOffset.toNat * 4096, f.snapPages.toNat * 4096)
  inLocal s.interleave r &&
    allSills.all fun m =>
      !((s.sill m).active.shards.any fun h => (shardAreas h).any (rangesMeet r)) && !((s.collAreas m).any (rangesMeet r))

/-- An image's parts written into the snapshot regions (R367). -/
def State.writeSnapshot (s : State) (offset : Nat) (image : List Byte) (upTo : Nat) : State :=
  allSills.foldl (fun s m => s.writeStack m offset ((snapPart image m).take upTo)) s

/-- Where each region's bytes lie in the snapshot: stack, offset, length, in table order. -/
def snapPlaces (offset : Nat) (regions : List (Nat × Nat)) : List (Nat × Nat × Nat) :=
  (regions.zipIdx.map fun x =>
    let m := x.1.1 / 2 ^ 36
    let before := ((regions.take x.2).filter fun y => y.1 / 2 ^ 36 = m).map Prod.snd
    (m, offset + (if m = 0 then headBytes regions.length else 0) + before.sum, x.1.2))

/-- The image as the snapshot regions hold it (R368). -/
def State.readSnapshot (s : State) (offset : Nat) : List Byte :=
  let head := s.readStack 0 offset (headBytes (s.stackNat 0 (offset + 36) 4))
  head ++ (snapPlaces offset (tableRegions head)).flatMap fun x =>
    if h : x.1 < 12 then s.readStack ⟨x.1, h⟩ x.2.1 x.2.2 else []

/-- Bad sectors of ranges: POISON or a retired page (R151, R158). -/
def State.badSectors (s : State) (l : List (Nat × Nat)) : List (SillId × Nat) :=
  (l.flatMap fun x => s.sectorsOf x.1 x.2).filterMap fun x =>
    if (s.sill x.1).sectorBad x.2.1 then some (x.1, x.2.1) else none

/-- Ranges read by the kingpost or the sills for an image; the answer says that some sector is uncorrectable (R153, R372). -/
def State.readRanges (s : State) (l : List (Nat × Nat)) : State × Bool :=
  let (s, bad) := s.readList ((l.flatMap fun x => s.sectorsOf x.1 x.2).map fun x => (x.1, x.2.1)) [] true
  (s, bad ≠ [])

/-- The ranges of the twelve snapshot regions that an image fills (R362, R367). -/
def snapParts (offset : Nat) (image : List Byte) : List (Nat × Nat) :=
  allSills.map fun m => (localAddr m offset, snapPartBytes (tableRegions image) m)

/-- Regions of a snapshot that can be read: those before the first with an uncorrectable sector (R368); none where the header or
the table cannot. -/
def State.snapReadable (s : State) (offset : Nat) (image : List Byte) : Option Nat :=
  let regions := tableRegions image
  if s.badSectors [(offset, headBytes regions.length)] ≠ [] then some 0
  else
    (snapPlaces offset regions).zipIdx.findSome? fun x =>
      if s.badSectors [(x.1.1 * 2 ^ 36 + x.1.2.1, x.1.2.2)] ≠ [] then some x.2 else none

/-! ## Restoring (R368 to R370) -/

/-- The first check of a restore that fails, as its DETAIL reason (R368). -/
def State.restoreFault (s : State) (image : List Byte) : Option Nat :=
  let f := fieldAt image
  let at' (i : Nat) : Nat := 4096 + sysOffsets.getD i 0
  if f 0 4 ≠ 0x434B5054 ∨ f 4 2 ≠ 1 ∨ f 40 8 ≠ image.length ∨ f 35 1 ≠ 0 ∨
      Config.sha384 (clearDigest image) ≠ BitVec.ofNat 384 (f 144 48) then some 1
  else if f 6 2 ≠ s.moduleId.toNat then some 2
  else if f 33 1 ≠ (s.cfg.memMap.extractLsb' 0 5).toNat ∨ f (at' 9) 4 ≠ s.cfg.memMap.toNat then some 3
  else if BitVec.ofNat 256 (f (at' 9 + 4) 32) ≠ s.mgmt.accepted then some 4
  else if BitVec.ofNat 384 (f 96 48) ≠ s.listDigest then some 5
  else none

/-- A pending load ends with CANCELLED (R255, R368). -/
def State.cancelLoad (s : State) : State :=
  match s.loader.pending with
  | none => s
  | some (_, tag) => ({ s with loader := { s.loader with pending := none } }).respond tag .cancelled

/-- Every stream slot is closed, its epoch kept, and every kiln region is CLOSED (R368). -/
def State.closeAll (s : State) : State :=
  let s := s.mapBays fun y => { y with
    streams := y.streams.map fun t => { ({} : Stream) with epoch := t.epoch, nextIdent := t.nextIdent }
    regions := y.regions.map fun r => { r with state := .closed } }
  { s with sills := s.sills.map fun m => { m with requests := [] } }

/-- The first `n` regions of an image written to their addresses (R368). -/
def State.writeRegions (s : State) (image : List Byte) (n : Nat) : State :=
  let regions := tableRegions image
  ((regions.take n).foldl
    (fun (p : State × Nat) x => (p.1.writeMerged x.1 ((image.drop p.2).take x.2), p.2 + x.2))
    (s, headBytes regions.length)).1

/-- A saved ledger of one die, as a sparse array. -/
def savedLedger (block : List Byte) (d : DieId) : Sparse Word :=
  Sparse.entries ledgerReset 0 ((List.range 16384).map fun i => BitVec.ofNat 32 (fieldAt block (65536 * d.val + 4 * i) 4))

/-- The draw plan of an image's system block (R369): saved entries of minutes after the present one replace the plan from the
next minute onward; if there is none, the plan in force stays. -/
def State.restorePlan (s : State) (block : List Byte) : State :=
  let at' := sysOffsets.getD 3 0
  let count := fieldAt block (at' + 8) 2
  match parsePlan ((block.drop at').take (32 + 8 * count)) with
  | none => s
  | some (first, entries) =>
    let now := s.minuteNow
    let saved := (replacePlan [] first entries).filter fun x => decide (now < x.1)
    if saved = [] then s
    else { s with pwr := { s.pwr with plan := (s.pwr.plan.filter fun x => decide (x.1 ≤ now)) ++ saved } }

/-- The system block applied (R365). -/
def State.restoreSystem (s : State) (f : CkptFields) (image : List Byte) : State :=
  let block := (image.drop 4096).take sysBytes
  let off (i : Nat) : Nat := sysOffsets.getD i 0
  let s : State := { s with
    dies := Vector.ofFn fun d : Fin 16 =>
      { s.dies[d] with ledger := savedLedger block d, ledgerStart := savedLedger block d } }
  let s : State := if f.keepTopology then s else { s with
    coll := { s.coll with
      routes := Sparse.entries (0 : Byte) 0 ((block.drop (off 1)).take 32768)
      tree := parseTree ((block.drop (off 2)).take 32) } }
  let s := if f.keepPlan then s else s.restorePlan block
  let s := allBays.foldl (fun s b => (List.finRange 64).foldl (fun s k =>
    let i := b.die.val * 256 + b.bay.val * 64 + k.val
    s.modStream b k fun t => { t with
      epoch := BitVec.ofNat 16 (max t.epoch.toNat (fieldAt block (off 4 + 2 * i) 2) + 1) }) s) s
  { s with
    host := { s.host with heartbeatTimeout := fieldAt block (off 5 + 16) 4 }
    job := { s.job with
      expected := some (BitVec.ofNat 64 (fieldAt block (off 5) 8))
      verdictTimeout := fieldAt block (off 5 + 12) 4
      previous := none, ran := false, replays := 0, replayOf := none } }

/-- Bytes 16 to 63 of the response event of a restore: BOARD_TIME, then the first 40 bytes of the saved indices (R368; log
entry 24). -/
def restoreData (image : List Byte) : BitVec 384 :=
  BitVec.ofNat 384 (fieldAt image 24 8 + 2 ^ 64 * fieldAt image (4096 + sysOffsets.getD 6 0) 40)

/-- A restore applied in R368's order; `upTo` limits the regions that can be read, and its end decides the status. -/
def State.applyRestore (s : State) (f : CkptFields) (image : List Byte) (upTo : Option Nat) (tag : Word) : State × Status :=
  match s.restoreFault image with
  | some r =>
    (s.report { cls := .work, code := Config.unlistedCode 6, status := .verifyFailed, subject := idModule, tag := tag,
                reporter := idKp s.fw.activeB 2, detail := BitVec.ofNat 64 r }, .verifyFailed)
  | none =>
    let s := s.cancelLoad.closeAll
    match upTo with
    | some n => (s.writeRegions image n, .memoryUncorrectable)
    | none =>
      let s := (s.writeRegions image (fieldAt image 36 4)).restoreSystem f image
      (s.respond tag .done (restoreData image), .done)

end Sys2Proof.Machine
end

