-- ==== Sys2Proof/Machine/Jobs.lean ====
section
/-! DEFINITION. Job rings: descriptors as the scheduler reads and starts them (R268 to R274, R362, R363), saves and restores (R363,
R367, R368), driver loss and ORPHANED (R278 to R280), and the commands that belong to them. -/

namespace Sys2Proof.Machine

/-! ## Completions -/

/-- KIND of a descriptor (R272). -/
def workKind : JobWork → Byte
  | .step _ _ => 0x01
  | .copyToModule _ _ _ => 0x02
  | .copyFromModule _ _ _ => 0x03
  | .quiesce => 0x04
  | .resume => 0x05
  | .save _ _ => 0x06
  | .restoreHost _ _ => 0x06
  | .restoreSnapshot _ => 0x06
  | .marker => 0x07
  | .unknownKind k => k

/-- The completion record of a descriptor with its common fields (R275). -/
def State.completionOf (s : State) (n : RingIx) (h : HeldDesc) (st : Status) : Completion :=
  { ring := n, tag := h.desc.head.tag, index := h.index, status := st, kind := workKind h.desc.work, attempt := 0, verdict := 0,
    detail := 0, step := 0, time := s.timeMicros, irq := h.desc.head.irq }

/-- A status that a step's verdict gives: its record is the verdict's own (R183, R342). -/
def verdictStatus (st : Status) : Bool := st = .stepSkew || st = .stepWithheld || st = .stepReplayed

/-- The oldest held descriptor of a ring completes; `f` fills in what its kind adds to the record (R273, R275). -/
def State.finishDesc (s : State) (n : RingIx) (st : Status) (f : Completion → Completion) : State :=
  match (s.ring n).held with
  | [] => s
  | h :: rest =>
    let s := (s.modRing n fun r => { r with held := rest }).putCompletion (f (s.completionOf n h st))
    if statusError st && !verdictStatus st then
      s.report { cls := .work, code := Config.unlistedCode 7, subject := idHost n.val, reporter := idKp s.fw.activeB 2,
                 status := st, tag := h.desc.head.tag }
    else s

/-- The oldest held descriptor of a ring is in progress. -/
def State.markStarted (s : State) (n : RingIx) : State :=
  s.modRing n fun r => { r with held :=
    match r.held with
    | [] => []
    | h :: rest => { h with started := true } :: rest }

/-- Job rings in ascending number. -/
def allRings : List RingIx := List.finRange 16

/-- Rings whose oldest descriptor is in progress and of a sort. -/
def State.startedRings (s : State) (p : JobWork → Bool) : List RingIx :=
  allRings.filter fun n =>
    match (s.ring n).held with
    | h :: _ => h.started && p h.desc.work
    | [] => false

/-! ## COPY (R273, R279) -/

/-- Host memory written (R279: only while a driver is not lost). -/
def State.writeHost (s : State) (a : Nat) (bytes : List Byte) : State :=
  { s with host := { s.host with memory := s.host.memory.write a bytes } }

/-- The first `n` bytes of a copy moved; the answer is its status (R153, R158, R273). A copy that meets protected
areas writes nothing once the job is armed, though it was taken in IDLE (R19, R273). -/
def State.moveCopy (s : State) (w : JobWork) (n : Nat) : State × Status :=
  match w with
  | .copyToModule _ m data =>
    let a := m.toNat
    if s.kp.state ≠ .idle && s.meetsProtected a n then (s, .badDescriptor)
    else
      let st : Status := if s.badPartials a n ≠ [] || s.touchesRetired a n then .memoryUncorrectable else .done
      ((s.writeMerged a (data.take n)).gradCheck a n, st)
  | .copyFromModule h m _ =>
    let (bytes, s, bad) := s.readThrough m.toNat n
    (s.writeHost h.toNat bytes, if bad then .memoryUncorrectable else .done)
  | _ => (s, .done)

/-- Bytes a copy asks for. -/
def copyBytes : JobWork → Nat
  | .copyToModule _ _ data => data.length
  | .copyFromModule _ _ n => n
  | _ => 0

/-- Module address of a copy. -/
def copyAddr : JobWork → Nat
  | .copyToModule _ m _ => m.toNat
  | .copyFromModule _ m _ => m.toNat
  | _ => 0

/-- A copy, in either direction. -/
def isCopy : JobWork → Bool
  | .copyToModule _ _ _ => true
  | .copyFromModule _ _ _ => true
  | _ => false

/-- A copy into module memory. -/
def isCopyTo : JobWork → Bool
  | .copyToModule _ _ _ => true
  | _ => false

/-- A copy in progress stops: what it has moved, in units of 64 bytes, is free; those bytes stand written (R279, R292; log
entry 8). -/
def State.cutCopy (s : State) (n : RingIx) (st : Status) : State :=
  match (s.ring n).held with
  | [] => s
  | h :: _ =>
    let (w, s) := s.takeFree
    let units := w.toNat % (copyBytes h.desc.work / 64 + 1)
    let (s, _) := s.moveCopy h.desc.work (64 * units)
    s.finishDesc n st fun c => { c with detail := BitVec.ofNat 32 units }

/-- A COPY starts, or completes at once (R272, R273, R279). -/
def State.startCopy (s : State) (n : RingIx) (w : JobWork) : State :=
  let bytes := copyBytes w
  let a := copyAddr w
  if a ≥ 2 ^ 40 ∨ bytes > 2 ^ 36 then s.finishDesc n .badDescriptor id
  else if s.host.driverLost then s.finishDesc n .cancelled id
  else if bytes = 0 then s.finishDesc n .done id
  else if !s.inMemory a bytes then s.finishDesc n .badDescriptor id
  else if isCopyTo w && s.kp.state ≠ .idle && s.meetsProtected a bytes then s.finishDesc n .badDescriptor id
  else s.markStarted n

/-! ## Saves and restores (R362, R363, R367, R368) -/

/-- The fields of a checkpoint descriptor. -/
def ckptFields : JobWork → Option CkptFields
  | .save _ f => some f
  | .restoreHost f _ => some f
  | .restoreSnapshot f => some f
  | _ => none

/-- The save is in snapshot mode. -/
def isSnapshot : JobWork → Bool
  | .save .snapshot _ => true
  | _ => false

/-- The work needs host memory while its stop runs (R279, R367, R368). -/
def needsHost : JobWork → Bool
  | .save .direct _ => true
  | .restoreHost _ _ => true
  | _ => false

/-- The step that ended last, or is in progress. -/
def State.lastStep (s : State) : Option DWord :=
  match s.job.current with
  | some r => some r.s
  | none => s.job.previous.map Prod.fst

/-- AT_STEP lies below the step in progress or the last to have ended (R363). -/
def State.atStepPassed (s : State) (f : CkptFields) : Bool :=
  match s.lastStep with
  | some x => decide (f.atStep ≠ 0) && decide (f.atStep.toNat < x.toNat)
  | none => false

/-- The constraints of R362 and R367 on a save: none where it keeps to them, else the status. -/
def State.saveFault (s : State) (mode : SaveMode) (f : CkptFields) : Option Status :=
  if mode = .snapshot && !s.hasFeature 3 then some .featureAbsent
  else
    match s.extraRanges f.extra.toNat with
    | none => some .badDescriptor
    | some extra =>
      let regions := s.imageRegions extra
      if f.hostAddr.toNat % 4096 ≠ 0 ∨ f.bytes.toNat < imageSize regions ∨ s.atStepPassed f then some .badDescriptor
      else if mode = .snapshot && !(s.snapGood f &&
          allSills.all fun m => decide (snapPartBytes regions m ≤ 4096 * f.snapPages.toNat)) then some .badDescriptor
      else none

/-- The constraints of R362 on a restore. -/
def State.restoreRefused (s : State) (w : JobWork) : Option Status :=
  match w with
  | .restoreHost f image =>
    let named := decide (fieldAt image 0 4 = 0x434B5054) && decide (fieldAt image 40 8 ≠ f.bytes.toNat)
    if f.hostAddr.toNat % 4096 ≠ 0 ∨ named then some .badDescriptor else none
  | .restoreSnapshot f =>
    if !s.hasFeature 3 then some .featureAbsent
    else if !s.snapGood f then some .badDescriptor
    else none
  | _ => none

/-- The module stands at a fence, or holds: no step is in progress (R363). -/
def State.betweenSteps (s : State) : Bool :=
  s.kp.state = .quiesced || (s.kp.state = .running && s.job.current.isNone)

/-- The fence of a waiting save has come (R363). -/
def State.saveDue (s : State) (c : Ckpt) : Bool :=
  s.betweenSteps &&
  (c.due || s.kp.state = .quiesced ||
    (match ckptFields c.work with
      | some f => decide (f.atStep = 0) || decide (s.lastStep = some f.atStep)
      | none => true))

/-- A save's stop begins: the image is cut (R363, R364). -/
def State.beginStop (s : State) (c : Ckpt) : State :=
  match c.work with
  | .save mode f =>
    let extra := (s.extraRanges f.extra.toNat).getD []
    let (s, bad) := s.readRanges (s.imageRegions extra)
    let image := s.makeImage (if mode = .snapshot then 0x01 else 0x02) extra
    { s with job := { s.job with
        stop := some { c with image := image, status := if bad then .memoryUncorrectable else .done } } }
  | _ => { s with job := { s.job with stop := some c } }

/-- Waiting saves whose fence has come: the first begins its stop; while an earlier drain runs they wait for it (R363, R367). A
DIRECT save after driver loss cannot reach the host (R279). -/
def State.runSaves : Nat → State → State
  | 0, s => s
  | n + 1, s =>
    if s.job.stop.isSome then s
    else
      let s : State := { s with job := { s.job with saves := s.job.saves.map fun c => { c with due := s.saveDue c } } }
      match s.job.saves.find? fun c => c.due with
      | none => s
      | some c =>
        if s.job.drain.isSome then s
        else
          let s : State := { s with job := { s.job with saves := s.job.saves.erase c } }
          if s.host.driverLost && needsHost c.work then State.runSaves n (s.finishDesc c.ring .cancelled id)
          else s.beginStop c

/-- Saves whose fence has come run. -/
def State.settleSaves (s : State) : State := s.runSaves (s.job.saves.length + 1)

/-- A save whose fence has come waits or runs. -/
def State.savesHold (s : State) : Bool := s.job.stop.isSome || s.job.saves.any fun c => c.due

/-- A CHECKPOINT starts (R272, R362, R363, R368). -/
def State.startCkpt (s : State) (n : RingIx) (h : HeldDesc) : State :=
  let c : Ckpt := ⟨n, h.seqNo, h.desc.work, [], .done, false⟩
  match h.desc.work with
  | .save mode f =>
    match s.saveFault mode f with
    | some st => s.finishDesc n st id
    | none =>
      if mode = .direct && s.host.driverLost then s.finishDesc n .cancelled id
      else (({ s with job := { s.job with saves := s.job.saves ++ [c] } }).markStarted n).settleSaves
  | w =>
    match s.restoreRefused w with
    | some st => s.finishDesc n st id
    | none => (s.markStarted n).beginStop c

/-! ## Holding and going on (R274, R288) -/

/-- Every QUIESCE in progress completes: the module holds (R274, R288). -/
def State.completeQuiesces (s : State) : State :=
  let s := (s.startedRings fun w => decide (w = .quiesce)).foldl (fun s n => s.finishDesc n .done id) s
  { s with job := { s.job with quiesceDue := false } }

/-- Saves that still wait are not done as the module goes ORPHANED; their descriptors stay held, not started (R279). -/
def State.dropSaves (s : State) : State :=
  let s := s.job.saves.foldl (fun s c => s.modRing c.ring fun r => { r with held :=
    match r.held with
    | [] => []
    | h :: rest => { h with started := false } :: rest }) s
  { s with job := { s.job with saves := [] } }

/-- The module holds in QUIESCED: QUIESCE completes, and saves take effect at once (R274, R288, R363). -/
def State.quiesceNow (s : State) (cause : Status) : State :=
  ((s.hold .quiesced cause).completeQuiesces).settleSaves

/-- The module goes ORPHANED; a QUIESCE that falls due with it completes in the journal (R279, R288). -/
def State.orphanNow (s : State) : State :=
  let s : State := { s with host := { s.host with orphanDue := false } }
  ((s.hold .orphaned .done).completeQuiesces).dropSaves

/-- QUIESCE (R272, R274): at once where no step is in progress, else at the fence. -/
def State.startQuiesce (s : State) (n : RingIx) : State :=
  let s := s.markStarted n
  if s.kp.state = .armed ∨ (s.kp.state = .running ∧ s.job.current.isNone ∧ s.job.fenceLeft.isNone ∧ s.savesHold = false) then
    s.quiesceNow .done
  else { s with job := { s.job with quiesceDue := true } }

/-! ## STEP (R164, R274, R300) -/

/-- Every attempt of a step starts with the link engines' working state empty (R221, R226, R236); gathers of an earlier posting
or of a step with the same low 8 bits are forgotten (R133). -/
def Coll.newAttempt (c : Coll) (x : DWord) : Coll :=
  { c with gathers := c.gathers.filter fun g => g.1 ≠ x.extractLsb' 0 8, staged := [], summed := [], copies := [], results := [], sent := [], signed := [], sources := [], homes := [] }

/-- ATTEMPT of a STEP for s (R274). -/
def State.nextAttempt (s : State) (x : DWord) : BitVec 4 :=
  match s.job.previous with
  | some (p, a) => if p = x then a + 1 else 0
  | none => 0

/-- A step's record is posted (R164, R274). -/
def State.postStep (s : State) (n : RingIx) (h : HeldDesc) (x : DWord) (lr : Word) : State :=
  let attempt := s.nextAttempt x
  let same := decide (s.job.replayOf = some x)
  let s : State := { s with
    coll := s.coll.newAttempt x
    edges := s.edges.map fun e => { e with slots := [] }
    job := { s.job with
      previous := some (x, attempt), ran := true, current := some ⟨x, lr, attempt, n, h.seqNo⟩, phase := .posted
      own := s.job.next, next := {}, verdict := none, contributed := {}, children := [], flagged := 0
      claimed := false, abandoned := false, voidFill := false, doneShards := [], skewed := [], committed := [], expected := some x, lrFactor := lr
      replays := if same then s.job.replays else 0, replayOf := if same then some x else none } }
  let s := s.markStarted n
  if s.kp.state = .armed then s.enter .running .done else s

/-- What keeps the next step from starting: a step, a stop, a save, a fence or an item in progress. -/
def State.stepBlocked (s : State) : Bool :=
  s.job.current.isSome || s.savesHold || s.job.fenceLeft.isSome || s.job.running.isSome ||
  (s.host.driverLost && s.host.lossCause = 5)

/-- A STEP starts, waits, or finds no program to run at the present shape (R249, R272, R274). -/
def State.startStep (s : State) (n : RingIx) (h : HeldDesc) (x : DWord) (lr : Word) : Option State :=
  if s.kp.state = .quiesced || s.stepBlocked then none
  else
    match s.rebind with
    | (s, none) => some (s.postStep n h x lr)
    | (s, some st) => some (s.quiesceNow st)

/-! ## Starting descriptors (R272, R273, R279) -/

/-- STEP_RING (R404). -/
def State.stepRing (s : State) : Nat := (s.host.ctrl.extractLsb' 0 4).toNat

/-- The states a kind is allowed in (R272). -/
def State.allowed (s : State) (w : JobWork) : Bool :=
  let st := s.kp.state
  match w with
  | .step _ _ => st = .armed || st = .running || st = .quiesced
  | .quiesce => st = .armed || st = .running
  | .resume => st = .quiesced
  | .save _ _ => st = .running || st = .quiesced
  | .restoreHost _ _ => st = .quiesced
  | .restoreSnapshot _ => st = .quiesced
  | _ => true

/-- The descriptor breaks R272 whatever its kind. -/
def State.descBad (s : State) (n : RingIx) (d : JobDesc) : Bool :=
  !d.head.reservedClear ||
  (match d.work with
    | .unknownKind _ => true
    | .step _ _ => decide (n.val ≠ s.stepRing)
    | _ => false)

/-- Every descriptor read before one has completed, on every ring (R273). -/
def State.firstRead (s : State) (seqNo : Nat) : Bool :=
  allRings.all fun n => (s.ring n).held.all fun h => decide (seqNo ≤ h.seqNo)

/-- The scheduler executes descriptors: its core runs, and the module is in a state that reads rings (R268, R279, R290). -/
def State.executes (s : State) : Bool :=
  !s.fw.restarting[2] && !s.fw.dead && !(s.host.driverLost && s.host.lossCause = 5) &&
  (s.kp.state = .idle || s.kp.state = .armed || s.kp.state = .running || s.kp.state = .quiesced)

/-- The oldest descriptor of a ring starts; none where there is nothing to start or it must wait. -/
def State.startHead (s : State) (n : RingIx) : Option State :=
  match (s.ring n).held with
  | [] => none
  | h :: _ =>
    if h.started || !s.executes then none
    else if s.descBad n h.desc then some (s.finishDesc n .badDescriptor id)
    else if !s.allowed h.desc.work then some (s.finishDesc n .disabled id)
    else
      match h.desc.work with
      | .step x lr => s.startStep n h x lr
      | .quiesce => some (s.startQuiesce n)
      | .resume =>
        if s.savesHold then none
        else some ((s.enter (if s.job.ran then .running else .armed) .done).finishDesc n .done id)
      | .marker => if s.firstRead h.seqNo then some (s.finishDesc n .done id) else none
      | .copyToModule a b c => some (s.startCopy n (.copyToModule a b c))
      | .copyFromModule a b c => some (s.startCopy n (.copyFromModule a b c))
      | _ => if s.job.stop.isSome then none else some (s.startCkpt n h)

/-- Descriptors start ring by ring in ascending number, until none can. -/
def State.startAll : Nat → State → State
  | 0, s => s
  | n + 1, s =>
    match allRings.findSome? fun r => s.startHead r with
    | none => s
    | some s' => State.startAll n s'

/-- Descriptors held on all rings. -/
def State.heldCount (s : State) : Nat := (allRings.map fun n => (s.ring n).held.length).sum

/-- Nothing is left that a lost driver's module still executes: no STEP heads a ring (R279). -/
def State.nothingLeft (s : State) : Bool :=
  s.host.lossCause = 5 || (s.executes && allRings.all fun n =>
    match (s.ring n).held with
    | [] => true
    | h :: _ =>
      match h.desc.work with
      | .step _ _ => false
      | _ => true)

/-- ORPHANED where it is due and the module stands at its fence with nothing left to execute (R279). -/
def State.orphanIfDue (s : State) : State :=
  if s.host.orphanDue && s.kp.state = .running && s.job.current.isNone && s.job.fenceLeft.isNone && !s.savesHold &&
      s.nothingLeft then s.orphanNow
  else s

/-- The scheduler goes on: descriptors start, and a module whose driver is lost goes ORPHANED when its time has come. -/
def State.progress (s : State) : State := (s.startAll (2 * s.heldCount + 1)).orphanIfDue

/-! ## Reading descriptors (R269, R270) -/

/-- The doorbell block and the rings are read (R268, R279). -/
def State.polls (s : State) : Bool :=
  s.kp.peg && !s.host.driverLost && !s.fw.restarting[2] && !s.fw.dead &&
  (s.kp.state = .idle || s.kp.state = .armed || s.kp.state = .running || s.kp.state = .quiesced)

/-- One descriptor read from a ring, if the ring is enabled and fewer than 64 are held (R270). -/
def State.readJobDesc (s : State) (n : RingIx) (d : JobDesc) : State :=
  let r := s.ring n
  if r.enabled && decide (r.held.length < 64) then
    let h : HeldDesc := ⟨s.host.readSeq, r.consumed, d, false⟩
    let s := s.modRing n fun r => { r with consumed := r.consumed + 1, held := r.held ++ [h] }
    { s with host := { s.host with readSeq := s.host.readSeq + 1 } }
  else s

/-- The scheduler reads one descriptor and starts what it can (R270 to R274). -/
def State.takeDesc (s : State) (n : RingIx) (d : JobDesc) : State :=
  if s.polls then (s.readJobDesc n d).progress else s

/-- A PRODUCED value that its ring refuses (R269). -/
def State.ringError (s : State) (n : RingIx) (produced : Word) : State :=
  let s := s.modRing n fun r => { r with errors := r.errors + 1 }
  let s := s.postEvent 0x08 .done 0 (BitVec.ofNat 384 (n.val + 2 ^ 32 * produced.toNat))
  s.report { cls := .notice, code := 0x2803, subject := idHost n.val, reporter := idKp s.fw.activeB 2,
             detail := BitVec.ofNat 64 (n.val + 2 ^ 32 * produced.toNat) }

/-- One ring at a doorbell read: nothing new, a refused value, or the new descriptors, as many as may be held (R269, R270). -/
def State.serveRing (s : State) (n : RingIx) (produced : Word) (found : List JobDesc) : State :=
  let r := s.ring n
  let new := (produced - r.consumed).toNat
  if !r.enabled || new = 0 then s
  else if new > 2 ^ r.sizeLog2 then s.ringError n produced
  else (found.take (min new (64 - r.held.length))).foldl (fun s d => s.readJobDesc n d) s

/-! ## Driver loss (R278, R279, R372) -/

/-- A save or restore that needs the host stops with CANCELLED, and so does a drain; the snapshot stays (R279, R372). -/
def State.cutCkpt (s : State) : State :=
  let s := match s.job.drain with
    | some c => ({ s with job := { s.job with drain := none } }).finishDesc c.ring .cancelled id
    | none => s
  match s.job.stop with
  | some c =>
    if needsHost c.work then ({ s with job := { s.job with stop := none } }).finishDesc c.ring .cancelled id else s
  | none => s

/-- The driver is lost for a cause (R279). -/
def State.loseDriver (s : State) (cause : Nat) : State :=
  if s.attachedNow then
    let s : State := { s with host := { s.host with driverLost := true, lossCause := cause } }
    let s := s.report { cls := .notice, code := 0x2801, subject := idHost 15, reporter := idKp s.fw.activeB 2,
                        detail := BitVec.ofNat 64 cause }
    let s := ((s.startedRings isCopy).foldl (fun s n => s.cutCopy n .cancelled) s).cutCkpt
    if s.kp.state = .idle ∨ s.kp.state = .armed ∨ s.kp.state = .quiesced then s.orphanNow
    else if s.kp.state = .running then ({ s with host := { s.host with orphanDue := true } }).progress
    else s
  else s

/-- HEARTBEAT has been unchanged for the heartbeat timeout, as far as the module's own time has run (R278, R279). -/
def State.heartbeatLate (s : State) : Bool :=
  s.attachedNow && decide (s.host.heartbeatAt + 1000000 * s.host.heartbeatTimeout ≤ s.clk.aonMicros)

/-! ## Commands: descriptors -/

/-- STEP (R274). -/
def execStep (ring : RingIx) (h : DescHead) (x : DWord) (lrFactor : Word) (s : State) : Out :=
  .next (s.takeDesc ring ⟨h, .step x lrFactor⟩)

/-- COPY_TO_MODULE (R273). -/
def execCopyToModule (ring : RingIx) (h : DescHead) (hostAddr moduleAddr : DWord) (data : List Byte) (s : State) : Out :=
  .next (s.takeDesc ring ⟨h, .copyToModule hostAddr moduleAddr data⟩)

/-- COPY_FROM_MODULE (R273). -/
def execCopyFromModule (ring : RingIx) (h : DescHead) (hostAddr moduleAddr : DWord) (bytes : Nat) (s : State) : Out :=
  .next (s.takeDesc ring ⟨h, .copyFromModule hostAddr moduleAddr bytes⟩)

/-- QUIESCE (R274). -/
def execQuiesce (ring : RingIx) (h : DescHead) (s : State) : Out := .next (s.takeDesc ring ⟨h, .quiesce⟩)

/-- RESUME (R274). -/
def execResume (ring : RingIx) (h : DescHead) (s : State) : Out := .next (s.takeDesc ring ⟨h, .resume⟩)

/-- CHECKPOINT with MODE SNAPSHOT (R362, R363, R367). -/
def execCheckpointSnapshot (ring : RingIx) (h : DescHead) (f : CkptFields) (s : State) : Out :=
  .next (s.takeDesc ring ⟨h, .save .snapshot f⟩)

/-- CHECKPOINT with MODE DIRECT (R362, R363, R367). -/
def execCheckpointDirect (ring : RingIx) (h : DescHead) (f : CkptFields) (s : State) : Out :=
  .next (s.takeDesc ring ⟨h, .save .direct f⟩)

/-- CHECKPOINT with MODE RESTORE_HOST (R362, R368). -/
def execRestoreHost (ring : RingIx) (h : DescHead) (f : CkptFields) (image : List Byte) (s : State) : Out :=
  .next (s.takeDesc ring ⟨h, .restoreHost f image⟩)

/-- CHECKPOINT with MODE RESTORE_SNAPSHOT (R362, R368). -/
def execRestoreSnapshot (ring : RingIx) (h : DescHead) (f : CkptFields) (s : State) : Out :=
  .next (s.takeDesc ring ⟨h, .restoreSnapshot f⟩)

/-- MARKER (R273). -/
def execMarker (ring : RingIx) (h : DescHead) (s : State) : Out := .next (s.takeDesc ring ⟨h, .marker⟩)

/-! ## Commands: doorbells and the host -/

/-- DOORBELL_READ (R268 to R270, R278). -/
def execDoorbellRead (produced : List Word) (heartbeat : DWord) (found : List (RingIx × JobDesc)) (s : State) : Out :=
  if s.polls then
    let s : State := { s with host := { s.host with
      nudged := false
      heartbeatAt := if heartbeat = s.host.heartbeat then s.host.heartbeatAt else s.clk.aonMicros
      heartbeat := heartbeat } }
    let s := allRings.foldl (fun s n =>
      s.serveRing n (produced.getD n.val 0) ((found.filter fun x => x.1 = n).map Prod.snd)) s
    .next (if s.heartbeatLate then s.loseDriver 5 else s.progress)
  else .next s

/-- COPY_COMPLETION (R273, R275): the bytes are moved, and the next descriptor of the ring may start. -/
def execCopyCompletion (ring : RingIx) (s : State) : Out :=
  match (s.ring ring).held with
  | [] => .next s
  | h :: _ =>
    if h.started && isCopy h.desc.work then
      let n := copyBytes h.desc.work
      let (s, st) := s.moveCopy h.desc.work n
      .next (s.finishDesc ring st fun c => { c with detail := BitVec.ofNat 32 (n / 64) }).progress
    else .next s

/-- HOLDOFF_EXPIRY (R276). -/
def execHoldoffExpiry (ring : RingIx) (s : State) : Out :=
  let r := s.ring ring
  if r.holdoff then
    let s := s.modRing ring fun r => { r with holdoff := false, owed := false }
    .next (if r.owed then s.signal ring else s)
  else .next s

/-- HEARTBEAT_TIMEOUT (R278, R279). The block is compared only where it is read. -/
def execHeartbeatTimeout (s : State) : Out := .next (if s.polls then s.loseDriver 5 else s)

/-- PORT_RESET (R261, R282): port and configuration space are reset, and the driver is lost. A hot reset and PERST# train the link
again. -/
def execPortReset (kind : PortResetKind) (s : State) : Out :=
  let s := if kind = .functionLevel then s else s.trainPort
  let s : State := { s with host := { s.host with
    busMaster := false, msixEnable := false } }
  .next (s.loseDriver 2)

/-- BUS_MASTER_DISABLE (R279). -/
def execBusMasterDisable (s : State) : Out :=
  .next (({ s with host := { s.host with busMaster := false } } : State).loseDriver 3)

/-- HOST_READ_FAILURE (R261, R279). -/
def execHostReadFailure (kind : HostFailKind) (s : State) : Out :=
  let n := if kind = .completionTimeout then 1 else 0
  .next (({ s with host := { s.host with aer := s.host.aer + n } } : State).loseDriver 4)

/-! ## Commands: checkpoints -/

/-- What waited for a save goes on in QUIESCED; a fence's rest is STEP_END's (R363, R372). -/
def State.afterStop (s : State) : State := s.settleSaves

/-- A save's stop ends (R367). -/
def State.endSave (s : State) (c : Ckpt) (mode : SaveMode) (f : CkptFields) : State :=
  if c.status ≠ .done then s.finishDesc c.ring c.status id
  else
    match mode with
    | .snapshot =>
      let s := s.writeSnapshot (4096 * f.snapOffset.toNat) c.image c.image.length
      if s.host.driverLost then s.finishDesc c.ring .cancelled id
      else { s with job := { s.job with drain := some c } }
    | .direct =>
      if s.host.driverLost then s.finishDesc c.ring .cancelled id
      else (s.writeHost f.hostAddr.toNat c.image).finishDesc c.ring .done id

/-- A restore's stop ends: the image is checked and applied (R368). -/
def State.endRestore (s : State) (c : Ckpt) (f : CkptFields) (image : List Byte) (upTo : Option Nat) : State :=
  let tag := match (s.ring c.ring).held with
    | h :: _ => h.desc.head.tag
    | [] => 0
  let (s, st) := s.applyRestore f image upTo tag
  s.finishDesc c.ring st id

/-- The stop in progress ends (R367, R368). -/
def State.endStop (s : State) (c : Ckpt) : State :=
  let s : State := { s with job := { s.job with stop := none } }
  match c.work with
  | .save mode f => s.endSave c mode f
  | .restoreHost f image => s.endRestore c f image none
  | .restoreSnapshot f =>
    let at' := 4096 * f.snapOffset.toNat
    let image := s.readSnapshot at'
    let upTo := s.snapReadable at' image
    let (s, _) := s.readRanges (snapParts at' image)
    s.endRestore c f image upTo
  | _ => s

/-- A snapshot's drain ends: the image of the regions stands in host memory (R367, R372). -/
def State.endDrain (s : State) (c : Ckpt) (f : CkptFields) : State :=
  let s : State := { s with job := { s.job with drain := none } }
  let at' := 4096 * f.snapOffset.toNat
  let image := s.readSnapshot at'
  let (s, bad) := s.readRanges (snapParts at' image)
  if bad then s.finishDesc c.ring .memoryUncorrectable id
  else (s.writeHost f.hostAddr.toNat image).finishDesc c.ring .done id

end Sys2Proof.Machine
end

