-- ==== Sys2Proof/Machine/Kiln.lean ====
section
/-! DEFINITION. The kiln: KILN_OPEN, KILN_READOUT, REDUCTION_BEAT, and what a verdict does to the regions (R99 to R105). -/

namespace Sys2Proof.Machine

/-- Groups of a region (R100). -/
def KilnRegion.groups (g : KilnRegion) : Nat := g.rows * g.cols256 * 8

/-- A region's slot as an index. -/
def regionIx (r : BitVec 6) : SlotIx := ⟨r.toNat, r.isLt⟩

/-! ## OPEN (R100) -/

/-- The checks of R100 on OPEN. -/
def State.kilnOpenGood (s : State) (b : BayId) (f : KilnOpenFields) : Bool :=
  let groups := f.rows.toNat * f.cols256.toNat * 8
  decide (f.rows ≠ 0) && decide (f.cols256 ≠ 0) && decide ((s.region b (regionIx f.region)).state = .closed) &&
    (if f.spill then decide (f.spillAddr.toNat % 32 = 0) && inLoft f.spillAddr.toNat (160 * groups)
     else decide (f.baseGroup.toNat + groups ≤ 104857))

/-- The region opens with every written bit clear (R101, R102). -/
def State.openRegion (s : State) (b : BayId) (f : KilnOpenFields) : State :=
  s.modRegion b (regionIx f.region) fun _ =>
    { state := .isOpen, rows := f.rows.toNat, cols256 := f.cols256.toNat, spill := f.spill,
      baseGroup := f.baseGroup.toNat, spillAddr := f.spillAddr.toNat, written := [] }

/-- KILN_OPEN (R100 to R102). -/
def execKilnOpen (c : CmdHead) (f : KilnOpenFields) (s : State) : Out :=
  .next (s.takeCmd c .kiln (.kilnOpen f) true true fun s =>
    if s.kilnOpenGood c.bay f then (s.openRegion c.bay f, .done) else (s, .badDescriptor))

/-! ## Values of a region (R29, R99, R103) -/

/-- Position of a value in its region: row, column group of 256, column within it. -/
def KilnRegion.valueIx (g : KilnRegion) (row cg col : Nat) : Nat := (row * g.cols256 + cg) * 256 + col

/-- A value of a region as stored, in the kiln or in the loft. -/
def State.kilnValue (s : State) (b : BayId) (g : KilnRegion) (ix : Nat) : W40 :=
  if g.spill then BitVec.ofNat 40 ((s.die b.die).loft.readNat (g.spillAddr + 5 * ix) 5)
  else Sparse.get (0 : W40) (s.bay b).kiln (32 * g.baseGroup + ix)

/-- Consecutive values of a region written. -/
def State.writeKiln (s : State) (b : BayId) (g : KilnRegion) (ix : Nat) (vals : List W40) : State :=
  if g.spill then s.writeLoft b.die (g.spillAddr + 5 * ix) (vals.flatMap fun v => leBytes 5 v.toNat)
  else s.modBay b fun y => { y with
    kiln := Sparse.setRange (0 : W40) y.kiln (32 * g.baseGroup + ix) vals }

/-! ## REDUCTION_BEAT (R102, R103, R105) -/

/-- The beat falls in the region while it is OPEN (R101). -/
def KilnRegion.takes (g : KilnRegion) (row cg : Nat) : Bool :=
  decide (g.state = .isOpen) && decide (row < g.rows) && decide (cg < g.cols256)

/-- A reduction beat at the kiln of a bay: 256 totals added into one row segment, or a stray beat (R102, R105). -/
def State.kilnAdd (s : State) (b : BayId) (region : SlotIx) (row cg : Nat) (totals : List W40) : State :=
  let g := s.region b region
  if g.takes row cg then
    let seg := row * g.cols256 + cg
    let first := !g.written.contains seg
    let ix := g.valueIx row cg 0
    let vals := (List.range 256).map fun c =>
      addW40 (if first then 0 else s.kilnValue b g (ix + c)) (totals.getD c 0)
    let s := s.writeKiln b g ix vals
    let s := s.modRegion b region fun g => { g with written := if first then g.written ++ [seg] else g.written }
    if g.spill then
      s.modDie b.die fun r =>
        let r := r.count 0x41
        let r := if first then r else r.moveBytes 3 1280
        r.moveBytes 4 1280
    else s.countRing b.die 0x40
  else
    ((s.countRing b.die 0x47).setReplay).report
      { cls := .work, code := 0x5047, subject := idEngine b .kiln, reporter := idEngine b .kiln }

/-- REDUCTION_BEAT (R102, R103, R105); it counts as delivered to the kiln (R73). -/
def execReductionBeat (b : BayId) (region : BitVec 6) (rowIx colGroup : Nat) (totals : List W40) (s : State) : Out :=
  .next ((s.countRing b.die 0x13).kilnAdd b (regionIx region) rowIx colGroup totals)

/-! ## READOUT (R104) -/

/-- The segment a READOUT names has ended: a signed 16-bit difference (R100). -/
def RingDie.segmentEnded (r : RingDie) (n : BitVec 16) : Bool :=
  match r.lastEnded with
  | none => false
  | some e => !(BitVec.ofNat 16 e - n).msb

/-- The checks of R100 on READOUT. -/
def State.readoutGood (s : State) (b : BayId) (f : ReadoutFields) : Bool :=
  let g := s.region b (regionIx f.region)
  decide (g.state ≠ .closed) && inLoft f.destElem.toNat (32 * g.groups) && inLoft f.destScale.toNat g.groups

/-- A product of a value with 2^ADJ; one of magnitude 2^128 or more counts as an infinity (R104). -/
def adjusted (adj : Int) (x : Dyad) : Dyad :=
  let y := x.scale2 adj
  match y with
  | .fin neg m e => if m ≠ 0 ∧ leadExp m e ≥ 128 then .inf neg else .fin neg m e
  | y => y

/-- The values of one block of a region, +0 where its row segment is not written (R104). -/
def State.readoutBlock (s : State) (b : BayId) (g : KilnRegion) (adj : Int) (group : Nat) : List Dyad :=
  let written := g.written.contains (group / 8)
  (List.range 32).map fun i => if written then adjusted adj (decW40 (s.kilnValue b g (32 * group + i))) else .zero

/-- The readout of a region: one G8 block for each group, elements and scales in two arrays (R104). -/
def State.readout (s : State) (b : BayId) (f : ReadoutFields) : State :=
  let g := s.region b (regionIx f.region)
  let blocks := (List.range g.groups).map fun j => s.readoutBlock b g f.adj.toInt j
  let bad := blocks.countP fun l => l.any fun x => !x.isFinite
  let (codes, r) := (s.die b.die).encodeExactAll .g8 blocks
  let r := (r.count 0x44 g.groups).count 0x45 bad
  let r := if g.spill then r.moveBytes 3 (1280 * g.written.length) else r
  let s := s.modDie b.die fun _ => r
  let s := s.writeLoft b.die f.destElem.toNat (codes.flatMap fun c => BlockFmt.g8.packCodes c.codes)
  let s := s.writeLoft b.die f.destScale.toNat (codes.map fun c => BitVec.ofNat 8 c.scale)
  let s := s.modRegion b (regionIx f.region) fun g => { g with state := .isRead }
  if bad > 0 then
    s.setNonfinite.report { cls := .notice, code := 0x5045, subject := idEngine b .kiln, reporter := idEngine b .kiln }
  else s

/-- KILN_READOUT (R100, R104): its record is checked as the engine takes it (R437), and it waits until its segment has ended; a
region that a verdict has closed by then ends it too. -/
def execKilnReadout (c : CmdHead) (f : ReadoutFields) (s : State) : Out :=
  .next (s.takeCmd c .kiln (.kilnReadout f) ((s.die c.bay.die).segmentEnded f.segment) (s.readoutGood c.bay f)
    (fun s => (s.readout c.bay f, .done)))

/-! ## The verdict (R101, R105) -/

/-- Regions that a verdict discards: never read out, or with REPLAY any that is not CLOSED (R105, R114). -/
def KilnRegion.discardedBy (g : KilnRegion) (replay : Bool) : Bool :=
  if replay then g.state ≠ .closed else g.state = .isOpen

/-- Every region of a die closes at the verdict (R101, R105). -/
def RingDie.closeRegions (r : RingDie) (replay : Bool) : RingDie :=
  let gone := (r.bays.toList.map fun y => y.regions.toList.countP fun g => g.discardedBy replay).sum
  { (r.count 0x46 gone) with
    bays := r.bays.map fun y => { y with regions := y.regions.map fun g => { g with state := .closed, written := [] } } }

end Sys2Proof.Machine
end

