-- ==== Sys2Proof/Machine/Links.lean ====
section
/-! DEFINITION. Mortise links: bring-up and HELLO (R204, R205, R212), retraining and what fails with a link (R202, R214), credits,
retry and the choice of the next tenon (R197 to R203), lanes (R206 to R209). A tenon's delivery to the link engine is in
Tenons.lean. -/

namespace Sys2Proof.Machine

/-! ## LINK_CTRL (R211) -/

/-- ENABLE. -/
def Link.enabled (l : Link) : Bool := l.ctrl.getLsbD 0
/-- PROFILE. -/
def Link.profile (l : Link) : BitVec 2 := l.ctrl.extractLsb' 1 2
/-- ALLOW_SELF. -/
def Link.allowSelf (l : Link) : Bool := l.ctrl.getLsbD 3
/-- RETRY_LIMIT. -/
def Link.retryLimit (l : Link) : Nat :=
  let n := (l.ctrl.extractLsb' 4 4).toNat
  if n = 0 then 8 else n
/-- RETRAIN_LIMIT. -/
def Link.retrainLimit (l : Link) : Nat :=
  let n := (l.ctrl.extractLsb' 16 8).toNat
  if n = 0 then 3 else n

/-- Credits the link advertises, VC0 first (R212). -/
def Link.advertised (l : Link) : List Nat :=
  [(l.credit0.extractLsb' 0 14).toNat, (l.credit0.extractLsb' 16 14).toNat, (l.credit1.extractLsb' 0 14).toNat,
   (l.credit1.extractLsb' 16 14).toNat]

/-- The division of the receive buffer is one that HELLO may carry (R212). -/
def Link.creditsGood (l : Link) : Bool := l.advertised.all (fun n => decide (514 ≤ n)) && decide (l.advertised.sum ≤ 16384)

/-- LINK_STATUS.STATE codes (R213). -/
def linkCode : LinkState → Nat
  | .down => 0
  | .training => 1
  | .hello => 2
  | .up => 3
  | .retraining => 4
  | .refused => 5
  | .disabled => 6

/-! ## State changes (R202, R213, R214) -/

/-- The class of a link's change of state: a retraining is corrected, a link lost is capability lost (R342). -/
def linkClass : LinkState → Class
  | .retraining => .corrected
  | .down => .degraded
  | _ => .notice

/-- A link's state changes: a LINK event and a record (R204, R205, R287, R416). -/
def State.setLink (s : State) (k : LinkId) (st : LinkState) : State :=
  if (s.link k).state = st then s
  else
    let s := (s.modLink k fun l => { l with state := st }).postEvent 0x03 .done 0 (BitVec.ofNat 384 (k.val + 256 * linkCode st))
    s.report { cls := linkClass st, code := 0x7801, subject := idLink k, reporter := idLink k,
               detail := BitVec.ofNat 64 (linkCode st) }

/-- A LINK command that fails for want of a link or a peer: recorded under the peer's name, or the link's (R214, R344). -/
def State.reportLost (s : State) (k : Option LinkId) (st : Status) : State :=
  match k with
  | none => s.report { cls := .work, code := Config.unlistedCode 2, subject := idModule, reporter := idModule, status := st }
  | some k =>
    s.report { cls := .work, code := Config.unlistedCode 2,
               subject := if st = .peerLost then idPeer (s.link k).farId else idLink k, reporter := idLink k, status := st }

/-- LINK commands in execution that need a link or its far module complete with a status (R202, R214). -/
def State.failLinkCmds (s : State) (k : LinkId) (st : Status) : State :=
  allBays.foldl (fun s b =>
    match ((s.bay b).queue .link).running with
    | none => s
    | some r =>
      if !statusError r.status && (s.stillNeeds r.cmd).any fun m => s.route m = some k then
        (s.modQueue b .link fun q => { q with running := some { r with status := st } }).reportLost (some k) st
      else s) s

/-- Blocks of a tenon: head, data and tail (R193, R198). -/
def tenonBlocks (t : Tenon) : Nat := ceilDiv t.payload.length 32 + 2

/-- A tenon has left a link's receive buffer: its blocks go back to the far side (R198). -/
def State.returnCredit (s : State) (k : LinkId) (t : Tenon) : State :=
  s.modLink k fun l => { l with returned := l.returned.set t.vc (l.returned[t.vc] + tenonBlocks t) }

/-- A link drops its outstanding tenons; those of forwards leave their receive buffers (R202). -/
def State.dropTenons (s : State) (k : LinkId) : State :=
  let waiting := (s.link k).queues.toList.flatten
  let s := waiting.foldl (fun s q =>
    match q.via with
    | some i => s.returnCredit i q.tenon
    | none => s) s
  s.modLink k fun l => { l with
    retry := [], resendLeft := 0, queues := Vector.replicate 4 [], credits := Vector.replicate 4 0
    returned := Vector.replicate 4 0, txSeq := 0, rxSeq := 0, nakSent := false, lastHello := none, changes := []
    retrainFails := 0, peerKnown := false }

/-- A link goes DOWN or REFUSED: commands that need it fail, and its tenons are dropped (R202, R214). -/
def State.loseLink (s : State) (k : LinkId) (st : LinkState) : State :=
  ((s.failLinkCmds k .linkDown).dropTenons k).setLink k st

/-- A retraining starts (R201, R202). -/
def State.retrain (s : State) (k : LinkId) : State :=
  (s.modLink k fun l => l.count 0x07).setLink k .retraining

/-! ## Lanes in use (R204, R206 to R209) -/

/-- Lanes of a mask, ascending. -/
def lanesOf (m : BitVec 9) : List (Fin 9) := (List.finRange 9).filter fun i => m.getLsbD i.val

/-- The lane map and its flags from the lanes usable at both ends, of which there are at least 7 (R204). -/
def Link.mapLanes (l : Link) (common : BitVec 9) : Link :=
  let lanes := lanesOf common
  { l with
    laneOk := common, laneMap := lanes.take 8, spareUsed := decide (lanes.length < 9), degraded := decide (lanes.length < 8)
    changes := [] }

/-- A link that keeps fewer than 7 lanes runs on none (R204, R213). -/
def Link.noLanes (l : Link) (common : BitVec 9) : Link :=
  { l with laneOk := common, laneMap := [], spareUsed := true, degraded := false, changes := [] }

/-- The idle spare lane (R204, R206). -/
def Link.spare (l : Link) : Option (Fin 9) :=
  if l.spareUsed then none
  else (lanesOf l.laneOk).find? fun i => !l.laneMap.contains i && !(l.changes.any fun c => c.replacement = some i)

/-- The lane is in use, or is about to be. -/
def Link.inUse (l : Link) (i : Fin 9) : Bool :=
  l.laneMap.contains i || l.changes.any fun c => c.replacement = some i

/-- The replacement as LANE_MAP names it: the spare, or 0xFF for none (R207). -/
def replacementByte : Option (Fin 9) → Byte
  | some r => BitVec.ofNat 8 r.val
  | none => 0xFF

/-- The row that a lane change sends (R207): LANE_MAP from the side that declares the failure, LANE_MAP_ACK from the other. -/
def LaneChange.row (c : LaneChange) : LaneRow := ⟨!c.mine, c.lane, replacementByte c.replacement, c.ownFrame⟩

/-- A lane that is no longer usable: a change to the spare, or to 7 lanes, begins, and the spare is used up (R206 to R208). The
row of a change that follows another is sent after that one, but an answer at once (R207). -/
def Link.loseLane (l : Link) (c : LaneChange) : Link :=
  { l with
    laneOk := l.laneOk &&& ~~~BitVec.ofNat 9 (2 ^ c.lane.val), spareUsed := true, changes := l.changes ++ [c]
    laneSent := if l.changes.isEmpty || !c.mine then some c.row else l.laneSent }

/-- The lane record and the scribe records of a lane failure (R209). -/
def State.recordLane (s : State) (k : LinkId) (i : Fin 9) : State :=
  let s := s.modLink k fun l => { l with laneRecords := l.laneRecords ||| BitVec.ofNat 9 (2 ^ i.val) }
  let r (code : BitVec 16) : Report :=
    { cls := .corrected, code := code, subject := idLink k i.val, reporter := idLink k i.val, detail := BitVec.ofNat 64 i.val }
  ((s.report (r 0x700A)).report (r 0x7802)).evalCauses

/-- A lane is lost on both sides, and the link's own switch frame is taken: its number is free, as the model counts no frames (log
entry 141). With fewer than 7 lanes left the link goes DOWN (R207, R208). -/
def State.loseLane (s : State) (k : LinkId) (i : Fin 9) (replacement : Option (Fin 9)) (farFrame : Option Nat) : State :=
  let (frame, s) := s.takeFree
  let s := (s.modLink k fun l => l.loseLane ⟨i, replacement, frame, farFrame, farFrame.isNone⟩).recordLane k i
  if (lanesOf (s.link k).laneOk).length < 7 then s.loseLink k .down else s

/-! ## Bring-up (R204, R205, R212) -/

/-- LINK_BRING_UP: training has ended, and both ends know the usable lanes (R204). -/
def execLinkBringUp (link : LinkId) (usable far : BitVec 9) (s : State) : Out :=
  let l := s.link link
  if l.state = .training then
    let common := usable &&& far &&& ~~~l.laneRecords
    if (lanesOf common).length < 7 then .next ((s.modLink link fun l => l.noLanes common).setLink link .down)
    else .next (((s.modLink link fun l => l.mapLanes common).evalCauses).setLink link .hello)
  else .next s

/-- Why a HELLO is refused (R205). -/
def State.helloRefused (s : State) (k : LinkId) (f : HelloFields) : Bool :=
  !(f.farKind = 1 || f.farKind = 2) || f.boardId ≠ s.kp.boardId.extractLsb' 0 16 ||
  !(decide (f.minVersion.toNat ≤ 1) && decide (1 ≤ f.maxVersion.toNat)) || f.profile ≠ (s.link k).profile ||
  (f.moduleId = s.moduleId && !(s.link k).allowSelf)

/-- Credits of a HELLO, VC0 first. -/
def helloCredits (f : HelloFields) : Vector Nat 4 := Vector.ofFn fun v : Fin 4 => (f.credits.getD v.val 0).toNat

/-- What a link keeps of a HELLO that brings it UP. The HELLO it has sent gave every free block, so none is left to return (R198,
R202). -/
def Link.meets (l : Link) (f : HelloFields) : Link :=
  { l with
    farKind := f.farKind, farId := f.moduleId, lastHello := some f, credits := helloCredits f
    returned := Vector.replicate 4 0, nakSent := false, retrainFails := 0, farWasUp := true }

/-- Blocks of a link's receive buffer that tenons of a VC hold: forwards not yet sent on, gather chunks that wait for the verdict,
and votes that wait for a slot (R198). -/
def State.heldBlocks (s : State) (k : LinkId) (v : Nat) : Nat :=
  let waiting := s.links.toList.flatMap (fun l => l.queues.toList.flatten) ++ s.coll.held ++ s.edges.toList.flatMap Edge.waiting
  ((waiting.filter fun q => q.via = some k && decide (q.tenon.vc.val = v)).map fun q => tenonBlocks q.tenon).sum

/-- The HELLO that the module sends on a link (R205, R212): its free receive blocks are those that hold no tenon. -/
def State.helloOut (s : State) (k : LinkId) : HelloFields :=
  { farKind := 1, moduleId := s.moduleId, boardId := s.kp.boardId.extractLsb' 0 16, minVersion := 1, maxVersion := 1
    profile := (s.link k).profile, lanes := (s.link k).laneOk
    credits := (s.link k).advertised.zipIdx.map fun x => BitVec.ofNat 14 (x.1 - s.heldBlocks k x.2) }

/-- A tenon that a link engine has made goes to the queue of its route's link, or is held where none can carry it (R197, R214). -/
def State.emit (s : State) (t : Tenon) : State :=
  match s.route t.dstId with
  | some k =>
    if (s.link k).usable then
      s.modLink k fun l => { l with queues := l.queues.set t.vc (l.queues[t.vc] ++ [⟨t, none⟩]) }
    else { s with coll := { s.coll with undeliverable := s.coll.undeliverable ++ [t] } }
  | none => { s with coll := { s.coll with undeliverable := s.coll.undeliverable ++ [t] } }

/-- Tenons that waited for a link go out on it as it comes UP (R197, R214; log entry 110). -/
def State.sendHeld (s : State) (k : LinkId) : State :=
  let goes (t : Tenon) : Bool := s.route t.dstId = some k
  (s.coll.undeliverable.filter goes).foldl State.emit
    { s with coll := { s.coll with undeliverable := s.coll.undeliverable.filter fun t => !goes t } }

/-- A HELLO differs from the previous one in what must agree (R202). -/
def helloDiffers (f : HelloFields) : Option HelloFields → Bool
  | none => false
  | some old => f.farKind ≠ old.farKind || f.moduleId ≠ old.moduleId || f.boardId ≠ old.boardId

/-- The links' HELLOs meet, at bring-up and after a retraining (R202, R204, R205, R212): a link whose credits do not fit stays in
HELLO and sends none; a HELLO that is not accepted, or that differs from the previous one, leads to REFUSED; otherwise the link is
UP. With no previous HELLO it starts at SEQ 0; after a retraining it resends from its oldest unacknowledged tenon. -/
def State.meetHello (s : State) (k : LinkId) (f : HelloFields) : State :=
  if !(s.link k).creditsGood then (s.countLink k 0x0E).setLink k .hello
  else
    let s := s.modLink k fun l => { l with helloSent := some (s.helloOut k) }
    if s.helloRefused k f || helloDiffers f (s.link k).lastHello then
      (s.modLink k fun l => { l with farKind := f.farKind, farId := f.moduleId }).loseLink k .refused
    else
      let s := s.modLink k fun l =>
        match l.lastHello with
        | none => { (l.meets f) with txSeq := 0, rxSeq := 0, retry := [], resendLeft := 0, peerKnown := false }
        | some _ => { (l.meets f) with resendLeft := l.retry.length }
      (s.setLink k .up).sendHeld k

/-- HELLO (R204, R205, R212). -/
def execHello (link : LinkId) (f : HelloFields) (s : State) : Out :=
  .next (if (s.link link).state = .hello && s.kp.peg then s.meetHello link f else s)

/-! ## Retraining (R202) -/

/-- A retraining attempt has failed (R202). -/
def State.retrainFailed (s : State) (k : LinkId) : State :=
  let s := s.modLink k fun l => { (l.count 0x08) with retrainFails := l.retrainFails + 1 }
  if (s.link k).retrainFails ≥ (s.link k).retrainLimit then s.loseLink k .down else s

/-- LINK_RETRAINING: one attempt ends (R202, R204). -/
def execLinkRetraining (link : LinkId) (usable : BitVec 9) (far : Option HelloFields) (s : State) : Out :=
  if (s.link link).state = .retraining then
    match far with
    | none => .next (s.retrainFailed link)
    | some f =>
      let common := usable &&& f.lanes &&& ~~~(s.link link).laneRecords
      if (lanesOf common).length < 7 then .next ((s.modLink link fun l => l.noLanes common).loseLink link .down)
      else .next (((s.modLink link fun l => l.mapLanes common).evalCauses).meetHello link f)
  else .next s

/-- CREDIT_ACK_TIMEOUT (R201). -/
def execCreditAckTimeout (link : LinkId) (s : State) : Out :=
  .next (if (s.link link).state = .up then s.retrain link else s)

/-! ## Sending (R197 to R201) -/

/-- Bytes of the retry buffer in use (R200). -/
def Link.retryBytes (l : Link) : Nat := (l.retry.map fun u => 32 * tenonBlocks u.tenon).sum

/-- The retry buffer has room for a tenon (R198, R200). -/
def Link.retryRoom (l : Link) (t : Tenon) : Bool :=
  decide (l.retryBytes + 32 * tenonBlocks t ≤ 524288) && decide (l.retry.length < 4096)

/-- The tenon at the head of a VC has its credits and room (R198). -/
def Link.canSend (l : Link) (v : Fin 4) : Bool :=
  match l.queues[v] with
  | [] => false
  | q :: _ => decide (tenonBlocks q.tenon ≤ l.credits[v]) && l.retryRoom q.tenon

/-- The VC to serve next: VC2 first, else VC0, VC1 and VC3 in rotation (R199). -/
def Link.nextVc (l : Link) : Option (Fin 4) :=
  let order : List (Fin 4) := if l.lastVc = 0 then [1, 3, 0] else if l.lastVc = 1 then [3, 0, 1] else [0, 1, 3]
  (2 :: order).find? fun v => l.canSend v

/-- VCs whose tenon waits for credits: counted once each time the link looks for a tenon (R215). -/
def Link.countStalls (l : Link) : Link :=
  (List.finRange 4).foldl (fun l v =>
    match l.queues[v] with
    | [] => l
    | q :: _ => if tenonBlocks q.tenon ≤ l.credits[v] then l else l.count (0x30 + v.val)) l

/-- Payload bytes counted in KiB (R215). -/
def Link.movePayload (l : Link) (sent : Bool) (n : Nat) : Link :=
  if sent then { (l.count 0x02 ((l.sentRest + n) / 1024)) with sentRest := (l.sentRest + n) % 1024 }
  else { (l.count 0x03 ((l.receivedRest + n) / 1024)) with receivedRest := (l.receivedRest + n) % 1024 }

/-- The head block of a tenon (R193). -/
def tenonHead (seq : BitVec 16) (t : Tenon) : List Byte :=
  [0x10, BitVec.ofNat 8 t.vc.val] ++ leBytes 2 seq.toNat ++ leBytes 2 t.srcId.toNat ++ leBytes 2 t.dstId.toNat ++
    [t.hops.setWidth 8, t.opcode] ++ leBytes 2 t.payload.length ++ leBytes 8 t.time.toNat ++ leBytes 8 t.context.toNat ++
    List.replicate 4 0

/-- The head and data blocks of a tenon, padding included (R193, R194). -/
def tenonBody (seq : BitVec 16) (t : Tenon) : List Byte :=
  tenonHead seq t ++ t.payload ++ List.replicate (32 * ceilDiv t.payload.length 32 - t.payload.length) 0

/-- The CRC of a tenon (R194). -/
def tenonCrc (seq : BitVec 16) (t : Tenon) : Word := crc32c (tenonBody seq t)

/-- A tenon as sent: head, data and tail (R193, R194). -/
def tenonWire (seq : BitVec 16) (t : Tenon) : List Byte :=
  tenonBody seq t ++ [0x11, 0, 0, 0] ++ leBytes 4 (tenonCrc seq t).toNat ++ List.replicate 24 0

/-- The oldest tenon still to resend goes again (R200). -/
def Link.resendOne (l : Link) : Link :=
  let i := l.retry.length - l.resendLeft
  { (l.count 0x06) with
    resendLeft := l.resendLeft - 1
    tenonSent := match l.retry[i]? with
      | some u => tenonWire u.seq u.tenon
      | none => l.tenonSent
    retry := l.retry.zipIdx.map fun x => if x.2 = i then { x.1 with resends := x.1.resends + 1 } else x.1 }

/-- A new tenon leaves a VC: credits spent, a SEQ taken, kept for retry; a tenon of this module takes its TIME (R193, R198,
R200). -/
def State.sendNew (s : State) (k : LinkId) (v : Fin 4) : State :=
  match (s.link k).queues[v] with
  | [] => s
  | q :: rest =>
    let t : Tenon := if q.via.isNone then { q.tenon with time := s.now } else q.tenon
    let s := s.modLink k fun l => { ((l.count 0x00).movePayload true t.payload.length) with
      queues := l.queues.set v rest
      credits := l.credits.set v (l.credits[v] - tenonBlocks t)
      retry := l.retry ++ [⟨l.txSeq, 0, t⟩]
      txSeq := l.txSeq + 1
      tenonSent := tenonWire l.txSeq t
      lastVc := if v = 2 then l.lastVc else v }
    match q.via with
    | some i => s.returnCredit i t
    | none => s

/-- TENON_SEND (R199, R200): resends first, then the next tenon; nothing during a lane change (R207). -/
def execTenonSend (link : LinkId) (s : State) : Out :=
  let l := s.link link
  if l.state = .up && l.changes.isEmpty then
    if l.resendLeft > 0 then .next (s.modLink link Link.resendOne)
    else
      let s := s.modLink link Link.countStalls
      match l.nextVc with
      | some v => .next (s.sendNew link v)
      | none => .next s
  else .next s

/-- A tenon of this module (R193). -/
def State.newTenon (s : State) (vc : Fin 4) (dst : BitVec 15) (op : Byte) (context : DWord) (payload : List Byte) : Tenon :=
  { vc := vc, srcId := s.moduleId, dstId := dst, hops := 15, opcode := op, time := s.now, context := context, payload := payload }

/-! ## Receiving, up to delivery (R195, R197, R200) -/

/-- A tenon is discarded for want of a route or of hops (R197). -/
def State.discard (s : State) (k : LinkId) (t : Tenon) : State :=
  ((s.countLink k 0x0C).returnCredit k t).report
    { cls := .notice, code := 0x700C, subject := idPeer t.dstId, reporter := idLink k, detail := 0xF }

/-- A tenon for another module goes on by its route (R197). -/
def State.forward (s : State) (k : LinkId) (t : Tenon) : State :=
  match s.route t.dstId with
  | none => s.discard k t
  | some out =>
    if t.hops = 0 ∨ (s.link out).usable = false then s.discard k t
    else
      (s.countLink k 0x0B).modLink out fun l =>
        { l with queues := l.queues.set t.vc (l.queues[t.vc] ++ [⟨{ t with hops := t.hops - 1 }, some k⟩]) }

/-- The tenon passes R195's checks but for its SEQ. -/
def arrivedGood (t : ArrivedTenon) : Bool :=
  t.lanes.uncorrectable.all (fun n => n == 0) && t.crc = tenonCrc t.seq t.tenon && t.shapeGood && t.reservedClear &&
    decide (t.tenon.payload.length ≤ 16384)

/-- PEER_STATE that the module sends: its own state, or FAULTED where its edge dies have lost the kingpost (R192, R301, R304). -/
def State.peerOut (s : State) : BitVec 3 := if s.fw.edgeFaulted then 6 else stateCode s.kp.state

/-- The CREDIT_ACK that a link sends (R192, R198, R200, R203). -/
def State.ackOut (s : State) (k : LinkId) (nak : Bool) : CreditAck :=
  { peerState := s.peerOut, ackSeq := (s.link k).rxSeq - 1, nak := nak, time := s.now
    returns := (s.link k).returned.toList.map fun n => BitVec.ofNat 12 (min n 4095), lanes := default }

/-- A CREDIT_ACK is sent: up to 4,095 blocks of each VC go back in it (R192, R198). -/
def State.sendAck (s : State) (k : LinkId) (nak : Bool) : State :=
  let out := s.ackOut k nak
  s.modLink k fun l => { l with ackSent := some out, returned := l.returned.map fun n => n - min n 4095 }

/-- A tenon is dropped: the first that is not only out of order sends NAK at once (R195, R200). -/
def State.dropTenon (s : State) (k : LinkId) (t : ArrivedTenon) : State :=
  let s := s.countLink k 0x04
  if arrivedGood t || (s.link k).nakSent then s
  else (s.modLink k fun l => { (l.count 0x05) with nakSent := true }).sendAck k true

/-- What the lanes met is counted: corrected symbols and uncorrectable codewords of each lane, and unknown control blocks, which are
discarded (R191, R215). -/
def State.noteLanes (s : State) (k : LinkId) (e : LaneErrors) : State :=
  s.modLink k fun l =>
    (List.range 9).foldl
      (fun l i => (l.count (0x10 + i) (e.corrected.getD i 0)).count (0x20 + i) (e.uncorrectable.getD i 0))
      (l.count 0x0D e.unknownBlocks)

/-- A tenon accepted: counted and acknowledged (R200, R215). -/
def State.acceptTenon (s : State) (k : LinkId) (t : Tenon) : State :=
  s.modLink k fun l => { ((l.count 0x01).movePayload false t.payload.length) with rxSeq := l.rxSeq + 1, nakSent := false }

/-! ## CREDIT_ACK (R192, R198, R200, R203) -/

/-- Tenons that an ACK_SEQ covers leave the retry buffer (R200). -/
def Link.ack (l : Link) (seq : BitVec 16) : Link :=
  let retry := l.retry.filter fun u => (seq - u.seq).msb
  { l with retry := retry, resendLeft := min l.resendLeft retry.length }

/-- A resend of every unacknowledged tenon is asked for; at RETRY_LIMIT the link retrains (R200, R201). -/
def State.askResend (s : State) (k : LinkId) : State :=
  match (s.link k).retry with
  | [] => s
  | u :: _ =>
    if u.resends ≥ (s.link k).retryLimit then s.retrain k
    else s.modLink k fun l => { l with resendLeft := l.retry.length }

/-- A signed number as a 32-bit word, held at its bounds. -/
def clamp32 (x : Int) : Word := BitVec.ofInt 32 (max (-2147483648) (min x 2147483647))

/-- d of a CREDIT_ACK: least, greatest, and mismatches (R203, R406). -/
def State.noteDelay (s : State) (k : LinkId) (time : DWord) : State :=
  let d : Int := (s.now - time).toInt
  let s := s.modLink k fun l =>
    let least := Sparse.get (0 : Word) l.counters 0x34
    let greatest := Sparse.get (0 : Word) l.counters 0x35
    let c := if d < least.toInt then Sparse.set (0 : Word) l.counters 0x34 (clamp32 d) else l.counters
    { l with counters := if d > greatest.toInt then Sparse.set (0 : Word) c 0x35 (clamp32 d) else c }
  if d < 0 ∨ d > 10000 then
    (s.countLink k 0x0F).report { cls := .notice, code := 0x700F, subject := idLink k, reporter := idLink k, detail := 0xF }
  else s

/-- PEER_STATE of a CREDIT_ACK: a far module that fails completes the commands that need it with PEER_LOST (R192, R214). -/
def State.notePeer (s : State) (k : LinkId) (st : BitVec 3) : State :=
  let was := (s.link k).peerGone
  let s := s.modLink k fun l => { l with peerState := st, peerKnown := true }
  if (s.link k).peerGone && !was then
    (s.report { cls := .notice, code := Config.unlistedCode 8, subject := idPeer (s.link k).farId,
                reporter := idLink k, detail := BitVec.ofNat 64 st.toNat }).failLinkCmds k .peerLost
  else s

/-- CREDIT_ACK (R192, R198, R200, R203). The control rows of the two directions keep step, one a frame (R190): as the far side's
comes, the module sends its own (log entry 142). -/
def execCreditAck (link : LinkId) (blk : CreditAck) (s : State) : Out :=
  if (s.link link).state = .up then
    let s := (s.noteLanes link blk.lanes).modLink link fun l => { (l.ack blk.ackSeq) with
      credits := Vector.ofFn fun v : Fin 4 => l.credits[v] + (blk.returns.getD v.val 0).toNat }
    let s := ((s.noteDelay link blk.time).notePeer link blk.peerState).sendAck link false
    .next (if blk.nak then s.askResend link else s)
  else .next s

/-- REPLAY_TIMER (R201). -/
def execReplayTimer (link : LinkId) (s : State) : Out :=
  .next (if (s.link link).state = .up then s.askResend link else s)

/-- CREDIT_HOLD_TIMEOUT (R197): the module records the VC that has held a tenon too long. -/
def execCreditHoldTimeout (link : LinkId) (vc : Fin 4) (s : State) : Out :=
  let l := s.link link
  .next (if l.usable && !l.queues[vc].isEmpty then
    s.report { cls := .notice, code := Config.unlistedCode 9, subject := idLink link, reporter := idLink link,
               detail := BitVec.ofNat 64 vc.val }
  else s)

/-! ## Lane changes (R206 to R208) -/

/-- LANE_FAILURE (R206 to R209): the receiver declares the lane failed and sends LANE_MAP; the spare is tested as every lane is,
from training on. -/
def execLaneFailure (link : LinkId) (lane : Fin 9) (why : LaneFault) (s : State) : Out :=
  let _ := why
  let l := s.link link
  if (l.state = .up || l.state = .hello) && l.laneOk.getLsbD lane.val then
    let spare := (l.spare).filter fun i => i ≠ lane
    .next ((s.countLink link 0x0A).loseLane link lane spare none)
  else .next s

/-- LANE_MAP (R207): the far side has declared the lane failed; LANE_MAP_ACK answers it, and only IDLE is sent until the switch
frame. -/
def execLaneMap (link : LinkId) (lane : Fin 9) (replacement : Byte) (farFrame : Nat) (s : State) : Out :=
  let l := s.link link
  let to' : Option (Fin 9) := if h : replacement.toNat < 9 then some ⟨replacement.toNat, h⟩ else none
  .next (if (l.state = .up || l.state = .hello) && l.laneOk.getLsbD lane.val then s.loseLane link lane to' (some farFrame) else s)

/-- LANE_MAP_ACK (R207): the far side names its switch frame. -/
def execLaneMapAck (link : LinkId) (farFrame : Nat) (s : State) : Out :=
  .next (s.modLink link fun l => { l with changes :=
    match l.changes with
    | [] => []
    | c :: rest => { c with farFrame := some farFrame } :: rest })

/-- The first lane change is applied: the failed lane's place goes to its replacement, or the link runs on 7 lanes; a spare that
failed leaves the map as it was. The next change, if one waits, then begins (R190, R207, R208). -/
def Link.switchLane (l : Link) : Link :=
  match l.changes with
  | [] => l
  | c :: rest =>
    let l := { (l.count 0x09) with
      changes := rest
      laneSent := match rest.head? with
        | some n => if n.mine then some n.row else l.laneSent
        | none => l.laneSent }
    match c.replacement with
    | some r => { l with laneMap := l.laneMap.map fun i => if i = c.lane then r else i }
    | none =>
      if l.laneMap.contains c.lane then { l with laneMap := l.laneMap.filter fun i => i ≠ c.lane, degraded := true } else l

/-- LANE_SWITCH_FRAME (R207, R208). -/
def execLaneSwitchFrame (link : LinkId) (s : State) : Out :=
  .next (if (s.link link).state = .up || (s.link link).state = .hello then s.modLink link Link.switchLane else s)

end Sys2Proof.Machine
end

