-- ==== Sys2Proof/Machine/Registers.lean ====
section
/-! DEFINITION. BAR0 and BAR2 as the host sees them (R261 to R268, R277, R283, R323 to R325, R340, R341, R380, R398 to R418): what each
register reads, what a write to it does, the peg, the ledger window, the log window, the latching reads, and the aperture. -/

namespace Sys2Proof.Machine

/-! ## The block map (R399) -/

/-- A place in BAR0: a block or window with the offset in it. -/
inductive Place where
  | kp (o : Nat)
  | host (o : Nat)
  | hostRing (n : RingIx) (o : Nat)
  | clk (o : Nat)
  | pwr (o : Nat)
  | ring (d : DieId) (o : Nat)
  | sill (m : SillId) (o : Nat)
  | link (k : LinkId) (o : Nat)
  | scribe (o : Nat)
  | cfg (o : Nat)
  | sec (o : Nat)
  | msixTable (o : Nat)
  | msixPending (o : Nat)
  | reserved
deriving DecidableEq, Repr

/-- A place of the HOST block (R264). -/
def hostPlace (o : Nat) : Place :=
  if h : 0x100 ≤ o ∧ o < 0x300 then .hostRing ⟨(o - 0x100) / 0x20, by omega⟩ (o % 0x20) else .host o

/-- The place of a BAR0 offset (R399). -/
def placeOfOffset (off : Nat) : Place :=
  if off % 4 ≠ 0 then .reserved
  else if off < 0x0100000 then .kp off
  else if off < 0x0200000 then hostPlace (off - 0x0100000)
  else if off < 0x0300000 then .clk (off - 0x0200000)
  else if off < 0x0400000 then .pwr (off - 0x0300000)
  else if h : 0x0400000 ≤ off ∧ off < 0x0800000 then .ring ⟨(off - 0x0400000) / 0x40000, by omega⟩ (off % 0x40000)
  else if h : 0x0800000 ≤ off ∧ off < 0x0B00000 then .sill ⟨(off - 0x0800000) / 0x40000, by omega⟩ (off % 0x40000)
  else if h : 0x0C00000 ≤ off ∧ off < 0x0D80000 then .link ⟨(off - 0x0C00000) / 0x10000, by omega⟩ (off % 0x10000)
  else if 0x0E00000 ≤ off ∧ off < 0x0F00000 then .scribe (off - 0x0E00000)
  else if 0x0F00000 ≤ off ∧ off < 0x1000000 then .cfg (off - 0x0F00000)
  else if 0x1000000 ≤ off ∧ off < 0x1100000 then .sec (off - 0x1000000)
  else if 0x1F00000 ≤ off ∧ off < 0x1F00400 then .msixTable (off - 0x1F00000)
  else if 0x1F10000 ≤ off ∧ off < 0x1F10008 then .msixPending (off - 0x1F10000)
  else .reserved

/-- Access codes (R8). -/
inductive Access where
  | rw | ro | wo | w1c | w1s | rwp
deriving DecidableEq, Repr

/-- An index of the RING counter array that R411 assigns. -/
def ringCounter (i : Nat) : Bool :=
  [(0x00, 0x06), (0x10, 0x18), (0x20, 0x39), (0x40, 0x48), (0x50, 0x5B), (0x60, 0x70), (0x80, 0x90), (0xA0, 0xB4)].any
    fun x => decide (x.1 ≤ i) && decide (i ≤ x.2)

/-- An index of the SILL counter array that R412 assigns. -/
def sillCounter (i : Nat) : Bool := decide (i ≤ 0x12) || (decide (0x20 ≤ i) && decide (i ≤ 0x2E))

/-- An index of the link-layer counter array that R413 assigns. -/
def linkCounter (i : Nat) : Bool :=
  [(0x00, 0x18), (0x20, 0x28), (0x30, 0x35)].any fun x => decide (x.1 ≤ i) && decide (i ≤ x.2)

/-- The places of a counter array and its clear registers (R406). -/
def arrayAccess (o base clear clears : Nat) (used : Nat → Bool) : Option Access :=
  if clear ≤ o ∧ o < clear + 4 * clears then some .w1c
  else if base ≤ o ∧ o < clear ∧ used ((o - base) / 4) = true then some .ro
  else none

/-- The access code of the register at a place; none where the place is reserved (R264, R323, R340, R399 to R415). -/
def accessOf : Place → Option Access
  | .kp o =>
    match o with
    | 0x024 => some .w1s
    | 0x02C => some .wo
    | 0x030 => some .rwp
    | 0x034 => some .rwp
    | 0x040 => some .w1c
    | 0x044 => some .w1c
    | _ => if o ≤ 0x014 ∨ o = 0x020 ∨ o = 0x028 ∨ o = 0x038 ∨ o = 0x03C then some .ro else none
  | .host o =>
    match o with
    | 0x000 => some .rwp
    | 0x004 => some .rwp
    | 0x008 => some .rwp
    | 0x00C => some .ro
    | 0x010 => some .rw
    | 0x014 => some .rw
    | 0x018 => some .ro
    | 0x01C => some .w1c
    | _ => none
  | .hostRing _ o => if o ≤ 0x10 then some .rwp else if o ≤ 0x18 then some .ro else none
  | .clk o =>
    match o with
    | 0x010 => some .w1c
    | 0x020 => some .rw
    | 0x024 => some .rw
    | 0x028 => some .wo
    | _ => if o ≤ 0x008 then some .rwp else if o ≤ 0x02C then some .ro else none
  | .pwr o => if o ≤ 0x008 then some .rwp else if o < 0x030 then some .ro else if o = 0x030 then some .w1c else none
  | .ring _ o =>
    if o = 0x10 ∨ o = 0x14 then some .rwp
    else if o ≤ 0x1C ∨ o = 0x108 then some .ro
    else if o = 0x100 ∨ o = 0x104 then some .rw
    else if 0x200 ≤ o ∧ o < 0x310 then some .ro
    else arrayAccess o 0x10000 0x11000 6 ringCounter
  | .sill _ o => if o ≤ 0x4 then some .ro else arrayAccess o 0x1000 0x1800 2 sillCounter
  | .link k o =>
    if o ≤ 0x8 then some .rwp
    else if o = 0xC then some .ro
    else
      match arrayAccess o 0x1000 0x1800 2 linkCounter with
      | some a => some a
      | none => if k.val % 4 = 0 then arrayAccess o 0x2000 0x2800 1 (fun i => decide (i ≤ 0xE)) else none
  | .scribe o =>
    if o ≤ 0x014 then some .ro
    else if o = 0x018 then some .w1c
    else if o = 0x020 then some .rw
    else if 0x040 ≤ o ∧ o < 0x080 then some .ro
    else none
  | .cfg o => if o ≤ 0x004 then some .rwp else if o = 0x008 then some .w1c else none
  | .sec o => if o = 0 then some .ro else none
  | .msixTable _ => some .rw
  | .msixPending _ => some .ro
  | .reserved => none

/-! ## What registers read -/

/-- A register made of fields: each value at its lowest bit. -/
def fields (l : List (Nat × Nat)) : Word := BitVec.ofNat 32 (l.map fun x => x.1 * 2 ^ x.2).sum

/-- AON microseconds in which restarts of a kingpost core are counted: 60 s (R295, R301). -/
def restartSpan : Nat := 60000000

/-- Restarts of a kingpost core in the last 60 s (R301). -/
def State.recentRestarts (s : State) (i : Fin 3) : Nat :=
  s.fw.restarts[i].countP fun t => decide (s.clk.aonMicros < t + restartSpan)

/-- KP registers (R301, R401, R402). -/
def State.readKp (s : State) (o : Nat) : Word :=
  match o with
  | 0x000 => fields [(s.kp.part.toNat, 0), (s.kp.stepping.toNat, 8), (s.kp.shape, 16), (s.kp.grade, 21)]
  | 0x004 => s.kp.uid.extractLsb' 0 32
  | 0x008 => s.kp.uid.extractLsb' 32 32
  | 0x00C => s.kp.uid.extractLsb' 64 32
  | 0x010 => s.kp.uid.extractLsb' 96 32
  | 0x014 => BitVec.ofNat 32 s.kp.bootCount
  | 0x020 => fields [((stateCode s.kp.state).toNat, 0), (bit s.replaceReq, 3), (bit s.alert, 4), (s.kp.causes.toNat, 8)]
  | 0x024 => fields [(bit s.kp.peg, 0)]
  | 0x028 => s.kp.setupError
  | 0x030 => s.kp.moduleId
  | 0x034 => s.kp.boardId
  | 0x038 => s.kp.droppedWrites
  | 0x03C => s.kp.droppedLast
  | 0x044 =>
    let failed := match s.fw.failedCore with
      | some c => (coreCode c).toNat
      | none => 0
    fields [(bit s.fw.activeB, 0), (bit s.fw.standbyOk, 1), (bit s.kp.takeover, 2), (min (s.recentRestarts 0) 15, 8),
      (min (s.recentRestarts 1) 15, 12), (min (s.recentRestarts 2) 15, 16), (failed, 20), (s.fw.ccCrashes, 23)]
  | _ => 0

/-- HOST registers outside the rings (R264, R404). -/
def State.readHost (s : State) (o : Nat) : Word :=
  match o with
  | 0x000 => s.host.dbLo
  | 0x004 => s.host.dbHi
  | 0x008 => s.host.ctrl
  | 0x00C =>
    fields [((allRings.map fun n => bit (s.ring n).enabled * 2 ^ n.val).sum, 0), (bit s.attachedNow, 16),
      (bit s.host.driverLost, 17), (bit s.host.adopted, 18)]
  | 0x010 => s.host.apertureLo
  | 0x014 => s.host.apertureHi
  | 0x018 => s.host.drops
  | _ => 0

/-- HOST registers of a ring (R264). -/
def HostRing.readReg (r : HostRing) (o : Nat) : Word :=
  match o with
  | 0x00 => r.lo
  | 0x04 => r.hi
  | 0x08 => r.cplLo
  | 0x0C => r.cplHi
  | 0x10 => r.ctrl
  | 0x14 => r.consumed
  | 0x18 => r.completed
  | _ => 0

/-- FREE_RUNNING (R325). -/
def State.freeRunning (s : State) : Bool := !s.follows || s.clk.holdover

/-- CLK registers (R323, R325). -/
def State.readClk (s : State) (o : Nat) : Word :=
  match o with
  | 0x000 => s.clk.timeCtrl
  | 0x004 => s.clk.inDelay
  | 0x008 => s.clk.fastMax
  | 0x00C =>
    fields [(bit s.clk.valid, 0), (bit s.clk.locked, 1), (bit s.freeRunning, 2), (bit s.clk.slewing, 3), (bit s.clk.behind, 4)]
  | 0x010 => fields [(s.clk.events.toNat, 0)]
  | 0x014 => s.clk.offset
  | 0x018 => s.now.extractLsb' 0 32
  | 0x01C => s.clk.nowHi
  | 0x020 => s.clk.loadLo
  | 0x024 => s.clk.loadHi
  | 0x02C => s.clk.markErrors
  | _ => 0

/-- Some bent carries husk load (R333). -/
def State.huskOn (s : State) : Bool := s.dies.toList.any fun r => r.bents.toList.any fun b => b.husk

/-- PWR registers (R340). -/
def State.readPwr (s : State) (o : Nat) : Word :=
  match o with
  | 0x000 => s.pwr.default
  | 0x004 => s.pwr.defaultRamp
  | 0x008 => s.pwr.reserveCeil
  | 0x00C =>
    let (entry, plan) := match s.planEntry s.pwr.minute with
      | some x => (x.1, true)
      | none => (0, false)
    fields [(entry, 0), (bit plan, 11), (bit s.pwr.reserve, 12), (bit s.pwr.throttling, 13), (bit s.pwr.gating, 14),
      (bit s.huskOn, 15), (bit s.pwr.floorShort, 16)]
  | 0x010 => fields [(s.limits.ceiling, 0), (s.limits.floor, 16)]
  | 0x014 => fields [(s.pwr.a10 / 10, 0)]
  | 0x018 => fields [(s.pwr.a100 / 10, 0)]
  | 0x01C => fields [(s.pwr.amin / 10, 0)]
  | 0x020 => fields [(s.pwr.husk / 10, 0)]
  | 0x024 => s.pwr.huskEnergy
  | 0x028 => s.pwr.breachMinutes
  | 0x02C => s.pwr.gatedUs
  | _ => 0

/-- Codes of a function's state (R95). -/
def funcCode : FuncState → Nat
  | .enabled => 0
  | .quiescing => 1
  | .disabled => 2
  | .aborted => 3

/-- RING_FUNC_STATE (R95). -/
def RingDie.funcState (r : RingDie) : Word :=
  fields ((List.finRange 4).flatMap fun b => (List.finRange 4).map fun f =>
    (funcCode r.bays[b].funcs[f], 8 * b.val + 2 * f.val))

/-- One of four values for the routers, 2 or 8 bits each (R407). -/
def RingDie.routerField (r : RingDie) (w : Nat) (f : Router → Nat) : Word :=
  fields ((List.finRange 4).map fun i => (f r.routers[i], w * i.val))

/-- The ledger entry that RING_LEDGER_INDEX names (R409). -/
def RingDie.ledgerEntry (r : RingDie) : Nat := (r.ledgerIndex.extractLsb' 0 14).toNat

/-- What RING_LEDGER_DATA reads (R43, R409). -/
def State.ledgerData (s : State) (d : DieId) : Word :=
  if s.kp.state = .boot ∨ s.kp.state = .acorn then ledgerReset else (s.die d).ledgerAt (s.die d).ledgerEntry

/-- A word of RING_DOM(d) (R410). -/
def State.readDomain (s : State) (d : DieId) (k w : Nat) : Word :=
  if h : k < 17 then
    let r := s.die d
    let x := r.domains[k]
    let gated := if hb : k < 16 then decide (r.bents[k].power = .gated) else false
    match w with
    | 0 => fields [(x.target.toNat, 0), (x.margin.toNat, 8), (bit (x.stopped || x.paused || s.siteGated d), 11), (bit gated, 12)]
    | 1 => x.cycles.extractLsb' 0 32
    | 2 => fields [(x.cyclesHi.toNat, 0)]
    | _ => x.tallyHeld
  else 0

/-- RING registers (R39, R95, R407 to R411). -/
def State.readRing (s : State) (d : DieId) (o : Nat) : Word :=
  let r := s.die d
  match o with
  | 0x00 => fields [(d.val, 0), (bit (innerDie d), 4)]
  | 0x04 => fields [((r.enabled &&& ~~~r.failed &&& ~~~r.retired).toNat, 0)]
  | 0x08 => fields [(r.failed.toNat, 0), (r.retired.toNat, 16)]
  | 0x0C => r.funcState
  | 0x10 => r.derate
  | 0x14 => r.mcastTimeout
  | 0x18 => r.routerField 2 fun x => x.level
  | 0x1C => r.routerField 8 fun x => x.temp.toNat
  | 0x100 => r.ledgerIndex
  | 0x104 => s.ledgerData d
  | 0x108 => Sparse.get ledgerReset r.ledgerStart r.ledgerEntry
  | _ =>
    if 0x200 ≤ o ∧ o < 0x310 then s.readDomain d ((o - 0x200) / 16) (o % 16 / 4)
    else if 0x10000 ≤ o ∧ o < 0x11000 then Sparse.get (0 : Word) r.counters ((o - 0x10000) / 4)
    else 0

/-- SILL registers (R412). -/
def Sill.readReg (x : Sill) (o : Nat) : Word :=
  match o with
  | 0x0 =>
    fields [(bit x.trained, 0), (bit x.retrainPending, 1), (bit x.listFull, 2), (x.retired.length, 16)]
  | 0x4 => x.stackId
  | _ => if 0x1000 ≤ o ∧ o < 0x1800 then Sparse.get (0 : Word) x.counters ((o - 0x1000) / 4) else 0

/-- LINK registers (R211 to R213, R413, R414). -/
def State.readLink (s : State) (k : LinkId) (o : Nat) : Word :=
  let l := s.link k
  match o with
  | 0x0 => l.ctrl
  | 0x4 => l.credit0
  | 0x8 => l.credit1
  | 0xC =>
    fields [(linkCode l.state, 0), (bit l.spareUsed, 3), (bit l.degraded, 4), (l.laneOk.toNat, 5), (l.farKind.toNat, 14),
      (l.farId.toNat, 16)]
  | _ =>
    if 0x1000 ≤ o ∧ o < 0x1800 then Sparse.get (0 : Word) l.counters ((o - 0x1000) / 4)
    else if k.val % 4 = 0 ∧ 0x2000 ≤ o ∧ o < 0x2800 then
      Sparse.get (0 : Word) (s.edge (LinkId.edge k)).counters ((o - 0x2000) / 4)
    else 0

/-- The slot that SCRIBE_SLOT names (R415). -/
def Scribe.slotIndex (c : Scribe) : Nat := (c.slotReg.extractLsb' 0 20).toNat

/-- A word of SCRIBE_SLOT_DATA (R415). -/
def State.slotWord (s : State) (w : Nat) : Word :=
  BitVec.ofNat 32 (leNat (((s.slotBytes s.scribe.slotIndex).drop (4 * w)).take 4))

/-- SCRIBE registers (R415). -/
def State.readScribe (s : State) (o : Nat) : Word :=
  match o with
  | 0x000 => BitVec.ofNat 32 s.scribe.nextSeq
  | 0x004 => s.scribe.seqHi
  | 0x008 => fields [(s.scribe.pinned, 0)]
  | 0x00C => fields [(s.scribe.opens.length, 0)]
  | 0x010 => BitVec.ofNat 32 s.scribe.earlyCloses
  | 0x014 => BitVec.ofNat 32 s.scribe.mirror.length
  | 0x020 => s.scribe.slotReg
  | _ => if 0x040 ≤ o ∧ o < 0x080 then s.slotWord ((o - 0x040) / 4) else 0

/-- The slot that does not run (R382). -/
def Cfg.otherSlot (c : Cfg) : Fin 2 := if c.activeSlot = 0 then 1 else 0
/-- The image of the running slot. -/
def Cfg.active (c : Cfg) : ImageSlot := c.slots[c.activeSlot]
/-- The image of the other slot. -/
def Cfg.other (c : Cfg) : ImageSlot := c.slots[c.otherSlot]

/-- Base records are held in two formats (R380, R382). -/
def Cfg.dualSettings (c : Cfg) : Bool := c.converted.isSome && decide (c.active.format ≠ c.other.format)

/-- CFG registers (R149, R355, R380). -/
def State.readCfg (s : State) (o : Nat) : Word :=
  match o with
  | 0x000 => s.cfg.memMap
  | 0x004 => s.cfg.defer
  | 0x008 =>
    fields [((modeCode s.cfg.mode).toNat, 0), (if 12 ≤ s.kp.shape ∧ s.kp.shape ≤ 15 then s.kp.shape else 0, 2),
      (s.cfg.activeSlot.val, 6), (bit (decide (s.cfg.other.state = .staged)), 7), (bit (decide (s.cfg.active.state = .trial)), 8),
      (bit s.cfg.fallback, 9), (bit s.cfg.dualSettings, 10), (bit (s.cfg.staging.isSome || s.cfg.rolling.isSome), 11)]
  | _ => 0

/-- SEC_STATUS (R398). -/
def State.readSec (s : State) (o : Nat) : Word :=
  if o = 0 then
    fields [(bit s.sec.secureBoot, 0), (bit s.sec.owner.isSome, 1), ((s.sec.debug).toNat, 2), (s.sec.svnMin, 8),
      (s.sec.revoked.toNat, 16)]
  else 0

/-- What a BAR0 offset reads; a reserved one reads 0 (R399). -/
def State.readReg (s : State) (off : Nat) : Word :=
  match placeOfOffset off with
  | .kp o => s.readKp o
  | .host o => s.readHost o
  | .hostRing n o => (s.ring n).readReg o
  | .clk o => s.readClk o
  | .pwr o => s.readPwr o
  | .ring d o => s.readRing d o
  | .sill m o => (s.sill m).readReg o
  | .link k o => s.readLink k o
  | .scribe o => s.readScribe o
  | .cfg o => s.readCfg o
  | .sec o => s.readSec o
  | .msixTable o => BitVec.ofNat 32 (s.host.msixTable.readNat o 4)
  | .msixPending o => s.host.msixPending.extractLsb' (8 * o) 32
  | .reserved => 0

/-! ## Writes to RWP registers (R9, R400, R403, R417) -/

/-- RWP registers are writable: not pegged, and no peg waits for its answer (R9, R403). -/
def State.setupOpen (s : State) : Bool := !s.kp.peg && !s.kp.pegPending

/-- The ranges of RING_ROUTER_DERATE (R408). -/
def derateGood (v : Word) : Bool :=
  let f (i : Nat) : Nat := (v.extractLsb' i 8).toNat
  let hyst := (v.extractLsb' 24 4).toNat
  decide (f 0 < f 8) && decide (f 8 < f 16) && decide (f 16 ≤ 0x6E) && decide (1 ≤ hyst) && decide (hyst ≤ 8)

/-- A CLK_FAST_MAX field is in its range (R323). -/
def fastGood (v : Word) : Bool :=
  [0, 8].all fun i => let f := (v.extractLsb' i 8).toNat; decide (0x20 ≤ f) && decide (f ≤ 0x54)

/-- The value lies in the ranges that the rule of the RWP register states (R149, R211, R323, R340, R341, R408). -/
def rangeGood (p : Place) (v : Word) : Bool :=
  match p with
  | .clk 0x008 => fastGood v
  | .pwr 0x000 => limitsGood (v.extractLsb' 0 16).toNat (v.extractLsb' 16 16).toNat
  | .pwr 0x008 => decide (0x19 ≤ (v.extractLsb' 0 16).toNat) && decide ((v.extractLsb' 0 16).toNat ≤ 0xB4)
  | .ring _ 0x10 => derateGood v
  | .link _ 0x0 => decide ((v.extractLsb' 1 2).toNat < 2)
  | .cfg 0x000 => decide ((v.extractLsb' 0 5).toNat ≤ 0x15)
  | _ => true

/-- A ring's RWP register set (R264, R404). -/
def HostRing.setReg (r : HostRing) (o : Nat) (v : Word) : HostRing :=
  match o with
  | 0x00 => { r with lo := v &&& 0xFFFFF000 }
  | 0x04 => { r with hi := v }
  | 0x08 => { r with cplLo := v &&& 0xFFFFF000 }
  | 0x0C => { r with cplHi := v }
  | 0x10 => { r with ctrl := v &&& 0xFFFF3F3F }
  | _ => r

/-- A link after a write of its LINK_CTRL: with ENABLE 0 its lanes are off and it is DISABLED; a DISABLED link that is enabled
again is DOWN until the next BOOT, or a retraining, trains it (R202, R204, R211; log entry 143). Before KP_PEG no tenon is on a
link. -/
def State.linkEnable (s : State) (k : LinkId) : State :=
  if !(s.link k).enabled then (s.modLink k fun l => { (l.noLanes 0) with spareUsed := false }).setLink k .disabled
  else if (s.link k).state = .disabled then s.setLink k .down
  else s

/-- An RWP register set, its reserved bits left 0 (R9). -/
def State.setRwp (s : State) (p : Place) (v : Word) : State :=
  match p with
  | .kp 0x030 => { s with kp := { s.kp with moduleId := v &&& 0x7FFF } }
  | .kp 0x034 => { s with kp := { s.kp with boardId := v &&& 0xFFFF } }
  | .host 0x000 => { s with host := { s.host with dbLo := v &&& 0xFFFFFFC0 } }
  | .host 0x004 => { s with host := { s.host with dbHi := v } }
  | .host 0x008 => { s with host := { s.host with ctrl := v &&& 0x3F0F } }
  | .hostRing n o => s.modRing n fun r => r.setReg o v
  | .clk 0x000 => { s with clk := { s.clk with timeCtrl := v &&& 0x7 } }
  | .clk 0x004 => { s with clk := { s.clk with inDelay := v &&& 0xFFFF } }
  | .clk 0x008 => { s with clk := { s.clk with fastMax := v &&& 0xFFFF } }
  | .pwr 0x000 => { s with pwr := { s.pwr with default := v } }
  | .pwr 0x004 => { s with pwr := { s.pwr with defaultRamp := v &&& 0xFFFF } }
  | .pwr 0x008 => { s with pwr := { s.pwr with reserveCeil := v &&& 0xFFFF } }
  | .ring d 0x10 => s.modDie d fun r => { r with derate := v &&& 0x0FFFFFFF }
  | .ring d 0x14 => s.modDie d fun r => { r with mcastTimeout := v &&& 0xFFFF }
  | .link k 0x0 => (s.modLink k fun l => { l with ctrl := v &&& 0x00FFFFFF }).linkEnable k
  | .link k 0x4 => s.modLink k fun l => { l with credit0 := v &&& 0x3FFF3FFF }
  | .link k 0x8 => s.modLink k fun l => { l with credit1 := v &&& 0x3FFF3FFF }
  | .cfg 0x000 => { s with cfg := { s.cfg with memMap := v &&& 0x1F } }
  | .cfg 0x004 => { s with cfg := { s.cfg with defer := v } }
  | _ => s

/-- A write to an RWP register: dropped and counted after the peg, or where a field is out of its range (R9, R400, R403). -/
def State.writeRwp (s : State) (off : Nat) (p : Place) (v : Word) : State :=
  if s.setupOpen && rangeGood p v then s.setRwp p v else s.dropWrite off

/-- An offset of an RWP register outside the HOST and SEC blocks, which a base record may name (R374). -/
def keyOffsetGood (off : Nat) : Bool :=
  match placeOfOffset off with
  | .host _ => false
  | .hostRing _ _ => false
  | p => decide (accessOf p = some .rwp)

/-! ## Clears (R406) -/

/-- The counter indices that a write to clear register `k` names. -/
def clearedBy (k : Nat) (v : Word) : List Nat := ((List.range 32).filter fun j => v.getLsbD j).map fun j => 32 * k + j

/-- A counter array after a clear: 0, but for the extremes of R406; a last reading stays. -/
def clearAll (c : Sparse Word) (l : List Nat) (after : Nat → Option Word) : Sparse Word :=
  l.foldl (fun c i => match after i with
    | some w => Sparse.set (0 : Word) c i w
    | none => c) c

/-- The present number of free shared buffers, the fewest of any slice (R144, R406). -/
def RingDie.lowNow (r : RingDie) : Word :=
  if r.poolDefined then BitVec.ofNat 32 ((List.range 16).foldl (fun m k => min m (r.sharedFree k)) 0xFFFFFFFF) else 0xFFFFFFFF

/-- RING counters cleared (R406, R411). -/
def RingDie.clear (r : RingDie) (k : Nat) (v : Word) : RingDie :=
  { r with
    counters := clearAll r.counters ((clearedBy k v).filter ringCounter) fun i =>
      some (if i = 0x55 then r.lowNow else 0) }

/-- SILL counters cleared; the last temperature reading is not clearable (R406, R412). -/
def Sill.clear (x : Sill) (k : Nat) (v : Word) : Sill :=
  { x with counters := clearAll x.counters ((clearedBy k v).filter sillCounter) fun i => if i = 0x10 then none else some 0 }

/-- LINK counters cleared (R406, R413). -/
def Link.clear (l : Link) (k : Nat) (v : Word) : Link :=
  { l with
    counters := clearAll l.counters ((clearedBy k v).filter linkCounter) fun i =>
      some (if i = 0x34 then 0x7FFFFFFF else if i = 0x35 then 0x80000000 else 0) }

/-- Link-engine counters cleared (R406, R414). -/
def Edge.clear (e : Edge) (k : Nat) (v : Word) : Edge :=
  { e with counters := clearAll e.counters ((clearedBy k v).filter fun i => decide (i ≤ 0xE)) fun _ => some 0 }

/-- A W1C write (R264, R301, R323, R340, R380, R401, R406, R415). -/
def State.writeClear (s : State) (p : Place) (v : Word) : State :=
  let b := v.getLsbD 0
  match p with
  | .kp 0x040 => if b then { s with kp := { s.kp with droppedWrites := 0, droppedLast := 0 } } else s
  | .kp 0x044 => if v.getLsbD 2 then { s with kp := { s.kp with takeover := false } } else s
  | .host 0x01C => if b then { s with host := { s.host with drops := 0 } } else s
  | .clk 0x010 => { s with clk := { s.clk with events := s.clk.events &&& ~~~v.extractLsb' 0 4 } }
  | .pwr 0x030 =>
    { s with pwr := { s.pwr with
        huskEnergy := if b then 0 else s.pwr.huskEnergy
        breachMinutes := if v.getLsbD 1 then 0 else s.pwr.breachMinutes
        gatedUs := if v.getLsbD 2 then 0 else s.pwr.gatedUs } }
  | .scribe 0x018 => if b then { s with scribe := { s.scribe with earlyCloses := 0 } } else s
  | .cfg 0x008 => if v.getLsbD 9 then { s with cfg := { s.cfg with fallback := false } } else s
  | .ring d o => s.modDie d fun r => r.clear ((o - 0x11000) / 4) v
  | .sill m o => s.modSill m fun x => x.clear ((o - 0x1800) / 4) v
  | .link k o =>
    if o < 0x2000 then s.modLink k fun l => l.clear ((o - 0x1800) / 4) v
    else s.modEdge (LinkId.edge k) fun e => e.clear ((o - 0x2800) / 4) v
  | _ => s

/-! ## The ledger window (R409) -/

/-- The bits of an entry that the host writes: SCALE, LOW_RUN, FORMAT (R40, R409). -/
def ledgerMask : Word := 0x00030FFF

/-- After an access to RING_LEDGER_DATA, ENTRY advances where AUTO_INC is set (R409). -/
def RingDie.stepLedger (r : RingDie) : RingDie :=
  if r.ledgerIndex.getLsbD 16 then
    { r with ledgerIndex := BitVec.ofNat 32 ((r.ledgerEntry + 1) % 16384 + 2 ^ 16) }
  else r

/-- LEDGER_MAP of the bundle in effect names the entry (R409). -/
def State.mapNames (s : State) (d : DieId) (entry : Nat) : Bool :=
  match s.loader.inEffect with
  | some b => (bundleLedger b d s.kp.shape).any fun x => x.entry = entry
  | none => false

/-- A write to RING_LEDGER_DATA that is dropped and counted in an idle state (R409). -/
def State.ledgerRefused (s : State) (d : DieId) (v : Word) : Bool :=
  let r := s.die d
  v.extractLsb' 0 8 = 0xFF || decide (2 ≤ (v.extractLsb' 16 2).toNat) ||
    (v.extractLsb' 16 2 ≠ (r.ledgerAt r.ledgerEntry).extractLsb' 16 2 && s.mapNames d r.ledgerEntry)

/-- The host's fields of an entry and of its start-of-step copy written (R409). -/
def RingDie.putLedger (r : RingDie) (v : Word) : RingDie :=
  let i := r.ledgerEntry
  let put (w : Word) : Word := (w &&& ~~~ledgerMask) ||| (v &&& ledgerMask)
  { r with
    ledger := Sparse.set ledgerReset r.ledger i (put (r.ledgerAt i))
    ledgerStart := Sparse.set ledgerReset r.ledgerStart i (put (Sparse.get ledgerReset r.ledgerStart i)) }

/-- The offset of RING_LEDGER_DATA of a die (R407). -/
def ledgerOffset (d : DieId) : Nat := 0x0400104 + d.val * 0x40000

/-- A whole write to RING_LEDGER_DATA (R409). -/
def State.writeLedger (s : State) (d : DieId) (v : Word) : State :=
  let s :=
    if s.isIdleKind then
      if s.ledgerRefused d v then s.dropWrite (ledgerOffset d) else s.modDie d fun r => r.putLedger v
    else if s.kp.state = .running ∨ s.kp.state = .faulted then s.countRing d 0x05
    else s
  s.modDie d RingDie.stepLedger

/-! ## The peg and the nudge (R266, R268, R403) -/

/-- A write of 1 to KP_PEG (R403). -/
def State.writePeg (s : State) (v : Word) : State :=
  if v.getLsbD 0 then
    if s.kp.state = .idle then { s with kp := { s.kp with pegPending := true } } else s.dropWrite 0x024
  else s

/-- A write to KP_NUDGE (R268). -/
def State.writeNudge (s : State) : State := if s.polls then { s with host := { s.host with nudged := true } } else s

/-- The offset of a register of a ring. -/
def ringOffset (n : RingIx) (o : Nat) : Nat := 0x0100100 + 0x20 * n.val + o

/-- Two ranges of host memory overlap. -/
def hostOverlap (a b n m : Nat) : Bool := decide (a < b + m) && decide (b < a + n)

/-- Bytes of a job ring (R264). -/
def HostRing.ringBytes (r : HostRing) : Nat := 64 * 2 ^ r.sizeLog2
/-- Bytes of a completion ring (R264). -/
def HostRing.cplBytes (r : HostRing) : Nat := 32 * 2 ^ r.sizeLog2

/-- The first register of an enabled ring found wrong on its own (R266). -/
def HostRing.setupFault (r : HostRing) (n : RingIx) : Option Nat :=
  if r.sizeLog2 < 4 ∨ 16 < r.sizeLog2 then some (ringOffset n 0x10)
  else if r.ringAddr = 0 then some (ringOffset n 0x00)
  else if r.cplAddr = 0 then some (ringOffset n 0x08)
  else none

/-- An enabled ring overlaps its completion ring or an enabled ring before it (R266). -/
def State.overlapFault (s : State) (n : RingIx) : Option Nat :=
  let r := s.ring n
  if hostOverlap r.ringAddr r.cplAddr r.ringBytes r.cplBytes then some (ringOffset n 0x08)
  else if allRings.any fun k => decide (k < n) && (s.ring k).enabled &&
      hostOverlap r.ringAddr (s.ring k).ringAddr r.ringBytes (s.ring k).ringBytes then some (ringOffset n 0x00)
  else none

/-- The first register found wrong, in the order of R266's list. -/
def State.setupFault (s : State) : Option Nat :=
  let on := allRings.filter fun n => (s.ring n).enabled
  if s.host.dbLo = 0 ∧ s.host.dbHi = 0 then some 0x0100000
  else
    match on.findSome? fun n => (s.ring n).setupFault n with
    | some o => some o
    | none =>
      if !(on.any fun n => decide (n.val = s.stepRing)) then some 0x0100008
      else on.findSome? fun n => s.overlapFault n

/-- PEG_CHECK (R266, R403). -/
def execPegCheck (s : State) : Out :=
  if s.kp.pegPending then
    match s.setupFault with
    | none => .next { s with kp := { s.kp with peg := true, pegPending := false, setupError := 0 } }
    | some o => .next { s with kp := { s.kp with pegPending := false, setupError := BitVec.ofNat 32 (0x80000000 + o) } }
  else .next s

/-! ## One write to BAR0 (R399, R400) -/

/-- A write to an RW, WO or W1S register. -/
def State.writeLive (s : State) (p : Place) (v : Word) : State :=
  match p with
  | .kp 0x024 => s.writePeg v
  | .kp 0x02C => s.writeNudge
  | .host 0x010 => { s with host := { s.host with apertureLo := v &&& 0xC0000000 } }
  | .host 0x014 => { s with host := { s.host with apertureHi := v &&& 0xFF } }
  | .clk 0x020 => { s with clk := { s.clk with loadLo := v } }
  | .clk 0x024 => { s with clk := { s.clk with loadHi := v } }
  | .clk 0x028 => s.writeLoadGo v
  | .ring d 0x100 => s.modDie d fun r => { r with ledgerIndex := v &&& 0x00013FFF }
  | .ring d 0x104 => s.writeLedger d v
  | .scribe 0x020 => { s with scribe := { s.scribe with slotReg := v &&& 0x800FFFFF } }
  | .msixTable o =>
    ({ s with host := { s.host with msixTable := s.host.msixTable.write o (leBytes 4 v.toNat) } } : State).sendPending
  | _ => s

/-- A BAR0 write: reserved offsets ignore it, and one whose byte enables are not all set is dropped and counted (R399, R400). -/
def State.writeReg (s : State) (off : Nat) (v : Word) (enables : BitVec 4) : State :=
  let p := placeOfOffset off
  match accessOf p with
  | none => s
  | some a =>
    if enables ≠ 0xF then s.dropWrite off
    else
      match a with
      | .ro => s
      | .rwp => s.writeRwp off p v
      | .w1c => s.writeClear p v
      | _ => s.writeLive p v

/-- REGISTER_WRITE (R400, R417). -/
def execRegisterWrite (offset : BitVec 25) (value : Word) (enables : BitVec 4) (s : State) : Out :=
  .next (s.writeReg offset.toNat value enables)

/-- COUNTER_CLEAR (R406). -/
def execCounterClear (offset : BitVec 25) (value : Word) (enables : BitVec 4) (s : State) : Out :=
  .next (s.writeReg offset.toNat value enables)

/-- KP_NUDGE_WRITE (R268). -/
def execKpNudgeWrite (value : Word) (enables : BitVec 4) (s : State) : Out := .next (s.writeReg 0x02C value enables)

/-- KP_PEG_WRITE (R403). -/
def execKpPegWrite (value : Word) (enables : BitVec 4) (s : State) : Out := .next (s.writeReg 0x024 value enables)

/-- RING_LEDGER_DATA_WRITE (R409). -/
def execRingLedgerDataWrite (die : DieId) (value : Word) (enables : BitVec 4) (s : State) : Out :=
  .next (s.writeReg (ledgerOffset die) value enables)

/-! ## Reads with an effect (R409, R410, R415, R418) -/

/-- The value a BAR0 read returned. -/
def State.answerBar0 (s : State) (v : Word) : State := { s with io := { s.io with bar0 := v } }

/-- RING_LEDGER_DATA_READ (R409). -/
def execRingLedgerDataRead (die : DieId) (s : State) : Out :=
  .next ((s.answerBar0 (s.ledgerData die)).modDie die RingDie.stepLedger)

/-- SCRIBE_SLOT_DATA_READ (R415). -/
def execScribeSlotDataRead (word : Fin 16) (s : State) : Out :=
  let s := s.answerBar0 (s.slotWord word.val)
  if word.val = 15 ∧ s.scribe.slotReg.getLsbD 31 = true then
    .next { s with scribe := { s.scribe with
      slotReg := BitVec.ofNat 32 ((s.scribe.slotIndex + 1) % 1048576 + 2 ^ 31) } }
  else .next s

/-- LATCHING_LO_READ (R410, R415, R418). -/
def execLatchingLoRead (r : LoReg) (s : State) : Out :=
  match r with
  | .clkNow =>
    .next ((({ s with clk := { s.clk with nowHi := s.now.extractLsb' 32 32 } }).answerBar0 (s.now.extractLsb' 0 32)))
  | .cycles d k =>
    let x := (s.die d).domains[k]
    .next ((s.answerBar0 (x.cycles.extractLsb' 0 32)).modDie d fun y => y.modDomain k fun x =>
      { x with cyclesHi := x.cycles.extractLsb' 32 16, tallyHeld := x.tally })
  | .scribeNextSeq =>
    .next (({ s with scribe := { s.scribe with seqHi := BitVec.ofNat 32 (s.scribe.nextSeq / 2 ^ 32) } } : State).answerBar0
      (BitVec.ofNat 32 s.scribe.nextSeq))

/-! ## BAR2: the management area and the aperture (R263, R277, R283) -/

/-- The stacks are powered and trained, so that the aperture reaches module memory (R24, R391). -/
def State.memoryOn (s : State) : Bool :=
  s.kp.state ≠ .boot && s.kp.state ≠ .acorn && s.pkg.v48 && s.pkg.aux && !s.pkg.thermTrip

/-- The module address of a BAR2 offset (R263). -/
def State.apertureAddr (s : State) (x : Nat) : Nat := s.host.apertureHi.toNat * 2 ^ 32 + s.host.apertureLo.toNat + x

/-- One dropped aperture write (R263, R264). -/
def State.dropAperture (s : State) : State := { s with host := { s.host with drops := satAdd s.host.drops 1 } }

/-- A write to module memory through the aperture (R153, R263). -/
def State.writeAperture (s : State) (x : Nat) (data : List Byte) : State :=
  let a := s.apertureAddr x
  let n := data.length
  if !s.memoryOn || !s.inMemory a n || (s.jobArmed && s.meetsProtected a n) then s.dropAperture
  else (s.writeMerged a data).gradCheck a n

/-- EVT_CONSUMED as the host writes it: entries are freed, and events that wait are written (R283). -/
def State.consumeEvents (s : State) (v : Word) : State :=
  let s : State := { s with mgmt := { s.mgmt with evtConsumed := v } }
  drainEvents s.mgmt.waiting.length s

/-- A write to the management area: the scratch, the request ring and EVT_CONSUMED are the host's (R277, R283). -/
def State.writeMgmt (s : State) (x : Nat) (data : List Byte) : State :=
  if 0x300000 ≤ x ∧ x + data.length ≤ 0x400000 then s.writeScratch (x - 0x300000) data
  else if 0x10000 ≤ x ∧ x + data.length ≤ 0x20000 then
    { s with mgmt := { s.mgmt with reqRing := s.mgmt.reqRing.write (x - 0x10000) data } }
  else if x = 84 ∧ data.length = 4 then s.consumeEvents (BitVec.ofNat 32 (leNat data))
  else s

/-- APERTURE_WRITE (R262, R263). -/
def execApertureWrite (offset : BitVec 36) (data : List Byte) (s : State) : Out :=
  if offset.toNat < 0x400000 then .next (s.writeMgmt offset.toNat data) else .next (s.writeAperture offset.toNat data)

/-- EVT_CONSUMED_WRITE (R283). -/
def execEvtConsumedWrite (value : Word) (s : State) : Out := .next (s.consumeEvents value)

/-- The bytes of an event entry (R287). -/
def eventBytes (e : Event) : List Byte :=
  [e.kind, statusCode e.status, BitVec.ofNat 8 e.state.toNat, 0] ++ leBytes 4 e.tag.toNat ++ leBytes 8 e.time.toNat ++
    leBytes 48 e.data.toNat

/-- The header of the management area (R283). -/
def State.mgmtHeader (s : State) : List Byte :=
  leBytes 4 0x4D474D54 ++ leBytes 2 1 ++ leBytes 2 0 ++ leBytes 32 s.mgmt.offer.toNat ++ leBytes 32 s.mgmt.accepted.toNat ++
    leBytes 4 s.mgmt.reqProduced.toNat ++ leBytes 4 s.mgmt.reqConsumed.toNat ++ leBytes 4 s.mgmt.evtProduced.toNat ++
    leBytes 4 s.mgmt.evtConsumed.toNat

/-- The entry of the event ring at a slot, if one was ever written there (R277, R283). -/
def Mgmt.eventAt (m : Mgmt) (slot : Nat) : Option Event :=
  let first := m.evtProduced.toNat + 2 ^ 32 - m.events.length
  m.events[(slot + 4096 - first % 4096) % 4096]?

/-- A byte of the management area (R277, R280, R283). PHASE of a journal record is free: the spec gives it none (log entry 8). -/
def State.mgmtByte (s : State) (x : Nat) : Byte :=
  if x < 0x1000 then s.mgmtHeader.getD x 0
  else if 0x10000 ≤ x ∧ x < 0x20000 then s.mgmt.reqRing.get (x - 0x10000)
  else if 0x20000 ≤ x ∧ x < 0x60000 then
    match s.mgmt.eventAt ((x - 0x20000) / 64) with
    | some e => (eventBytes e).getD (x % 64) 0
    | none => 0
  else if 0x100000 ≤ x ∧ x < 0x300000 then
    match s.mgmt.journal[(x - 0x100000) / 32]? with
    | some c => (completionBytes c (Config.freeBit ((x - 0x100000) / 32)) c.ring.val).getD (x % 32) 0
    | none => 0
  else if 0x300000 ≤ x then s.mgmt.scratch.get (x - 0x300000)
  else 0

/-- The bytes a BAR2 read returned. -/
def State.answerBar2 (s : State) (bytes : List Byte) : State := { s with io := { s.io with bar2 := bytes } }

/-- A read of module memory through the aperture: all-ones outside module memory, and all-ones with an AER error where a sector
is uncorrectable (R153, R263). -/
def State.readAperture (s : State) (x n : Nat) (found : List SectorEvent) : State :=
  let a := s.apertureAddr x
  let ones := List.replicate n (0xFF : Byte)
  if !s.memoryOn || !s.inMemory a n then s.answerBar2 ones
  else
    let bytes := s.readMem a n
    let (s, bad) := s.readSectors a n found
    if bad = [] then s.answerBar2 bytes
    else ({ s with host := { s.host with aer := s.host.aer + 1 } } : State).answerBar2 ones

/-- APERTURE_READ (R153, R262, R263). -/
def execApertureRead (offset : BitVec 36) (bytes : Nat) (found : List SectorEvent) (s : State) : Out :=
  let x := offset.toNat
  if x < 0x400000 then .next (s.answerBar2 ((List.range bytes).map fun i => s.mgmtByte (x + i)))
  else .next (s.readAperture x bytes found)

end Sys2Proof.Machine
end

