-- ==== Sys2Proof/Machine/VectorEngine.lean ====
section
/-! DEFINITION. The vector engine: ELEMENTWISE, ROW and MASK (R107 to R113, R259, R436, R437). Every operation rounds once to
F32 where the spec writes an operator, in the order it writes them (log entry 18). -/

namespace Sys2Proof.Machine

/-! ## F32 operations on values -/

/-- Sum, rounded once. -/
def fAdd (a b : Dyad) : Dyad := rndF32 (a.add b)
/-- Difference, rounded once. -/
def fSub (a b : Dyad) : Dyad := rndF32 (a.sub b)
/-- Product, rounded once. -/
def fMul (a b : Dyad) : Dyad := rndF32 (a.mul b)
/-- Quotient, rounded once. -/
def fDiv (a b : Dyad) : Dyad := rndF32 (a.div b)

/-- The lesser: -0 less than +0, NaN if either is (R107). -/
def fMin (a b : Dyad) : Dyad :=
  if a.isNan || b.isNan then .nan
  else if a.lt b then a else if b.lt a then b else if a.isNeg then a else b

/-- The greater: -0 less than +0, NaN if either is (R107). -/
def fMax (a b : Dyad) : Dyad :=
  if a.isNan || b.isNan then .nan
  else if a.lt b then b else if b.lt a then a else if a.isNeg then b else a

/-- CMP of R107. -/
def fCmp (a b : Dyad) : Dyad :=
  if a.isNan || b.isNan then .nan
  else if a.lt b then Dyad.one.negate else if b.lt a then .one else .zero

/-- SIGNTEST of R107. -/
def fSign (a : Dyad) : Dyad := if a.isNan then .nan else if a.isNeg then .zero else .one

/-- The ELEMENTWISE operation of a code with its operands, rounded once to F32 (R107, R259). -/
def elemOp (op : Nat) (a b c : Dyad) : Dyad :=
  match op with
  | 0x01 => fAdd a b
  | 0x02 => fSub a b
  | 0x03 => fMul a b
  | 0x04 => rndF32 ((a.mul b).add c)
  | 0x05 => fMin a b
  | 0x06 => fMax a b
  | 0x07 => a.mag
  | 0x08 => a.negate
  | 0x09 => fCmp a b
  | 0x0A => if a.isZero then c else b
  | 0x0B => fSign a
  | 0x0C => fDiv a b
  | 0x0D => rndF32 a.sqrt
  | 0x0E => rndF32 a.recip
  | 0x0F => rndF32 a.rsqrt
  | 0x10 => rndF32 a.exp
  | 0x11 => rndF32 a.exp2
  | 0x12 => rndF32 a.expm1
  | 0x13 => rndF32 a.log
  | 0x14 => rndF32 a.log2
  | 0x15 => rndF32 a.log1p
  | 0x16 => rndF32 a.sigmoid
  | 0x17 => rndF32 a.tanh
  | 0x18 => rndF32 a.softplus
  | 0x19 => rndF32 a.silu
  | 0x1A => rndF32 a.gelu
  | 0x1B => rndF32 a.dSilu
  | 0x1C => rndF32 a.dGelu
  | 0x1D => rndF32 a.sin
  | 0x1E => rndF32 a.cos
  | _ => a

/-- The operation reads operand B (R107). -/
def usesB (op : Nat) : Bool := [0x01, 0x02, 0x03, 0x04, 0x05, 0x06, 0x09, 0x0A, 0x0C].contains op
/-- The operation reads operand C (R107). -/
def usesC (op : Nat) : Bool := op = 0x04 || op = 0x0A

/-! ## Reductions along a row (R108) -/

/-- One level of the pairwise tree. -/
def pairLevel (f : Dyad → Dyad → Dyad) : List Dyad → List Dyad
  | a :: b :: rest => f a b :: pairLevel f rest
  | l => l

/-- A chunk of 2,048 down to one value by 11 levels. -/
def chunkTree (f : Dyad → Dyad → Dyad) (pad : Dyad) (chunk : List Dyad) : Dyad :=
  (Nat.repeat (pairLevel f) 11 (chunk ++ List.replicate (2048 - chunk.length) pad)).headD pad

/-- A reduction: chunks of 2,048, then the chunk results in ascending order (R108). -/
def rowReduce (f : Dyad → Dyad → Dyad) (pad : Dyad) (row : List Dyad) : Dyad :=
  match (chunksOf 2048 (row.length + 1) row).map (chunkTree f pad) with
  | [] => pad
  | r :: rest => rest.foldl f r

/-- A row sum (R108). -/
def rowSum (row : List Dyad) : Dyad := rowReduce fAdd .zero row
/-- A row maximum (R108). -/
def rowMax (row : List Dyad) : Dyad := rowReduce fMax (.inf true) row

/-! ## Norms, softmax and derivatives (R109 to R111) -/

/-- RMS norm of a row (R111). -/
def rmsNorm (row gamma : List Dyad) (eps : Dyad) : List Dyad :=
  let n := rndF32 (.ofNat row.length)
  let r := rndF32 (fAdd (fDiv (rowSum (row.map fun x => fMul x x)) n) eps).rsqrt
  row.zipWith (fun x g => fMul (fMul x r) g) gamma

/-- Layer norm of a row (R111). -/
def layerNorm (row gamma beta : List Dyad) (eps : Dyad) : List Dyad :=
  let n := rndF32 (.ofNat row.length)
  let mean := fDiv (rowSum row) n
  let dev := row.map fun x => fSub x mean
  let v := fDiv (rowSum (dev.map fun x => fMul x x)) n
  let r := rndF32 (fAdd v eps).rsqrt
  (dev.zip (gamma.zip beta)).map fun x => fAdd (fMul (fMul x.1 r) x.2.1) x.2.2

/-- One key chunk of a softmax row: probabilities, and the running maximum and sum (R111). -/
def softmaxChunk (row : List Dyad) (m l : Dyad) : List Dyad × Dyad × Dyad :=
  let cm := rowMax row
  if cm = .inf true then (row.map fun _ => .zero, m, l)
  else
    let mn := fMax m cm
    let f := if m = .inf true then .zero else rndF32 (fSub m mn).exp
    let p := row.map fun x => rndF32 (fSub x mn).exp
    (p, mn, fAdd (fMul l f) (rowSum p))

/-- A row's key chunks of 2,048 keys, in ascending key order (R111). -/
def keyChunks (row : List Dyad) : List (List Dyad) :=
  (List.range (ceilDiv row.length 2048)).map fun c => (row.drop (2048 * c)).take 2048

/-- SOFTMAX_CHUNK over the keys a row names: each key chunk of 2,048 takes one turn of R111's loop. -/
def softmaxRow (row : List Dyad) (m l : Dyad) : List Dyad × Dyad × Dyad :=
  (keyChunks row).foldl (fun (p, m, l) chunk =>
    let (q, m, l) := softmaxChunk chunk m l
    (p ++ q, m, l)) ([], m, l)

/-- The derivative of R109 from a saved output; the codes run in R109's order from 0x06. -/
def derivFrom (op : Nat) (alpha y : Dyad) : Dyad :=
  if y.isNan then .nan
  else
    match op with
    | 0x06 => fMul y (fSub .one y)
    | 0x07 => fMul (fSub .one y.mag) (fAdd .one y.mag)
    | 0x08 => y
    | 0x09 => (rndF32 y.negate.expm1).negate
    | 0x0A => if y.isNeg then .zero else .one
    | _ => if y.isNeg then alpha else .one

/-- A row of D_SOFTMAX (R109). -/
def softmaxDeriv (y dy : List Dyad) : List Dyad :=
  let dot := rowSum (dy.zipWith fMul y)
  y.zipWith (fun a b => fMul a (fSub b dot)) dy

/-! ## Writing a result -/

/-- LEDGER_MAP of the bundle in effect for a die at the present shape (R245). -/
def State.ledgerMap (s : State) (d : DieId) : List LedgerInit :=
  match s.loader.inEffect with
  | none => []
  | some b => bundleLedger b d s.kp.shape

/-- A delayed encode in a format through an entry is one that R437 allows. -/
def State.delayedGood (s : State) (d : DieId) (entry : Nat) (k : BlockFmt) : Bool :=
  decide (entry < 16384) && (s.ledgerMap d).any (fun x => x.entry = entry) &&
    decide (ledgerFmt (LedgerEntry.ofWord ((s.die d).ledgerAt entry)).format = some k)

/-- Rows written as an area at a loft offset under the exact rule, or in H16 or F32 (R37, R436). -/
def State.writeRows (s : State) (d : DieId) (f : VecFmt) (base : Nat) (rows : List (List Dyad)) : State :=
  match f with
  | .block k =>
    let (codes, r) := (s.die d).encodeExactAll k (rows.flatMap k.blocksOf)
    (s.modDie d fun _ => r).writeLoft d base (k.areaOf codes)
  | .h16 => s.writeLoft d base (floatArea true rows)
  | .f32 => s.writeLoft d base (floatArea false rows)

/-- One row of blocks written through a ledger entry; the answer says whether the completion is flagged (R39 to R41). -/
def State.writeDelayed (s : State) (d : DieId) (entry : Nat) (k : BlockFmt) (base : Nat) (row : List Dyad) : State × Bool :=
  let (codes, flagged, r) := (s.die d).encodeDelayedAll (fun _ => entry) k 0 (k.blocksOf row)
  ((s.modDie d fun _ => r).writeLoft d base (k.areaOf codes), flagged)

/-- The buffers a vector command names by RELEASE are in use from now on (R140). -/
def State.holdRelease (s : State) (b : BayId) (w : BitVec 16) : State :=
  if w.toNat / 64 = 0 then s else s.markInUse b ⟨w.toNat % 64, Nat.mod_lt _ (by omega)⟩ (w.toNat / 64)

/-! ## What a cut leaves (R91) -/

/-- The loft ranges of each group of 2,048 elements of an area of `rows` rows of `n` elements, in element order (R91, R436). -/
def VecFmt.groups (f : VecFmt) (base rows n : Nat) : List (List (Nat × Nat)) :=
  let total := rows * f.padded n
  (List.range (ceilDiv total 2048)).map fun g =>
    let lo := 2048 * g
    let len := min 2048 (total - lo)
    match f with
    | .block k => [(base + k.bytes lo, k.bytes len), (base + k.bytes total + lo / k.size, len / k.size)]
    | .h16 => [(base + 2 * lo, 2 * len)]
    | .f32 => [(base + 4 * lo, 4 * len)]

/-- The bytes that stand where a vector command will write, and the words its ledger entry will hold, are kept until it has
completed (R91). -/
def State.keepOld (s : State) (b : BayId) (groups : List (List (Nat × Nat))) (ledger : Option (Nat × List Word)) : State :=
  let old := groups.map fun g => g.map fun x => (x.1, s.readLoft b.die x.1 x.2)
  s.modBay b fun y => { y with vecOld := old, vecLedger := ledger }

/-- The words of a ledger entry before a delayed encode and after each of its groups of 2,048 elements (R40, R91). -/
def RingDie.ledgerWords (r : RingDie) (entry : Nat) (k : BlockFmt) (row : List Dyad) : List Word :=
  (List.range (ceilDiv row.length 2048 + 1)).map fun i =>
    ((r.encodeDelayedAll (fun _ => entry) k 0 (k.blocksOf (row.take (2048 * i)))).2.2).ledgerAt entry

/-! ## ELEMENTWISE -/

/-- The checks of R437 on ELEMENTWISE. -/
def State.elemGood (s : State) (d : DieId) (f : ElemFields) : Bool :=
  let op := f.op.toNat
  let n := f.count.toNat
  match vecFmt f.inFmt, vecFmt f.outFmt with
  | some i, some o =>
    decide (1 ≤ op ∧ op ≤ 0x1F) && inLoft f.srcA.toNat (i.areaBytes 1 n) &&
      (!usesB op || inLoft f.srcB.toNat (i.areaBytes 1 n)) && (!usesC op || inLoft f.srcC.toNat (i.areaBytes 1 n)) &&
      inLoft f.dst.toNat (o.areaBytes 1 n) &&
      (if f.delayed then
        match o with
        | .block .a4 => false
        | .block k => s.delayedGood d f.ledger.toNat k
        | _ => false
       else true)
  | _, _ => false

/-- The effect of ELEMENTWISE (R107, R436). -/
def State.runElementwise (s : State) (b : BayId) (f : ElemFields) : State × Status :=
  let op := f.op.toNat
  let n := f.count.toNat
  let s := s.holdRelease b f.release
  match vecFmt f.inFmt, vecFmt f.outFmt with
  | some i, some o =>
    let m := (s.die b.die).loft
    let operand (used : Bool) (a : BitVec 30) : List Dyad :=
      if used then (i.readRows m a.toNat 1 n).headD [] else List.replicate n .zero
    let result := ((operand true f.srcA).zip ((operand (usesB op) f.srcB).zip (operand (usesC op) f.srcC))).map
      fun x => elemOp op x.1 x.2.1 x.2.2
    let words : Option (Nat × List Word) := match f.delayed, o with
      | true, .block k => some (f.ledger.toNat, (s.die b.die).ledgerWords f.ledger.toNat k result)
      | _, _ => none
    let s := s.keepOld b (o.groups f.dst.toNat 1 n) words
    if f.delayed then
      match o with
      | .block k =>
        let (s, flagged) := s.writeDelayed b.die f.ledger.toNat k f.dst.toNat result
        (s, if flagged then .doneFlagged else .done)
      | _ => (s, .badDescriptor)
    else (s.writeRows b.die o f.dst.toNat [result], .done)
  | _, _ => (s, .badDescriptor)

/-- ELEMENTWISE (R107, R259). -/
def execElementwise (c : CmdHead) (f : ElemFields) (s : State) : Out :=
  .next (s.takeCmd c .vector (.elementwise f) true (s.elemGood c.bay.die f) fun s => s.runElementwise c.bay f)

/-! ## ROW -/

/-- Elements of a result row: one for SUM and MAX, else ROW_LEN (log entry 19). -/
def rowOutLen (op n : Nat) : Nat := if op = 1 ∨ op = 2 then 1 else n

/-- Bytes the AUX operand takes (R436). -/
def rowAuxBytes (op : Nat) (i : VecFmt) (rows n : Nat) : Nat :=
  if op = 1 ∨ op = 2 then 0
  else if op = 3 then 4 * n
  else if op = 4 then 8 * n
  else if op = 5 then 8 * rows
  else i.areaBytes rows n

/-- The checks of R437 on ROW. -/
def rowGood (f : RowFields) : Bool :=
  let op := f.op.toNat
  let rows := f.rows.toNat
  let n := f.rowLen.toNat
  match vecFmt f.inFmt, vecFmt f.outFmt with
  | some i, some o =>
    decide (1 ≤ op ∧ op ≤ 0x0C) && inLoft f.src.toNat (i.areaBytes rows n) &&
      inLoft f.aux.toNat (rowAuxBytes op i rows n) && inLoft f.dst.toNat (o.areaBytes rows (rowOutLen op n)) &&
      (if op = 1 ∨ op = 2 then decide (f.aux = 0) else true)
  | _, _ => false

/-- F32 words at a loft offset. -/
def readF32s (m : Memory) (base n : Nat) : List Dyad := (VecFmt.f32.readRows m base 1 n).headD []

/-- SOFTMAX_CHUNK over the rows, with m and l of each row read and written at AUX (R111). Whether this is a row's last chunk
is not in the command, so whether a row with l = 0 counts as fully masked is free (log entry 20). -/
def State.runSoftmax (s : State) (d : DieId) (f : RowFields) (o : VecFmt) (rows : List (List Dyad)) : State :=
  let m := (s.die d).loft
  let results := (List.range rows.length).map fun r =>
    let ml := readF32s m (f.aux.toNat + 8 * r) 2
    softmaxRow (rows.getD r []) (ml.getD 0 .zero) (ml.getD 1 .zero)
  let s := s.writeRows d o f.dst.toNat (results.map fun x => x.1)
  let s := s.writeLoft d f.aux.toNat (floatArea false (results.map fun x => [x.2.1, x.2.2]))
  let (last, s) := s.takeFreeBit
  if last then s.countRing d 0x48 (results.countP fun x => x.2.2.isZero) else s

/-- The rows that every other ROW operation writes (R108, R109, R111). -/
def rowResults (m : Memory) (f : RowFields) (i : VecFmt) (rows : List (List Dyad)) : List (List Dyad) :=
  let op := f.op.toNat
  let n := f.rowLen.toNat
  let eps := decF32 f.eps
  let aux := f.aux.toNat
  if op = 1 then rows.map fun r => [rowSum r]
  else if op = 2 then rows.map fun r => [rowMax r]
  else if op = 3 then rows.map fun r => rmsNorm r (readF32s m aux n) eps
  else if op = 4 then rows.map fun r => layerNorm r (readF32s m aux n) (readF32s m (aux + 4 * n) n) eps
  else
    let dy := i.readRows m aux f.rows.toNat n
    if op = 0x0C then rows.zipWith softmaxDeriv dy
    else rows.zipWith (fun y g => y.zipWith (fun a b => fMul (derivFrom op eps a) b) g) dy

/-- The effect of ROW (R108 to R111, R436). -/
def State.runRow (s : State) (b : BayId) (f : RowFields) : State × Status :=
  let s := s.holdRelease b f.release
  match vecFmt f.inFmt, vecFmt f.outFmt with
  | some i, some o =>
    let m := (s.die b.die).loft
    let rows := i.readRows m f.src.toNat f.rows.toNat f.rowLen.toNat
    let sums := if f.op = 5 then [[(f.aux.toNat, 8 * f.rows.toNat)]] else []
    let s := s.keepOld b (o.groups f.dst.toNat f.rows.toNat (rowOutLen f.op.toNat f.rowLen.toNat) ++ sums) none
    if f.op = 5 then (s.runSoftmax b.die f o rows, .done)
    else (s.writeRows b.die o f.dst.toNat (rowResults m f i rows), .done)
  | _, _ => (s, .badDescriptor)

/-- ROW (R108 to R111, R259). -/
def execRow (c : CmdHead) (f : RowFields) (s : State) : Out :=
  .next (s.takeCmd c .vector (.row f) true (rowGood f) fun s => s.runRow c.bay f)

/-! ## MASK -/

/-- The checks of R112, R113 and R437 on MASK. -/
def maskGood (f : MaskFields) (tile : MaskTile) : Bool :=
  decide (f.kind.toNat ≤ 4) && decide (f.qPos.toNat + tile.rows ≤ 2 ^ 20) && decide (f.kPos.toNat + tile.cols ≤ 2 ^ 20) &&
    inLoft f.src.toNat (4 * tile.rows * tile.cols) && inLoft f.dst.toNat (4 * tile.rows * tile.cols) &&
    (if f.kind = 3 ∨ f.kind = 4 then inLoft f.segQ.toNat (2 * tile.rows) && inLoft f.segK.toNat (2 * tile.cols) else true)

/-- Whether the entry at query row a and key column b is masked (R112). -/
def maskedAt (m : Memory) (f : MaskFields) (a b : Nat) : Bool :=
  let q := f.qPos.toNat + a
  let k := f.kPos.toNat + b
  let w := if f.window = 0 then 1048576 else f.window.toNat
  let other : Bool := m.readNat (f.segQ.toNat + 2 * a) 2 ≠ m.readNat (f.segK.toNat + 2 * b) 2
  (f.validK ≠ 0 && decide (f.validK.toNat ≤ b)) ||
    match f.kind.toNat with
    | 0 => false
    | 1 => decide (k > q)
    | 2 => decide (k > q) || decide (q ≥ k + w)
    | 3 => other
    | _ => other || decide (k > q)

/-- The effect of MASK on a tile in F32 (R112; log entry 17). -/
def State.runMask (s : State) (b : BayId) (f : MaskFields) (tile : MaskTile) : State × Status :=
  let m := (s.die b.die).loft
  let fill : Dyad := if tile.gradient then .zero else .inf true
  let rows := (List.range tile.rows).map fun a =>
    let row := readF32s m (f.src.toNat + 4 * a * tile.cols) tile.cols
    (List.range tile.cols).map fun j => if maskedAt m f a j then fill else row.getD j .zero
  let s := s.keepOld b (VecFmt.f32.groups f.dst.toNat tile.rows tile.cols) none
  (s.writeLoft b.die f.dst.toNat (floatArea false rows), .done)

/-- MASK (R112, R113). -/
def execMask (c : CmdHead) (f : MaskFields) (tile : MaskTile) (s : State) : Out :=
  .next (s.takeCmd c .vector (.mask f) true (maskGood f tile) fun s => s.runMask c.bay f tile)

end Sys2Proof.Machine
end

