-- ==== Sys2Proof/Machine/Rules.lean ====
section
/-! DEFINITION. The arithmetic of the update rules (R163, R164, R167 to R172, R176) on values: every operator the spec writes is one
F32 operation, rounded once, in the order written. -/

namespace Sys2Proof.Machine

/-! ## Parameters (R163, R164) -/

/-- A hyperparameter set as values, with η = ETA × LR_FACTOR (R164). -/
structure RuleParams where
  eta      : Dyad
  beta1    : Dyad
  beta2    : Dyad
  lambda   : Dyad
  eps      : Dyad
  damp     : Dyad
  pivotEps : Dyad
  gscale   : Dyad
deriving DecidableEq, Repr

/-- The parameters of a command: a hyperparameter set with LR_FACTOR of the step record (R164). -/
def ruleParams (y : Hyper) (lr : Word) : RuleParams :=
  { eta := fMul (decF32 y.eta) (decF32 lr), beta1 := decF32 y.beta1, beta2 := decF32 y.beta2, lambda := decF32 y.lambda,
    eps := decF32 y.eps, damp := decF32 y.damp, pivotEps := decF32 y.pivotEps, gscale := decF32 y.gscale }

/-- The master weight as it enters the arithmetic (R44, R167). -/
def masterF32 (w : W40) : Dyad := rndF32 (decW40 w)

/-- round_w40(w - d): the exact difference, rounded once (R167). -/
def stepMaster (w : W40) (d : Dyad) : W40 := encW40 ((decW40 w).sub d)

/-- One part of a moment and one of a new value: beta * m + (1 - beta) * g (R169 to R171). -/
def blend (beta m g : Dyad) : Dyad := fAdd (fMul beta m) (fMul (fSub .one beta) g)

/-- eta * (x + lambda * to_f32(w)) (R168 to R171). -/
def stepSize (p : RuleParams) (x : Dyad) (w : W40) : Dyad := fMul p.eta (fAdd x (fMul p.lambda (masterF32 w)))

/-! ## Rules by element (R168 to R170, R172) -/

/-- One element after an update: m, v and the master value. -/
structure RuleOut where
  m : Dyad
  v : Dyad
  w : W40
deriving DecidableEq, Repr, Inhabited

/-- PLAIN (R168). -/
def plainRule (p : RuleParams) (m v g : Dyad) (w : W40) : RuleOut :=
  let m := fAdd (fMul p.beta1 m) g
  ⟨m, v, stepMaster w (stepSize p m w)⟩

/-- c of SIGNED (R169). -/
def signedC (p : RuleParams) (m g : Dyad) : Dyad := blend p.beta1 m g

/-- The sign of c as a step: +1, -1 or 0 (R169). -/
def signStep (c : Dyad) : Dyad :=
  if Dyad.zero.lt c then .one else if c.lt .zero then Dyad.one.negate else .zero

/-- SIGNED (R169). -/
def signedRule (p : RuleParams) (m v g : Dyad) (w : W40) : RuleOut :=
  ⟨blend p.beta2 m g, v, stepMaster w (stepSize p (signStep (signedC p m g)) w)⟩

/-- The step of a vote result code: +1, -1; a tie, or a code never written, moves nothing (R172). -/
def voteStep (code : Nat) : Option Dyad :=
  if code = 1 then some .one else if code = 3 then some Dyad.one.negate else none

/-- The apply pass of a VOTE shard (R172). -/
def voteRule (p : RuleParams) (code : Nat) (m v g : Dyad) (w : W40) : RuleOut :=
  ⟨blend p.beta2 m g, v,
    match voteStep code with
    | some sg => stepMaster w (stepSize p sg w)
    | none => w⟩

/-- powt with its r and p, over the bits of t in ascending order (R170). -/
def powtFrom : Nat → Dyad → Dyad → Nat → Dyad
  | 0, r, _, _ => r
  | n + 1, r, p, t => if t = 0 then r else powtFrom n (if t % 2 = 1 then fMul r p else r) (fMul p p) (t / 2)

/-- powt(b, t) for a 64-bit t (R170). -/
def powt (b : Dyad) (t : Nat) : Dyad := powtFrom 64 .one b t

/-- ADAPTIVE with its two correction factors (R170). -/
def adaptiveRule (p : RuleParams) (c1 c2 : Dyad) (m v g : Dyad) (w : W40) : RuleOut :=
  let m := blend p.beta1 m g
  let v := blend p.beta2 v (fMul g g)
  let u := fDiv (fDiv m c1) (fAdd (rndF32 (fDiv v c2).sqrt) p.eps)
  ⟨m, v, stepMaster w (stepSize p u w)⟩

/-- 1 - powt(beta, t) (R170). -/
def correction (beta : Dyad) (t : Nat) : Dyad := fSub .one (powt beta t)

/-- What a block's elements go through: PLAIN, SIGNED, a vote's codes, or ADAPTIVE with c1 and c2. -/
inductive BlockRule where
  | plain
  | signed
  | vote (codes : List Nat)
  | adaptive (c1 c2 : Dyad)
deriving DecidableEq, Repr

/-- The rule of an element of a block. -/
def BlockRule.apply (r : BlockRule) (p : RuleParams) (i : Nat) (m v g : Dyad) (w : W40) : RuleOut :=
  match r with
  | .plain => plainRule p m v g w
  | .signed => signedRule p m v g w
  | .vote codes => voteRule p (codes.getD i 0) m v g w
  | .adaptive c1 c2 => adaptiveRule p c1 c2 m v g w

/-! ## Matrices (R171, R176) -/

/-- A matrix as its rows. -/
abbrev Matrix' := List (List Dyad)

/-- An inner product: ascending, one rounding for each product and each addition, from +0 (R171). -/
def dotF32 (a b : List Dyad) : Dyad := (List.zipWith fMul a b).foldl fAdd .zero

/-- The product of a matrix with another given by its columns. -/
def mulCols (a cols : Matrix') : Matrix' := a.map fun r => cols.map fun c => dotF32 r c

/-- A matrix product (R171). -/
def matMul (a b : Matrix') : Matrix' := mulCols a b.transpose

/-- A function of each element with its place. -/
def matMap (f : Nat → Nat → Dyad → Dyad) (a : Matrix') : Matrix' :=
  a.zipIdx.map fun r => r.1.zipIdx.map fun x => f r.2 x.2 x.1

/-- An element of I. -/
def unitAt (i j : Nat) : Dyad := if i = j then .one else .zero

/-- I with `n` rows. -/
def unitMatrix (n : Nat) : Matrix' := (List.range n).map fun i => (List.range n).map fun j => unitAt i j

/-- An element of a matrix. -/
def matAt (a : Matrix') (i j : Nat) : Dyad := (a.getD i []).getD j .zero

/-- The trace: the diagonal summed in ascending order (R176). -/
def trace (a : Matrix') : Dyad := ((List.range a.length).map fun i => matAt a i i).foldl fAdd .zero

/-- Element (i, j) of A less what the columns before j take from it: the Cholesky recurrence in column order, each operation
rounded (R176; DEDUCED, log entry 25). -/
def cholAt (a cols : Matrix') (i j : Nat) : Dyad :=
  cols.foldl (fun x c => fSub x (fMul (c.getD i .zero) (c.getD j .zero))) (matAt a i j)

/-- Every pivot from column `cols.length` on exceeds the limit; a NaN pivot does not (R176). -/
def cholGood (a : Matrix') (limit : Dyad) : Nat → Matrix' → Bool
  | 0, _ => true
  | n + 1, cols =>
    let j := cols.length
    let p := cholAt a cols j j
    if limit.lt p then
      let r := rndF32 p.sqrt
      cholGood a limit n (cols ++ [(List.range a.length).map fun i => fDiv (cholAt a cols i j) r])
    else false

/-- One round of the coupled Newton iteration on Xn and Mt (R176). -/
def newtonRound (x : Matrix' × Matrix') : Matrix' × Matrix' :=
  let t := matMap (fun i j e => fDiv (fSub (fMul (.ofNat 5) (unitAt i j)) e) (.ofNat 4)) x.2
  let t2 := matMul t t
  (matMul x.1 t, matMul (matMul t2 t2) x.2)

/-- The greatest magnitude of a matrix's elements; NaN if one is. -/
def matMax (a : Matrix') : Dyad := (a.flatten.map Dyad.mag).foldl fMax .zero

/-- How a recomputation ends (R176). -/
inductive RootResult where
  /-- L is reset to +0 and the tile is singular. -/
  | overflow
  | singular
  | root (x : Matrix') (residual : Dyad)
deriving DecidableEq, Repr

/-- recompute_root on L (R176). -/
def recomputeRoot (p : RuleParams) (l : Matrix') : RootResult :=
  let tr := trace l
  let shift := fDiv (fMul p.damp tr) (.ofNat 256)
  let a := matMap (fun i j e => fAdd e (fMul shift (unitAt i j))) l
  if a.flatten.any fun x => !x.isFinite then .overflow
  else
    let ta := trace a
    if cholGood a (fMul p.pivotEps ta) a.length [] then
      let start := fDiv .one (rndF32 (rndF32 ta.sqrt).sqrt)
      let x0 := (unitMatrix a.length).map fun r => r.map fun e => fMul start e
      let m0 := a.map fun r => r.map fun e => fDiv e ta
      let (xn, mt) := Nat.repeat newtonRound 16 (x0, m0)
      .root xn (matMax (matMap (fun i j e => fSub e (unitAt i j)) mt))
    else .singular

/-- M and L of a tile from its gradient (R171). -/
def tileMoments (p : RuleParams) (m l g : Matrix') : Matrix' × Matrix' :=
  (List.zipWith (List.zipWith (blend p.beta1)) m g, List.zipWith (List.zipWith (blend p.beta2)) l (mulCols g g))

/-! ## The cast (R174) -/

/-- A block's new master values as compute copy: element bytes and scale bytes (R174). -/
def castBlock (a4 : Bool) (w : List W40) : List Byte × List Byte :=
  let k : BlockFmt := if a4 then .a4 else .a8
  let codes := (chunksOf k.size 3 (w.map decW40)).map k.encodeExact
  (codes.flatMap fun c => k.packCodes c.codes, codes.map fun c => BitVec.ofNat 8 c.scale)

end Sys2Proof.Machine
end

