-- ==== Sys2Proof/Machine/Collectives.lean ====
section
/-! DEFINITION. The collectives of the link engines: REDUCE with its staging and sums (R222, R223), GATHER (R224, R21), SIGN and VOTE
with counting and results (R172, R226 to R229), SEND (R219), void fill (R297), and the tenons that belong to them (R220). -/

namespace Sys2Proof.Machine

/-! ## Reading stacks -/

/-- F32 values of bytes. -/
def f32sOf (bytes : List Byte) : List Dyad :=
  (List.range (bytes.length / 4)).map fun i => decF32 (BitVec.ofNat 32 (fieldAt bytes (4 * i) 4))

/-! ## Tenons of an attempt (R221) -/

/-- A tenon of the present attempt goes to its handler; a stale one is discarded and counted (R221). -/
def State.ifFresh (s : State) (context : DWord) (f : State → State) : State :=
  if s.stale context then s.countEdge (chunkEdge (ctxChunk context)) 0x02 else f s

/-- The index of a member by module ID; none where it is no member. -/
def memberIx (g : List Nat) (src : BitVec 15) : Option Nat := if g.contains src.toNat then some (g.idxOf src.toNat) else none

/-- Blocks of a chunk that exist, as far as this module's update lists tell (R217). -/
def State.chunkBlocksHere (s : State) (e : CollEntry) (n c : Nat) : Nat :=
  chunkLength (s.sill (stackOf e.chunks n c)).active e n c

/-! ## Staging and sums (R222, R223) -/

/-- Elements of a staged contribution: G8 decoded exactly, +0 past its end (R223). -/
def stagedValues (bytes : List Byte) (count : Nat) : List Dyad :=
  let blocks := bytes.length / 33
  (List.range (32 * count)).map fun i =>
    if i / 32 < blocks then BlockFmt.g8.toF32 (bytes.getD (32 * blocks + i / 32) 0).toNat (bytes.getD i 0).toNat else .zero

/-- Microseconds of the sum engine: 512 values a cycle at 1.6 GHz (R223, R241). -/
def State.sumBusy (s : State) (d : EdgeId) (values : Nat) : State :=
  let cycles := (s.edge d).sumRest + ceilDiv values 512
  (s.countEdge d 0x0C (cycles / 1600)).modEdge d fun x => { x with sumRest := cycles % 1600 }

/-- The contributions of a chunk in ascending member index, as staged. -/
def State.stagedOf (s : State) (coll c : Nat) (n : Nat) : List (Nat × Nat) :=
  (List.range n).filterMap fun i =>
    (s.coll.staged.find? fun x => x.1 = coll && x.2.1 = c && x.2.2.1 = i).map fun x => (i, x.2.2.2)

/-- The sums of a chunk: each member's contribution added in ascending index, from +0, one rounding an addition (R223). -/
def State.sumMembers (e : CollEntry) (n c blocks : Nat) : List (Nat × Nat) → State → List Dyad → State × List Dyad
  | [], s, acc => (s, acc)
  | (i, bytes) :: rest, s, acc =>
    let (b, s, _) := s.readChecked (stackOf e.chunks n c) (stageAt e n c i) bytes
    State.sumMembers e n c blocks rest s (List.zipWith fAdd acc (stagedValues b blocks))

/-- When all contributions of a chunk are staged, its sums are formed and written to GRAD (R223). -/
def State.trySum (s : State) (coll : Nat) (e : CollEntry) (n c : Nat) : State :=
  let all := s.stagedOf coll c n
  if all.length = n then
    let blocks := s.chunkBlocksHere e n c
    let (s, sums) := State.sumMembers e n c blocks all s (List.replicate (32 * blocks) .zero)
    let m := stackOf e.chunks n c
    let bytes := floatArea false [sums]
    let s := (s.writeStack m (gradAt e n c) bytes).gradCheck (localAddr m (gradAt e n c)) bytes.length
    let s : State := { s with coll := { s.coll with summed := s.coll.summed ++ [(coll, c)] } }
    (s.countEdge (chunkEdge c) 0x00).sumBusy (chunkEdge c) (32 * blocks * n)
  else s

/-- A contribution reaches its staging slot; a second one is discarded, counted, and sets REPLAY (R222). -/
def State.stage (s : State) (coll : Nat) (e : CollEntry) (n c i : Nat) (bytes : List Byte) : State :=
  if s.coll.staged.any fun x => x.1 = coll && x.2.1 = c && x.2.2.1 = i then
    (s.countEdge (chunkEdge c) 0x04).setReplay
  else
    let s := s.writeStack (stackOf e.chunks n c) (stageAt e n c i) bytes
    ({ s with coll := { s.coll with staged := s.coll.staged ++ [(coll, c, i, bytes.length)] } }).trySum coll e n c

/-- A chunk counts as sent in this attempt (R297). -/
def State.noteSent (s : State) (coll c : Nat) : State :=
  { s with coll := { s.coll with sent := s.coll.sent ++ [(coll, c)] } }

/-- One chunk of this module's goes to its owner: to its own slot, or in a tenon (R222). -/
def State.sendChunk (s : State) (coll : Nat) (e : CollEntry) (g : List Nat) (c : Nat) (bytes : List Byte) : State :=
  let owner := ownerId e g c
  let s := s.noteSent coll c
  if owner = s.moduleId then s.stage coll e g.length c (s.myIndex g) bytes
  else s.emit (s.newTenon 0 owner 0x10 (s.context 0 coll c) bytes)

/-- The owner of a chunk cannot be reached, and is not this module (R214). -/
def State.ownerLost (s : State) (e : CollEntry) (g : List Nat) (c : Nat) : Option Status :=
  let owner := ownerId e g c
  if owner = s.moduleId then none else s.unreachable owner

/-- The status of a LINK command that cannot reach a module, recorded (R214). -/
def State.lost (s : State) (dst : BitVec 15) (st : Status) : State := s.reportLost (s.route dst) st

/-- A run of chunks, each sent where its owner can be reached; the answer is the first status that says otherwise. -/
def State.sendRun (send : State → Nat → State) (e : CollEntry) (g : List Nat) : List Nat → State → Status → State × Status
  | [], s, st => (s, st)
  | c :: rest, s, st =>
    match s.ownerLost e g c with
    | none => State.sendRun send e g rest (send s c) st
    | some x => State.sendRun send e g rest (s.lost (ownerId e g c) x) (if st = .done then x else st)

/-- An entry of a KIND with a run of chunks inside it (R217, R437). -/
def State.runGood (s : State) (coll : BitVec 12) (vote : Bool) (first : BitVec 28) (count : Word) : Bool :=
  match s.collEntry coll.toNat with
  | none => false
  | some (e, _) => decide (e.vote = vote) && decide (first.toNat + count.toNat ≤ e.chunks)

/-- The checks on REDUCE (R217, R437). -/
def State.reduceGood (s : State) (f : ReduceFields) : Bool :=
  s.runGood f.coll false f.first f.count && inLoft f.srcElem.toNat (4096 * f.count.toNat) &&
    inLoft f.srcScale.toNat (128 * f.count.toNat)

/-- One chunk of a REDUCE: its elements and scales as the kiln readout left them (R104, R222). -/
def State.reduceChunk (s : State) (b : BayId) (f : ReduceFields) (e : CollEntry) (g : List Nat) (c : Nat) : State :=
  let i := c - f.first.toNat
  let blocks := s.chunkBlocksHere e g.length c
  s.sendChunk f.coll.toNat e g c (s.readLoft b.die (f.srcElem.toNat + 4096 * i) (32 * blocks) ++
    s.readLoft b.die (f.srcScale.toNat + 128 * i) blocks)

/-- The effect of REDUCE (R222). -/
def State.runReduce (s : State) (b : BayId) (f : ReduceFields) : State × Status :=
  match s.collEntry f.coll.toNat with
  | none => (s, .badDescriptor)
  | some (e, g) =>
    State.sendRun (fun s c => s.reduceChunk b f e g c) e g (runOf f.first.toNat f.count.toNat) s .done

/-- REDUCE (R219, R222). -/
def execReduce (c : CmdHead) (f : ReduceFields) (s : State) : Out :=
  .next (s.takeCmd c .link (.reduce f) true (s.reduceGood f) fun s => s.runReduce c.bay f)

/-- The contribution in a tenon is one that this module owns the chunk of. -/
def State.ownedChunk (s : State) (context : DWord) (vote : Bool) : Option (CollEntry × List Nat) :=
  match s.collEntry (ctxColl context) with
  | none => none
  | some (e, g) =>
    if e.vote = vote && decide (ctxChunk context < e.chunks) && decide (ownerId e g (ctxChunk context) = s.moduleId) then some (e, g)
    else none

/-- REDUCE_DATA at the link engine (R222). -/
def State.takeReduceData (s : State) (src : BitVec 15) (context : DWord) (payload : List Byte) : State :=
  s.ifFresh context fun s =>
    match s.ownedChunk context false with
    | none => s
    | some (e, g) =>
      match memberIx g src with
      | none => s
      | some i => s.stage (ctxColl context) e g.length (ctxChunk context) i payload

/-! ## GATHER (R21, R224, R240) -/

/-- The status that a withheld verdict gives every gather of its step (R21). -/
def withheldStatus (v : Bits) : Status := if v.replay then .stepReplayed else .stepWithheld

/-- The verdict of the present step record is settled and withholds the update; after a verdict timeout the module holds without
one, and its gathers complete as with a withheld update (R21, R181, R240). -/
def State.withheld (s : State) : Option Bits :=
  match s.job.verdict with
  | some v => if v.any then some v else none
  | none => if s.job.ran && s.job.current.isNone then some {} else none

/-- The effect of GATHER when taken: it waits for its copies, unless the update is withheld or an owner is out of reach (R21, R214,
R224). -/
def State.runGather (s : State) (f : GatherFields) : State × Status :=
  match s.withheld with
  | some v => (s, withheldStatus v)
  | none =>
    match s.collEntry f.coll.toNat with
    | none => (s, .badDescriptor)
    | some (e, g) =>
      let missing := (runOf f.first.toNat f.count.toNat).filter fun c => !s.coll.copies.contains (f.coll.toNat, c)
      State.sendRun (fun s _ => s) e g missing s .done

/-- GATHER (R219, R224). -/
def execGather (c : CmdHead) (f : GatherFields) (s : State) : Out :=
  .next (s.takeCmd c .link (.gather f) true (s.runGood f.coll false f.first f.count) fun s => s.runGather f)

/-- Bytes of a block in a compute copy: elements and scales (R174). -/
def copyBlock (e : CollEntry) : Nat × Nat := if e.copyA4 then (16, 2) else (32, 1)

/-- A tenon has left the buffer it came through (R198). -/
def State.leaveBuffer (s : State) (q : QueuedTenon) : State :=
  match q.via with
  | some k => s.returnCredit k q.tenon
  | none => s

/-- A tenon that came by no link of this module, as a command gives it. -/
def looseTenon (src : BitVec 15) (context : DWord) (payload : List Byte) : QueuedTenon :=
  ⟨{ (default : Tenon) with srcId := src, context := context, payload := payload }, none⟩

/-- A gather chunk lands at its place (R218, R224); after a withheld verdict it is late (R240). -/
def State.landGather (s : State) (src : BitVec 15) (context : DWord) (payload : List Byte) : State :=
  s.ifFresh context fun s =>
    let coll := ctxColl context
    let c := ctxChunk context
    match s.collEntry coll with
    | none => s
    | some (e, g) =>
      if e.vote || decide (e.chunks ≤ c) || decide (ownerId e g c ≠ src) then s
      else if s.withheld.isSome then s.countEdge (chunkEdge c) 0x07
      else
        let m := stackOf e.chunks g.length c
        let (es, cs) := copyBlock e
        let blocks := payload.length / (es + cs)
        let s := s.writeStack m (elemAt e g.length c) (payload.take (es * blocks))
        let s := s.writeStack m (scaleAt e g.length c) ((payload.drop (es * blocks)).take (cs * blocks))
        { s with coll := { s.coll with copies := s.coll.copies ++ [(coll, c)] } }

/-- GATHER_DATA at the link engine. One that comes before this module's verdict waits for it in its buffer: no gather starts here
before the verdict and the commit (R18, R198; log entry 139). -/
def State.takeGatherData (s : State) (q : QueuedTenon) : State :=
  if s.job.current.isSome && s.job.verdict.isNone && !s.stale q.tenon.context then
    { s with coll := { s.coll with held := s.coll.held ++ [q] } }
  else (s.leaveBuffer q).landGather q.tenon.srcId q.tenon.context q.tenon.payload

/-- The GATHER_DATA that waited, looked at again in the order they came. -/
def State.landHeld (s : State) : State :=
  s.coll.held.foldl State.takeGatherData { s with coll := { s.coll with held := [] } }

/-- One owned chunk of cast copy goes to every other member, and stands here (R224). -/
def State.gatherChunk (s : State) (coll : Nat) (e : CollEntry) (g : List Nat) (c : Nat) : State :=
  let m := stackOf e.chunks g.length c
  let (es, cs) := copyBlock e
  let blocks := s.chunkBlocksHere e g.length c
  let (elems, s, _) := s.readChecked m (elemAt e g.length c) (es * blocks)
  let (scales, s, _) := s.readChecked m (scaleAt e g.length c) (cs * blocks)
  let bytes := elems ++ scales
  let s : State := { s with coll := { s.coll with copies := s.coll.copies ++ [(coll, c)] } }
  g.foldl (fun s n =>
    let dst : BitVec 15 := BitVec.ofNat 15 n
    if dst = s.moduleId then s else s.emit (s.newTenon 0 dst 0x11 (s.context 0 coll c) bytes)) s

/-- The EXACT or VOTE entries of the bundle in effect, by number. -/
def State.entries (s : State) (vote : Bool) : List (Nat × CollEntry × List Nat) :=
  (s.linkTables.colls.zipIdx.map Prod.snd).filterMap fun i =>
    match s.collEntry i with
    | some (e, g) => if e.vote = vote then some (i, e, g) else none
    | none => none

/-- Chunks of an entry that this module owns, ascending. -/
def State.ownedChunks (s : State) (e : CollEntry) (g : List Nat) : List Nat :=
  let r := s.myIndex g
  if r < g.length then runOf (ownerStart e.chunks g.length r) (ownerCount e.chunks g.length r) else []

/-- The shards that hold a chunk have all been committed (R182, R224). -/
def State.chunkCommitted (s : State) (e : CollEntry) (n c : Nat) : Bool :=
  let m := stackOf e.chunks n c
  let l := chunkShards (s.sill m).active e n c
  !l.isEmpty && l.all fun i => s.job.doneShards.contains (m, i)

/-- The owned chunks that the sills have committed start their gathers, in ascending order (R20, R182, R224). -/
def State.gatherCommitted (s : State) : State :=
  (s.entries false).foldl (fun s x =>
    let (coll, e, g) := x
    ((s.ownedChunks e g).filter fun c => s.chunkCommitted e g.length c).foldl (fun s c => s.gatherChunk coll e g c) s) s

/-! ## SIGN (R172) -/

/-- The shard that SIGN names: a VOTE shard of the sill's update list (R172, R436). -/
def State.signShard (s : State) (f : SignFields) : Option (SillId × Shard) :=
  if h : f.sill.toNat < 12 then
    match (s.sill ⟨f.sill.toNat, h⟩).active.shards[f.shard.toNat]? with
    | some x => if x.vote then some (⟨f.sill.toNat, h⟩, x) else none
    | none => none
  else none

/-- The sign word of a block: bit j is the sign bit of c (R172). -/
def signWord (cs : List Dyad) : Nat := cs.foldr (fun c w => bit c.isNeg + 2 * w) 0

/-- One block of a sign pass: m and g read, its sign word written (R172). A non-finite c sets NONFINITE (R178). -/
def State.signBlock (s : State) (m : SillId) (h : Shard) (p : RuleParams) (b : Nat) : State :=
  let (mb, s, _) := s.readChecked m (32 * h.state.toNat + 128 * b) 128
  let (gb, s, _) := s.readChecked m (32 * h.grad.toNat + 128 * b) 128
  let cs := List.zipWith (fun x g => signedC p x (fMul g p.gscale)) (f32sOf mb) (f32sOf gb)
  let s := s.writeBytes (localAddr m (32 * h.aux.toNat + 4 * b)) (leBytes 4 (signWord cs))
  if cs.any fun c => !c.isFinite then s.setNonfinite else s

/-- The sign pass of a VOTE shard (R172). -/
def State.runSign (s : State) (f : SignFields) : State × Status :=
  match s.signShard f with
  | none => (s, .badDescriptor)
  | some (m, h) =>
    let p := ruleParams (hyperOf (s.sill m).active h) s.job.lrFactor
    let n := h.blocks.toNat
    let s := (List.range n).foldl (fun s b => s.signBlock m h p b) s
    let s := (s.sectorsOf (localAddr m (32 * h.aux.toNat)) (4 * n)).foldl State.noteWrite s
    let s := s.countSill m 0x28
    ({ s with coll := { s.coll with signed := s.coll.signed ++ [(m.val, f.shard.toNat)] } }, .done)

/-- SIGN (R172, R219). -/
def execSign (c : CmdHead) (f : SignFields) (s : State) : Out :=
  .next (s.takeCmd c .link (.sign f) true (s.signShard f).isSome fun s => s.runSign f)

/-! ## Counting votes (R226 to R228) -/

/-- The 2-bit code of an element (R227). -/
def voteCode (n q : Nat) : Nat := if 2 * q < n then 1 else if 2 * q > n then 3 else 0

/-- Bits as a little-endian number. -/
def bitsNat (l : List Bool) : Nat := l.foldr (fun b w => bit b + 2 * w) 0

/-- The codes of a block as the 8 bytes of the vote result area (R166, R172). -/
def codeBytes (codes : List Nat) : List Byte := leBytes 8 (codes.foldr (fun c w => c + 4 * w) 0)

/-- The payload of a VOTE_RESULT from the codes of a chunk, block by block (R228). -/
def resultPayload (blocks : List (List Nat)) : List Byte :=
  let tied := blocks.map fun b => b.contains 0
  (blocks.flatMap fun b => leBytes 4 (bitsNat (b.map fun c => decide (c = 3)))) ++
    leBytes (ceilDiv blocks.length 8) (bitsNat tied) ++
    (blocks.filter fun b => b.contains 0).flatMap fun b => leBytes 4 (bitsNat (b.map fun c => decide (c = 0)))

/-- The codes of a chunk of `n` blocks from the payload of a VOTE_RESULT (R228). -/
def resultCodes (n : Nat) (payload : List Byte) : List (List Nat) :=
  let tiedAt (b : Nat) : Bool := (payload.getD (4 * n + b / 8) 0).getLsbD (b % 8)
  let masks := 4 * n + ceilDiv n 8
  (List.range n).map fun b =>
    let word := fieldAt payload (4 * b) 4
    let mask := if tiedAt b then fieldAt payload (masks + 4 * ((List.range b).countP tiedAt)) 4 else 0
    (List.range 32).map fun j => if mask.testBit j then 0 else if word.testBit j then 3 else 1

/-- The codes of a chunk written to the vote result area; the results stand (R228, R229). -/
def State.landResults (s : State) (coll : Nat) (e : CollEntry) (n c : Nat) (blocks : List (List Nat)) : State :=
  let s := s.writeStack (stackOf e.chunks n c) (scaleAt e n c) (blocks.flatMap codeBytes)
  { s with coll := { s.coll with results := s.coll.results ++ [(coll, c)] } }

/-- All members of a chunk have voted: the results are formed, sent to every other member, and applied here (R227, R228). -/
def State.formResults (s : State) (coll : Nat) (e : CollEntry) (g : List Nat) (c : Nat) (counts : List Nat) : State :=
  let blocks := (chunksOf 32 (counts.length + 1) counts).map fun b => b.map (voteCode g.length)
  let ties := (blocks.map fun b => b.count 0).sum
  let s : State := { s with coll := { s.coll with summed := s.coll.summed ++ [(coll, c)] } }
  let s := (s.countEdge (chunkEdge c) 0x01).countEdge (chunkEdge c) 0x06 ties
  let s := s.landResults coll e g.length c blocks
  g.foldl (fun s n =>
    let dst : BitVec 15 := BitVec.ofNat 15 n
    if dst = s.moduleId then s else s.emit (s.newTenon 0 dst 0x21 (s.context 0 coll c) (resultPayload blocks))) s

/-- The chunk's slot in a vote counter. -/
def Edge.slotOf (x : Edge) (coll c : Nat) : Option VoteSlot := x.slots.find? fun v => v.coll.toNat = coll && v.chunk = c

/-- Sign words added to the counts of a chunk. -/
def addSigns (counts : List Nat) (words : List Byte) : List Nat :=
  counts.zipIdx.map fun x => x.1 + bit ((words.getD (x.2 / 8) 0).getLsbD (x.2 % 8))

/-- One member's votes counted in a slot that the chunk has or gets (R226). -/
def State.addVote (s : State) (coll : Nat) (e : CollEntry) (g : List Nat) (c i : Nat) (words : List Byte) : State :=
  let d := chunkEdge c
  let fresh : VoteSlot := ⟨BitVec.ofNat 12 coll, c, [], List.replicate (32 * s.chunkBlocksHere e g.length c) 0⟩
  let slot := ((s.edge d).slotOf coll c).getD fresh
  if s.coll.summed.contains (coll, c) || slot.arrived.contains i then (s.countEdge d 0x05).setReplay
  else
    let slot : VoteSlot := { slot with arrived := slot.arrived ++ [i], counts := addSigns slot.counts words }
    let others := (s.edge d).slots.filter fun v => !(v.coll.toNat = coll && v.chunk = c)
    if slot.arrived.length = g.length then
      (s.modEdge d fun x => { x with slots := others }).formResults coll e g c slot.counts
    else s.modEdge d fun x => { x with slots := others ++ [slot] }

/-- The vote counter can take a vote for a chunk (R226). -/
def State.voteRoom (s : State) (coll c : Nat) : Bool :=
  let x := s.edge (chunkEdge c)
  (x.slotOf coll c).isSome || s.coll.summed.contains (coll, c) || decide (x.slots.length < 128)

/-- A vote leaves its buffer and is counted; one that is stale, or that names no chunk of this module's, is not (R221, R226). -/
def State.takeVote (s : State) (q : QueuedTenon) : State :=
  let t := q.tenon
  (s.leaveBuffer q).ifFresh t.context fun s =>
    match s.ownedChunk t.context true with
    | none => s
    | some (e, g) =>
      match memberIx g t.srcId with
      | none => s
      | some i => s.addVote (ctxColl t.context) e g (ctxChunk t.context) i t.payload

/-- A vote need not wait: it is stale, names no chunk of this module's, or finds room (R226). -/
def State.voteGoes (s : State) (q : QueuedTenon) : Bool :=
  let c := q.tenon.context
  s.stale c || (s.ownedChunk c true).isNone || s.voteRoom (ctxColl c) (ctxChunk c)

/-- Votes that waited for a slot are counted while there is room, in the order they came (R226). -/
def State.retryVotes : Nat → State → EdgeId → State
  | 0, s, _ => s
  | n + 1, s, d =>
    match (s.edge d).waiting.find? s.voteGoes with
    | none => s
    | some q => State.retryVotes n ((s.modEdge d fun x => { x with waiting := x.waiting.erase q }).takeVote q) d

/-- The votes that wait at an edge die looked at again. -/
def State.retryEdge (s : State) (d : EdgeId) : State := s.retryVotes (s.edge d).waiting.length d

/-- A member's votes on a chunk reach the owner's vote counter; with every slot busy they wait in their buffer (R198, R226). -/
def State.countVote (s : State) (q : QueuedTenon) : State :=
  let d := chunkEdge (ctxChunk q.tenon.context)
  if s.voteGoes q then (s.takeVote q).retryEdge d else s.modEdge d fun x => { x with waiting := x.waiting ++ [q] }

/-- This module's sign words of a chunk go to its owner (R226). -/
def State.sendVotes (s : State) (coll : Nat) (e : CollEntry) (g : List Nat) (c : Nat) (words : List Byte) : State :=
  let owner := ownerId e g c
  let s := s.noteSent coll c
  if owner = s.moduleId then s.countVote (looseTenon owner (s.context 0 coll c) words)
  else s.emit (s.newTenon 0 owner 0x20 (s.context 0 coll c) words)

/-- The sign passes of every shard that the chunks cover are done (R226). -/
def State.signsReady (s : State) (f : VoteFields) : Bool :=
  match s.collEntry f.coll.toNat with
  | none => true
  | some (e, g) => (runOf f.first.toNat f.count.toNat).all fun c =>
    let m := stackOf e.chunks g.length c
    (chunkShards (s.sill m).active e g.length c).all fun i => s.coll.signed.contains (m.val, i)

/-- One chunk of a VOTE: its sign words read from the sign area. -/
def State.voteChunk (s : State) (coll : Nat) (e : CollEntry) (g : List Nat) (c : Nat) : State :=
  let (words, s, _) := s.readChecked (stackOf e.chunks g.length c) (elemAt e g.length c) (4 * s.chunkBlocksHere e g.length c)
  s.sendVotes coll e g c words

/-- The effect of VOTE (R226). -/
def State.runVote (s : State) (f : VoteFields) : State × Status :=
  match s.collEntry f.coll.toNat with
  | none => (s, .badDescriptor)
  | some (e, g) =>
    State.sendRun (fun s c => s.voteChunk f.coll.toNat e g c) e g (runOf f.first.toNat f.count.toNat) s .done

/-- VOTE (R219, R226). -/
def execVote (c : CmdHead) (f : VoteFields) (s : State) : Out :=
  let good := s.runGood f.coll true f.first f.count
  .next (s.takeCmd c .link (.vote f) (!good || s.signsReady f) good fun s => s.runVote f)

/-- VOTE_RESULT at the link engine (R228). -/
def State.takeVoteResult (s : State) (src : BitVec 15) (context : DWord) (payload : List Byte) : State :=
  s.ifFresh context fun s =>
    let coll := ctxColl context
    let c := ctxChunk context
    match s.collEntry coll with
    | none => s
    | some (e, g) =>
      if !e.vote || decide (e.chunks ≤ c) || decide (ownerId e g c ≠ src) || s.coll.results.contains (coll, c) then s
      else s.landResults coll e g.length c (resultCodes (s.chunkBlocksHere e g.length c) payload)

/-! ## SEND (R219) -/

/-- Bytes land at a module address of this module (R219), but for protected areas (R19; log entry 133). What falls into a GRAD
range is checked (R178). -/
def State.landSend (s : State) (a : Nat) (bytes : List Byte) : State :=
  (s.writeMerged a (s.guardBytes a bytes)).gradCheck a bytes.length

/-- The effect of SEND: the bytes in tenons of up to 16,384, each with its destination address in CONTEXT (R193, R219, R220). -/
def State.runSend (s : State) (b : BayId) (f : SendFields) : State × Status :=
  let bytes := s.readLoft b.die f.src.toNat f.bytes.toNat
  let parts := (chunksOf 16384 (bytes.length + 1) bytes).zipIdx
  if f.dstId = s.moduleId then (parts.foldl (fun s x => s.landSend (f.dst.toNat + 16384 * x.2) x.1) s, .done)
  else
    match s.unreachable f.dstId with
    | some st => (s.lost f.dstId st, st)
    | none =>
      (parts.foldl (fun s x => s.emit (s.newTenon 0 f.dstId 0x01 (BitVec.ofNat 64 (f.dst.toNat + 16384 * x.2)) x.1)) s, .done)

/-- SEND (R219). -/
def execSend (c : CmdHead) (f : SendFields) (s : State) : Out :=
  .next (s.takeCmd c .link (.send f) true (inLoft f.src.toNat f.bytes.toNat) fun s => s.runSend c.bay f)

/-- SEND_DATA at the link engine (R220). -/
def State.takeSendData (s : State) (context : DWord) (payload : List Byte) : State := s.landSend context.toNat payload

/-! ## Void fill (R297) -/

/-- Void chunks of an entry: those not sent in this attempt whose owner can be reached. -/
def State.unsent (s : State) (coll : Nat) (e : CollEntry) (g : List Nat) : List Nat :=
  (List.range e.chunks).filter fun c => !s.coll.sent.contains (coll, c) && (s.ownerLost e g c).isNone

/-- Every chunk that this module has not sent in the attempt goes out void: +0 elements with scales 0, and zero sign words
(R297). -/
def State.voidChunks (s : State) : State :=
  let s := (s.entries false).foldl (fun s x =>
    let (coll, e, g) := x
    (s.unsent coll e g).foldl (fun s c =>
      s.sendChunk coll e g c (List.replicate (33 * s.chunkBlocksHere e g.length c) 0)) s) s
  (s.entries true).foldl (fun s x =>
    let (coll, e, g) := x
    (s.unsent coll e g).foldl (fun s c =>
      s.sendVotes coll e g c (List.replicate (4 * s.chunkBlocksHere e g.length c) 0)) s) s

/-! ## Commands: tenons at the link engine -/

/-- REDUCE_DATA (R220, R222, R223). -/
def execReduceData (src : BitVec 15) (context : DWord) (payload : List Byte) (s : State) : Out :=
  .next (s.takeReduceData src context payload)

/-- GATHER_DATA (R220, R224, R240). -/
def execGatherData (src : BitVec 15) (context : DWord) (payload : List Byte) (s : State) : Out :=
  .next (s.takeGatherData (looseTenon src context payload))

/-- VOTE_SIGNS (R220, R226, R227). -/
def execVoteSigns (src : BitVec 15) (context : DWord) (payload : List Byte) (s : State) : Out :=
  .next (s.countVote (looseTenon src context payload))

/-- VOTE_RESULT (R220, R228). -/
def execVoteResult (src : BitVec 15) (context : DWord) (payload : List Byte) (s : State) : Out :=
  .next (s.takeVoteResult src context payload)

/-- SEND_DATA (R219, R220). -/
def execSendData (src : BitVec 15) (context : DWord) (payload : List Byte) (s : State) : Out :=
  let _ := src
  .next (s.takeSendData context payload)

end Sys2Proof.Machine
end

