-- ==== Sys2Proof/Machine/Dispatches.lean ====
section
/-! DEFINITION. Travelling tokens: DISPATCH with its counts, grants and rows (R235, R236), and COMBINE (R237, R238). -/

namespace Sys2Proof.Machine

/-! ## Records of a dispatch -/

/-- A source's record put in place of an earlier one of its number. -/
def State.putSource (s : State) (d : DispatchSource) : State :=
  { s with coll := { s.coll with sources :=
      (s.coll.sources.filter fun x => x.fields.dispatchNo ≠ d.fields.dispatchNo) ++ [d] } }

/-- The record of a dispatch at this home; an empty one where nothing has arrived. -/
def State.homeOf (s : State) (n : Nat) : DispatchHome :=
  (s.coll.homes.find? fun x => x.dispatchNo.toNat = n).getD ⟨BitVec.ofNat 12 n, none, [], false, [], [], false⟩

/-- A home's record put in place of an earlier one of its number. -/
def State.putHome (s : State) (h : DispatchHome) : State :=
  { s with coll := { s.coll with homes := (s.coll.homes.filter fun x => x.dispatchNo ≠ h.dispatchNo) ++ [h] } }

/-- Experts that this module hosts, ascending. -/
def State.hosted (s : State) : List (Nat × ExpertEntry) := s.expertsAt s.moduleId

/-- Numbers as 16-bit words. -/
def words16 (l : List Nat) : List Byte := l.flatMap fun n => leBytes 2 n

/-- The 16-bit words of a payload. -/
def readWords16 (payload : List Byte) (n : Nat) : List Nat := (List.range n).map fun i => fieldAt payload (2 * i) 2

/-- Bytes of an expert's landed count and rows. -/
def landAddr (x : ExpertEntry) : Nat := 64 * x.land

/-- Bytes written to the loft of an expert's die, within it. -/
def State.writeLand (s : State) (x : ExpertEntry) (offset : Nat) (bytes : List Byte) : State :=
  if h : x.die < 16 then
    if inLoft (landAddr x + offset) bytes.length then s.writeLoft ⟨x.die, h⟩ (landAddr x + offset) bytes else s
  else s

/-! ## Rows at the source (R235) -/

/-- Where a token's row lies: one contiguous piece in H16; elements and scales in A8 (R235, R436). -/
def tokenRow (f : DispatchFields) (token : Nat) : List (Nat × Nat) :=
  let n := f.rowBytes.toNat
  if f.rowFmt = 0 then
    let blocks := n / 33
    [(f.rowAddr.toNat + 32 * blocks * token, 32 * blocks),
     (f.rowAddr.toNat + 32 * blocks * f.tokens.toNat + blocks * token, blocks)]
  else [(f.rowAddr.toNat + n * token, n)]

/-- The bytes of a token's row. -/
def State.rowOf (s : State) (d : DispatchSource) (token : Nat) : List Byte :=
  (tokenRow d.fields token).flatMap fun x => s.readLoft d.bay.die x.1 x.2

/-- The SERVED bit of a token's slot set (R235, R236). -/
def State.markServed (s : State) (d : DispatchSource) (expert token : Nat) : State :=
  match (d.slots.getD token []).find? fun x => x.2.1 = expert with
  | none => s
  | some x =>
    let a := d.fields.served.toNat + token
    let old := (s.die d.bay.die).loft.get a
    s.writeLoft d.bay.die a [old ||| BitVec.ofNat 8 (2 ^ x.1)]

/-! ## Combining at the source (R238) -/

/-- Output rows that a source expects from a home, in landing order: expert and token. -/
def State.expectedFrom (s : State) (d : DispatchSource) (home : BitVec 15) : List (Nat × Nat) :=
  (s.expertsAt home).flatMap fun x => (d.servedBy x.1).map fun t => (x.1, t)

/-- The rows of a home's tenons: `n` bytes each, a tenon holding at least one. -/
def returnedRows (d : DispatchSource) (n : Nat) (home : BitVec 15) : List (List Byte) :=
  (d.returned.filter fun x => x.1 = home).flatMap fun x =>
    (List.range (max 1 (x.2.length / n))).map fun i => (x.2.drop (n * i)).take n

/-- Every output row of a dispatch with its expert and token; none while one is missing (R238). -/
def State.combinedRows (s : State) (d : DispatchSource) (n : Nat) : Option (List (Nat × Nat × List Byte)) :=
  let homes := s.homesOf (s.members d.fields.group.toNat)
  let pairs (h : BitVec 15) : List (Nat × Nat) := s.expectedFrom d h
  if s.allGranted d && homes.all fun h => decide ((pairs h).length ≤ (returnedRows d n h).length) then
    some (homes.flatMap fun h => List.zipWith (fun x r => (x.1, x.2, r)) (pairs h) (returnedRows d n h))
  else none

/-- y of a token: the sum over its slots in ascending expert index of gate × output, a slot not served giving +0 (R238). -/
def tokenSum (slots : List (Nat × Nat × Word)) (rows : List (Nat × Nat × List Byte)) (token n : Nat) : List Dyad :=
  let ordered := slots.mergeSort fun a b => decide (a.2.1 ≤ b.2.1)
  ordered.foldl (fun acc x =>
    let add : List Dyad :=
      match rows.find? fun r => r.1 = x.2.1 && r.2.1 = token with
      | some r => (List.range n).map fun i => fMul (decF32 x.2.2) (decH16 (BitVec.ofNat 16 (fieldAt r.2.2 (2 * i) 2)))
      | none => List.replicate n .zero
    List.zipWith fAdd acc add) (List.replicate n .zero)

/-- The sums of a dispatch are formed and written once its COMBINE runs and every row is in (R238). -/
def State.tryCombine (s : State) (no : Nat) : State :=
  match s.sourceOf no with
  | none => s
  | some d =>
    match d.combine with
    | none => s
    | some (b, f) =>
      if d.summed then s
      else
        match s.combinedRows d f.outBytes.toNat with
        | none => s
        | some rows =>
          let n := f.outBytes.toNat / 2
          let ys := d.slots.zipIdx.map fun x => tokenSum x.1 rows x.2 n
          let s := s.writeLoft b.die f.outAddr.toNat (floatArea (decide (f.outFormat = 3)) ys)
          (s.countEdge 0 0x0B rows.length).putSource { d with summed := true }

/-- COMBINE_ROWS at the source (R238). -/
def State.takeCombineRows (s : State) (src : BitVec 15) (no : Nat) (payload : List Byte) : State :=
  match s.sourceOf no with
  | none => s
  | some d => (s.putSource { d with returned := d.returned ++ [(src, payload)] }).tryCombine no

/-! ## Rows at the home (R236, R237) -/

/-- ROW_BYTES of a dispatch, from this module's own DISPATCH. -/
def State.rowBytesOf (s : State) (no : Nat) : Nat :=
  match s.sourceOf no with
  | some d => d.fields.rowBytes.toNat
  | none => 0

/-- Rows an expert has been granted in all. -/
def DispatchHome.total (h : DispatchHome) (expert : Nat) : Nat :=
  ((h.granted.filter fun x => x.1 = expert).map fun x => x.2.2).sum

/-- The rows of a source in the order it sends them, as expert and row number at the home (R236). -/
def DispatchHome.placesOf (h : DispatchHome) (experts : List Nat) (src : BitVec 15) : List (Nat × Nat) :=
  experts.flatMap fun e =>
    let mine := h.granted.filter fun x => x.1 = e
    let before := ((mine.takeWhile fun x => x.2.1 ≠ src).map fun x => x.2.2).sum
    match mine.find? fun x => x.2.1 = src with
    | some x => (List.range x.2.2).map fun i => (e, before + i)
    | none => []

/-- Output bytes of a void row: OUT_BYTES where the COMBINE is known, else one value (R297; log entry 27). -/
def State.voidRowBytes (s : State) (no : Nat) : Nat :=
  match s.sourceOf no with
  | some d => match d.combine with
    | some (_, f) => f.outBytes.toNat
    | none => 2
  | none => 2

/-- Output rows go back to a source, as many to a tenon as fit (R237, R238). -/
def State.returnRows (s : State) (no : Nat) (src : BitVec 15) (rows : List (List Byte)) (n : Nat) : State :=
  let per := max 1 (16384 / n)
  (chunksOf per (rows.length + 1) rows).foldl (fun s part =>
    if src = s.moduleId then s.takeCombineRows src no part.flatten
    else s.emit (s.newTenon 1 src 0x33 (s.context 0 no 0) part.flatten)) s

/-- One row lands at its place, and the home keeps its source and token (R236). Under void fill its output row goes back as +0
(R297). -/
def State.landRow (s : State) (no : Nat) (src : BitVec 15) (token : Nat) (row : List Byte) : State :=
  let h := s.homeOf no
  let done := (h.landed.filter fun x => x.source = src).length
  match (h.placesOf (s.hosted.map Prod.fst) src)[done]? with
  | none => s
  | some (e, r) =>
    match s.hosted.find? fun x => x.1 = e with
    | none => s
    | some (_, x) =>
      let s := s.writeLand x (64 + r * s.rowBytesOf no) row
      let h := { h with landed := h.landed ++ [⟨e, r, src, token⟩] }
      let n := (h.landed.filter fun y => y.expert = e).length
      let s := s.putHome h
      let s := if n = h.total e then s.writeLand x 0 (leBytes 4 n) else s
      if s.job.voidFill && !h.combined then
        s.returnRows no src [List.replicate (s.voidRowBytes no) 0] (s.voidRowBytes no)
      else s

/-- DISPATCH_ROWS at the home: token indices and rows (R220, R236). -/
def State.takeRows (s : State) (src : BitVec 15) (no : Nat) (payload : List Byte) : State :=
  let n := 4 + s.rowBytesOf no
  (chunksOf n (payload.length + 1) payload).foldl (fun s part => s.landRow no src (fieldAt part 0 4) (part.drop 4)) s

/-! ## Grants (R236) -/

/-- One expert's rows go out: SERVED bits set, tokens over the grant counted (R236). The answer carries the rows with their
indices. -/
def State.serveRows (s : State) (d : DispatchSource) (expert : Nat) : State × List (List Byte) :=
  let served := d.servedBy expert
  let excess := (d.tokensFor expert).length - served.length
  let s := served.foldl (fun s t => s.markServed d expert t) s
  (s.countEdge 0 0x09 excess, served.map fun t => leBytes 4 t ++ s.rowOf d t)

/-- DISPATCH_GRANT at the source: the first g tokens of each expert of the home are sent (R236). -/
def State.takeGrant (s : State) (src : BitVec 15) (no : Nat) (payload : List Byte) : State :=
  match s.sourceOf no with
  | none => s
  | some d =>
    let experts := (s.expertsAt src).map Prod.fst
    if experts.any fun e => d.grants.any fun x => x.1 = e then s
    else
      let d := { d with grants := d.grants ++ experts.zip (readWords16 payload experts.length) }
      let s := s.putSource d
      let (s, rows) := experts.foldl (fun (p : State × List (List Byte)) e =>
        let (s, more) := p.1.serveRows d e
        (s, p.2 ++ more)) (s, [])
      let s := s.countEdge 0 0x0A rows.length
      let per := max 1 (16384 / (4 + d.fields.rowBytes.toNat))
      let s := (chunksOf per (rows.length + 1) rows).foldl (fun s part =>
        if src = s.moduleId then s.takeRows src no part.flatten
        else s.emit (s.newTenon 1 src 0x32 (s.context 0 no 0) part.flatten)) s
      s.tryCombine no

/-- The step number that turns the admission order (R236). -/
def State.stepNumber (s : State) : Nat := (s.lastStep.getD 0).toNat

/-- One expert's admission: members in order from index s mod n, each as many as fit (R236). -/
def grantInOrder (capacity : Nat) : Nat → List (BitVec 15 × Nat) → List (BitVec 15 × Nat)
  | _, [] => []
  | used, (m, count) :: rest =>
    let g := min count (capacity - used)
    (m, g) :: grantInOrder capacity (used + g) rest

/-- The members of a group from a starting index round. -/
def rotated (g : List Nat) (start : Nat) : List (BitVec 15) :=
  (g.drop start ++ g.take start).map fun n => BitVec.ofNat 15 n

/-- When all counts are in, the home admits tokens and grants (R236). -/
def State.settleGrants (s : State) (no : Nat) : State :=
  let h := s.homeOf no
  match h.own with
  | none => s
  | some (group, caps) =>
    let g := s.members group
    let order := rotated g (s.stepNumber % g.length)
    if h.done || !(order.all fun m => h.counts.any fun x => x.1 = m) then s
    else
      let experts := s.hosted.map Prod.fst
      let countOf (m : BitVec 15) (i : Nat) : Nat := ((h.counts.find? fun x => x.1 = m).map fun x => x.2.getD i 0).getD 0
      let granted := experts.zipIdx.flatMap fun e =>
        let cap := ((caps.find? fun c => c.1 = e.1).map Prod.snd).getD 0
        (grantInOrder cap 0 (order.map fun m => (m, countOf m e.2))).map fun x => (e.1, x.1, x.2)
      let h := { h with done := true, granted := granted }
      let s := s.putHome h
      let s := s.hosted.foldl (fun s x => if h.total x.1 = 0 then s.writeLand x.2 0 (leBytes 4 0) else s) s
      order.foldl (fun s m =>
        let payload := words16 (experts.map fun e =>
          ((granted.find? fun x => x.1 = e && x.2.1 = m).map fun x => x.2.2).getD 0)
        if m = s.moduleId then s.takeGrant m no payload
        else s.emit (s.newTenon 2 m 0x31 (s.context 0 no 0) payload)) s

/-- A source's counts reach the home; a second message of one source is dropped (R236). -/
def State.noteCounts (s : State) (src : BitVec 15) (no : Nat) (counts : List Nat) : State :=
  let h := s.homeOf no
  if h.counts.any fun x => x.1 = src then s
  else (s.putHome { h with counts := h.counts ++ [(src, counts)] }).settleGrants no

/-! ## DISPATCH (R235, R236) -/

/-- The filled routing slots of a token: slot, expert, gate; 0xFFFF is an empty slot (R235). -/
def State.routeSlots (s : State) (b : BayId) (f : DispatchFields) (token : Nat) : List (Nat × Nat × Word) :=
  (List.range 8).filterMap fun k =>
    let w := (s.die b.die).loft.readNat (f.route.toNat + 64 * token + 8 * k) 8
    if w % 65536 = 0xFFFF then none else some (k, w % 65536, BitVec.ofNat 32 (w / 2 ^ 32))

/-- The routing slots of every token. -/
def State.routing (s : State) (b : BayId) (f : DispatchFields) : List (List (Nat × Nat × Word)) :=
  (List.range f.tokens.toNat).map fun t => s.routeSlots b f t

/-- The checks on DISPATCH: its ranges, its row format, and its routing list (R235, R437). -/
def State.dispatchGood (s : State) (b : BayId) (f : DispatchFields) : Bool :=
  let t := f.tokens.toNat
  let experts := s.linkTables.experts.length
  decide (f.rowFmt = 0 ∨ f.rowFmt = 3) && decide (f.rowBytes.toNat ≤ 16380) &&
    decide (f.rowBytes.toNat % (if f.rowFmt = 0 then 33 else 2) = 0) &&
    decide (s.members f.group.toNat ≠ []) && inLoft f.route.toNat (64 * t) && inLoft f.rowAddr.toNat (f.rowBytes.toNat * t) &&
    inLoft f.served.toNat t && (s.hosted.all fun x => inDmem (f.capAddr.toNat + 2 * x.1) 2) &&
    (s.routing b f).all fun l => (l.all fun x => decide (x.2.1 < experts)) && decide ((l.map fun x => x.2.1).Nodup)

/-- Capacities of the hosted experts, at CAP_ADDR by expert index (R235). -/
def State.capacities (s : State) (b : BayId) (f : DispatchFields) : List (Nat × Nat) :=
  s.hosted.map fun x => (x.1, (s.bay b).dmem.readNat (f.capAddr.toNat + 2 * x.1) 2)

/-- A home learns group and capacities from this module's own DISPATCH. -/
def State.openHome (s : State) (f : DispatchFields) (caps : List (Nat × Nat)) : State :=
  s.putHome { s.homeOf f.dispatchNo.toNat with own := some (f.group.toNat, caps) }

/-- The counts of a dispatch go to each home that can be reached; the answer is the first status that says otherwise (R236,
R239). -/
def State.sendCounts (no : Nat) (d : DispatchSource) : List (BitVec 15) → State → Status → State × Status
  | [], s, st => (s, st)
  | h :: rest, s, st =>
    let counts := (s.expertsAt h).map fun x => (d.tokensFor x.1).length
    if h = s.moduleId then State.sendCounts no d rest (s.noteCounts h no counts) st
    else
      match s.unreachable h with
      | none => State.sendCounts no d rest (s.emit (s.newTenon 2 h 0x30 (s.context 0 no 0) (words16 counts))) st
      | some x => State.sendCounts no d rest (s.lost h x) (if st = .done then x else st)

/-- The source and home records of a dispatch made, and its counts sent (R236). -/
def State.startDispatch (s : State) (b : BayId) (f : DispatchFields) (slots : List (List (Nat × Nat × Word)))
    (caps : List (Nat × Nat)) : State × Status :=
  let d : DispatchSource := ⟨b, f, slots, [], none, [], false⟩
  let s := (s.putSource d).openHome f caps
  State.sendCounts f.dispatchNo.toNat d (s.homesOf (s.members f.group.toNat)) s .done

/-- The effect of DISPATCH: every SERVED bit is clear until its row is sent (R235, R236). -/
def State.runDispatch (s : State) (b : BayId) (f : DispatchFields) : State × Status :=
  let slots := s.routing b f
  let caps := s.capacities b f
  let s := s.writeLoft b.die f.served.toNat (List.replicate f.tokens.toNat 0)
  s.startDispatch b f slots caps

/-- DISPATCH (R219, R235, R236). -/
def execDispatch (c : CmdHead) (f : DispatchFields) (s : State) : Out :=
  .next (s.takeCmd c .link (.dispatch f) true (s.dispatchGood c.bay f) fun s => s.runDispatch c.bay f)

/-! ## COMBINE (R237, R238) -/

/-- The checks on COMBINE (R219, R436, R437). -/
def State.combineGood (s : State) (f : CombineFields) : Bool :=
  match s.sourceOf f.dispatchNo.toNat with
  | none => false
  | some d =>
    decide (f.outFormat = 3 ∨ f.outFormat = 4) && decide (f.outBytes.toNat % 2 = 0) && decide (f.outBytes.toNat ≤ 16380) &&
      inLoft f.outAddr.toNat (d.fields.tokens.toNat * (f.outBytes.toNat / 2) * (if f.outFormat = 3 then 2 else 4))

/-- Every admitted row has landed at this home, so that the home can send the output rows (R236, R237; log entry 27). -/
def State.combineReady (s : State) (f : CombineFields) : Bool :=
  let h := s.homeOf f.dispatchNo.toNat
  s.hosted.isEmpty || (h.done && decide (h.landed.length = (h.granted.map fun x => x.2.2).sum))

/-- Offset of the output rows of an expert: OUT_e less LAND_e (R237). -/
def outOffset (n rowBytes : Nat) : Nat := 64 + ceilDiv (n * rowBytes) 64 * 64

/-- The output row of a landed row. -/
def State.outputRow (s : State) (no outBytes : Nat) (h : DispatchHome) (r : LandedRow) : List Byte :=
  match s.hosted.find? fun x => x.1 = r.expert with
  | some (_, x) =>
    if hd : x.die < 16 then
      s.readLoft ⟨x.die, hd⟩ (landAddr x + outOffset (h.total r.expert) (s.rowBytesOf no) + r.row * outBytes) outBytes
    else []
  | none => []

/-- Landed rows of a source in landing order. -/
def DispatchHome.rowsOf (h : DispatchHome) (src : BitVec 15) : List LandedRow :=
  (h.landed.filter fun x => x.source = src).mergeSort fun a b =>
    decide (a.expert < b.expert) || (decide (a.expert = b.expert) && decide (a.row ≤ b.row))

/-- The home's output rows go back to every source (R237, R238). -/
def State.sendOutputs (s : State) (no outBytes : Nat) (group : Nat) : State :=
  let h := s.homeOf no
  let s := s.putHome { h with combined := true }
  (s.members group).foldl (fun s m =>
    let src : BitVec 15 := BitVec.ofNat 15 m
    s.returnRows no src ((h.rowsOf src).map fun r => s.outputRow no outBytes h r) outBytes) s

/-- The effect of COMBINE (R237, R238). -/
def State.runCombine (s : State) (b : BayId) (f : CombineFields) : State × Status :=
  let no := f.dispatchNo.toNat
  match s.sourceOf no with
  | none => (s, .badDescriptor)
  | some d =>
    let s := s.putSource { d with combine := some (b, f), summed := false }
    let s := s.sendOutputs no f.outBytes.toNat d.fields.group.toNat
    let lost := (s.homesOf (s.members d.fields.group.toNat)).findSome? fun h =>
      if h = s.moduleId then none else (s.unreachable h).map fun st => (h, st)
    match lost with
    | some (h, st) => ((s.lost h st).tryCombine no, st)
    | none => (s.tryCombine no, .done)

/-- COMBINE (R219, R237, R238). -/
def execCombine (c : CmdHead) (f : CombineFields) (s : State) : Out :=
  let good := s.combineGood f
  .next (s.takeCmd c .link (.combine f) (!good || s.combineReady f) good fun s => s.runCombine c.bay f)

/-! ## Void fill (R297) -/

/-- Groups that hold this module and another. -/
def State.commonGroups (s : State) (src : BitVec 15) : List Nat :=
  s.linkTables.groups.zipIdx.filterMap fun x =>
    if x.1.contains src.toNat && x.1.contains s.moduleId.toNat then some x.2 else none

/-- A dispatch that the program has not run is answered with zero counts to every home. Its group is one that holds both modules,
which one is free where there are several (R297; log entries 8 and 27). -/
def State.voidDispatch (s : State) (src : BitVec 15) (no : Nat) : State :=
  let groups := s.commonGroups src
  if (s.sourceOf no).isSome || groups.isEmpty then s
  else
    let (w, s) := if groups.length = 1 then ((0 : DWord), s) else s.takeFree
    let group := groups.getD (w.toNat % groups.length) 0
    let f : DispatchFields := { (default : DispatchFields) with dispatchNo := BitVec.ofNat 12 no, group := BitVec.ofNat 4 group }
    (s.startDispatch default f [] []).1

/-- DISPATCH_COUNT at the home (R236); under void fill it also tells of a dispatch (R297). -/
def State.takeCount (s : State) (src : BitVec 15) (no : Nat) (payload : List Byte) : State :=
  let s := s.noteCounts src no (readWords16 payload s.hosted.length)
  if s.job.voidFill then s.voidDispatch src no else s

/-- The dispatches of an attempt under void fill: those heard of are answered, and every landed row whose output has not gone back
gets one of +0 (R297). -/
def State.voidDispatches (s : State) : State :=
  let s := s.coll.homes.foldl (fun s h =>
    match h.counts with
    | x :: _ => s.voidDispatch x.1 h.dispatchNo.toNat
    | [] => s) s
  s.coll.homes.foldl (fun s h =>
    if h.combined then s
    else
      let no := h.dispatchNo.toNat
      let n := s.voidRowBytes no
      h.landed.foldl (fun s r => s.returnRows no r.source [List.replicate n 0] n) s) s

/-! ## Commands: tenons at the link engine -/

/-- DISPATCH_COUNT (R220, R236). -/
def execDispatchCount (src : BitVec 15) (context : DWord) (payload : List Byte) (s : State) : Out :=
  .next (s.ifFresh context fun s => s.takeCount src (ctxColl context) payload)

/-- DISPATCH_GRANT (R220, R236). -/
def execDispatchGrant (src : BitVec 15) (context : DWord) (payload : List Byte) (s : State) : Out :=
  .next (s.ifFresh context fun s => s.takeGrant src (ctxColl context) payload)

/-- DISPATCH_ROWS (R220, R236). -/
def execDispatchRows (src : BitVec 15) (context : DWord) (payload : List Byte) (s : State) : Out :=
  .next (s.ifFresh context fun s => s.takeRows src (ctxColl context) payload)

/-- COMBINE_ROWS (R220, R238). -/
def execCombineRows (src : BitVec 15) (context : DWord) (payload : List Byte) (s : State) : Out :=
  .next (s.ifFresh context fun s => s.takeCombineRows src (ctxColl context) payload)

end Sys2Proof.Machine
end

