-- ==== Sys2Proof/Machine/Commit.lean ====
section
/-! DEFINITION. The commit of a step at the sills (R167 to R176, R182, R184): shard by shard in list order, block by block in ascending
order, master, state and copy, and the header last. -/

namespace Sys2Proof.Machine

/-! ## Running a list until a read fails -/

/-- Items taken in order until one meets an uncorrectable sector; the answer is the count of items done and that sector. -/
def commitAll {α : Type} (f : State → α → State × Option Nat) : List α → State → Nat → State × Nat × Option Nat
  | [], s, n => (s, n, none)
  | x :: rest, s, n =>
    match f s x with
    | (s, some b) => (s, n, some b)
    | (s, none) => commitAll f rest s (n + 1)

/-- The first sector of some ranges of a stack that a commit reads as uncorrectable: known bad, or found so now (R153). -/
def State.commitBad (s : State) (m : SillId) (found : List (SillId × Nat)) (l : List (Nat × Nat)) : Option Nat :=
  (l.flatMap fun x => s.sectorsOf (localAddr m x.1) x.2).findSome? fun x =>
    if (s.sill x.1).sectorBad x.2.1 || found.contains (x.1, x.2.1) then some x.2.1 else none

/-- Sectors of written ranges noted as written (R146, R153, R161). -/
def State.noteRanges (s : State) (m : SillId) (l : List (Nat × Nat)) : State :=
  (l.flatMap fun x => s.sectorsOf (localAddr m x.1) x.2).foldl State.noteWrite s

/-! ## Blocks (R163, R166, R167, R174) -/

/-- Byte offsets of a block's parts in its stack. -/
structure BlockPlace where
  master : Nat
  state  : Nat
  grad   : Nat
  elem   : Nat
  scale  : Nat
deriving DecidableEq, Repr

/-- Block `i` of a shard, with its state record at `st` and its gradient at position `g` of GRAD. -/
def blockPlace (h : Shard) (i st g : Nat) : BlockPlace :=
  ⟨32 * h.master.toNat + 160 * i, st, 32 * h.grad.toNat + 128 * g, 32 * h.copyElem.toNat + (copySizes h).1 * i,
    32 * h.copyScale.toNat + (copySizes h).2 * i⟩

/-- W40 values of bytes (R29). -/
def w40sOf (bytes : List Byte) : List W40 :=
  (List.range (bytes.length / 5)).map fun i => BitVec.ofNat 40 (fieldAt bytes (5 * i) 5)

/-- The bytes of F32 values. -/
def f32Bytes (l : List Dyad) : List Byte := floatArea false [l]

/-- An update that leaves master values non-finite is written, counted and recorded (R184). -/
def State.noteNonfinite (s : State) (m : SillId) (pl : BlockPlace) (n : Nat) : State :=
  if n = 0 then s else (s.countSill m 0x27 n).reportSector m (pl.master / 64) .notice 0x6027 .done

/-- A block's new master values, moments and cast copy written (R167, R174), with the counters of R186. -/
def State.writeBlock (s : State) (m : SillId) (h : Shard) (pl : BlockPlace) (out : List RuleOut) : State :=
  let w := out.map RuleOut.w
  let (elems, scales) := castBlock h.a4 w
  let moments := f32Bytes (out.map RuleOut.m) ++ (if h.rule = .adaptive then f32Bytes (out.map RuleOut.v) else [])
  let s := s.writeBytes (localAddr m pl.master) (w.flatMap fun x => leBytes 5 x.toNat)
  let s := s.writeBytes (localAddr m pl.state) moments
  let s := s.writeBytes (localAddr m pl.elem) elems
  let s := s.writeBytes (localAddr m pl.scale) scales
  let s := s.modSill m fun x =>
    { ((x.count 0x20 ((x.paramRest + 32) / 1024)).count 0x21 scales.length) with paramRest := (x.paramRest + 32) % 1024 }
  s.noteNonfinite m pl (w.countP fun x => !(decW40 x).isFinite)

/-- The ranges a block's update reads. -/
def blockReads (h : Shard) (pl : BlockPlace) : List (Nat × Nat) :=
  [(pl.master, 160), (pl.state, recordSize h), (pl.grad, 128)]

/-- A block's gradient values, each times GSCALE (R167). -/
def State.gradBlock (s : State) (m : SillId) (p : RuleParams) (pl : BlockPlace) : List Dyad :=
  (f32sOf (s.readStack m pl.grad 128)).map fun g => fMul g p.gscale

/-- A block goes through its rule (R168 to R170, R172). -/
def State.commitBlock (s : State) (m : SillId) (found : List (SillId × Nat)) (h : Shard) (p : RuleParams) (rule : BlockRule)
    (pl : BlockPlace) : State × Option Nat :=
  match s.commitBad m found (blockReads h pl) with
  | some b => (s, some b)
  | none =>
    let w := w40sOf (s.readStack m pl.master 160)
    let st := f32sOf (s.readStack m pl.state (recordSize h))
    let g := s.gradBlock m p pl
    let out := (List.range 32).map fun i =>
      rule.apply p i (st.getD i .zero) (st.getD (32 + i) .zero) (g.getD i .zero) (w.getD i 0)
    ((s.modSill m fun x => x.moveBytes false (288 + recordSize h)).writeBlock m h pl out, none)

/-- Ranges written by the first `n` blocks from block `i` on, their state records starting at `st`. -/
def blockWrites (h : Shard) (i n st : Nat) : List (Nat × Nat) :=
  let pl := blockPlace h i st 0
  [(pl.master, 160 * n), (st, recordSize h * n), (pl.elem, (copySizes h).1 * n), (pl.scale, (copySizes h).2 * n)]

/-! ## Dense shards (R168 to R170, R172) -/

/-- The 32 vote result codes of a block (R166, R172). -/
def voteCodes (bytes : List Byte) : List Nat := (List.range 32).map fun i => leNat bytes / 4 ^ i % 4

/-- A block of a VOTE shard: its results read, ties and codes never written counted (R172, R186). -/
def State.commitVoteBlock (s : State) (m : SillId) (found : List (SillId × Nat)) (h : Shard) (p : RuleParams) (i : Nat) :
    State × Option Nat :=
  let at' := 32 * h.aux.toNat + 4 * h.blocks.toNat + 8 * i
  match s.commitBad m found [(at', 8)] with
  | some b => (s, some b)
  | none =>
    let codes := voteCodes (s.readStack m at' 8)
    match s.commitBlock m found h p (.vote codes) (blockPlace h i (32 * h.state.toNat + 128 * i) i) with
    | (s, some b) => (s, some b)
    | (s, none) => (s.modSill m fun x => (((x.moveBytes false 8).count 0x29 (codes.count 0)).count 0x2A (codes.count 2)), none)

/-- A block of a dense shard under PLAIN, SIGNED or ADAPTIVE; `t` is UPDATES + 1. -/
def denseRule (h : Shard) (p : RuleParams) (t : Nat) : BlockRule :=
  match h.rule with
  | .adaptive => .adaptive (correction p.beta1 t) (correction p.beta2 t)
  | .signed => .signed
  | _ => .plain

/-- The blocks of a dense shard in ascending order (R182). -/
def State.commitDense (s : State) (m : SillId) (found : List (SillId × Nat)) (h : Shard) (p : RuleParams) (t : Nat) :
    State × Option Nat :=
  let rule := denseRule h p t
  let st := 32 * h.state.toNat
  let (s, n, bad) := commitAll
    (fun s i => if h.vote then s.commitVoteBlock m found h p i
      else s.commitBlock m found h p rule (blockPlace h i (st + recordSize h * i) i))
    (List.range h.blocks.toNat) s 0
  (s.noteRanges m (blockWrites h 0 n st), bad)

/-! ## Sparse tables (R175) -/

/-- Bytes of a table row's state: its header and the records of its blocks (R166). -/
def rowStateBytes (h : Shard) : Nat := 32 + h.blocks.toNat * recordSize h

/-- The touched rows of a table: position in the list and row, as many as the table has (R175). -/
def State.touchedRows (s : State) (m : SillId) (h : Shard) : List (Nat × Nat) :=
  let at' := 32 * h.aux.toNat
  let n := min (s.stackNat m at' 4) h.geom.toNat
  ((List.range n).map fun j => (j, s.stackNat m (at' + 4 + 4 * j) 4)).filter fun x => decide (x.2 < h.geom.toNat)

/-- A touched row: COUNT + 1, then its blocks with t = COUNT (R170, R175). -/
def State.commitRow (s : State) (m : SillId) (found : List (SillId × Nat)) (h : Shard) (p : RuleParams) (x : Nat × Nat) :
    State × Option Nat :=
  let (j, row) := x
  let st := 32 * h.state.toNat + row * rowStateBytes h
  match s.commitBad m found [(st, 32), (32 * h.aux.toNat + 4 + 4 * j, 4)] with
  | some b => (s, some b)
  | none =>
    let count := (s.stackNat m st 8 + 1) % 2 ^ 64
    let rule := denseRule h p count
    let s := s.writeBytes (localAddr m st) (leBytes 8 count)
    let first := row * h.blocks.toNat
    let (s, n, bad) := commitAll
      (fun s k => s.commitBlock m found h p rule
        (blockPlace h (first + k) (st + 32 + recordSize h * k) (j * h.blocks.toNat + k)))
      (List.range h.blocks.toNat) s 0
    let s := s.modSill m fun y => y.moveBytes false 36
    let s := s.noteRanges m ((st, 8) :: blockWrites h first n (st + 32))
    (if bad.isNone then s.countSill m 0x22 else s, bad)

/-- The listed rows of a table in list order (R175, R182). -/
def State.commitSparse (s : State) (m : SillId) (found : List (SillId × Nat)) (h : Shard) (p : RuleParams) : State × Option Nat :=
  match s.commitBad m found [(32 * h.aux.toNat, 4)] with
  | some b => (s, some b)
  | none =>
    let (s, _, bad) := commitAll (fun s x => s.commitRow m found h p x) (s.touchedRows m h) s 0
    (s, bad)

/-! ## PRECOND tiles (R171, R176) -/

/-- Block `j` of row `r` of a tile (R163). -/
def tileBlock (h : Shard) (t r j : Nat) : Nat :=
  let cols := h.geom.toNat
  ((t / cols * 256 + r) * cols + t % cols) * 8 + j

/-- Place of a block of a tile. -/
def tilePlace (h : Shard) (t r j : Nat) : BlockPlace :=
  let b := tileBlock h t r j
  blockPlace h b (32 * h.state.toNat + 128 * b) b

/-- The blocks of a tile, ascending: row and block in the row. -/
def tileBlocks : List (Nat × Nat) := (List.range 256).flatMap fun r => (List.range 8).map fun j => (r, j)

/-- A tile's matrix from its blocks, row by row. -/
def tileMatrix (f : Nat → Nat → List Dyad) : Matrix' :=
  (List.range 256).map fun r => (List.range 8).flatMap fun j => f r j

/-- A matrix in a tile record, row-major F32 (R166). -/
def State.readMatrix (s : State) (m : SillId) (o : Nat) : Matrix' :=
  (List.range 256).map fun r => f32sOf (s.readStack m (o + 1024 * r) 1024)

/-- The bytes of a matrix. -/
def matrixBytes (a : Matrix') : List Byte := floatArea false a

/-- Offset of a tile's record. -/
def tileAt (h : Shard) (t : Nat) : Nat := 32 * h.aux.toNat + tileBytes * t

/-- The tile header after a recomputation: ROOT_VALID, UPDATES + 1 and RESIDUAL; its other bytes stay (R166, R176). -/
def State.writeRoot (s : State) (m : SillId) (o t : Nat) (x : Matrix') (residual : Dyad) : State :=
  let b0 := ((s.sill m).dram.get o) ||| 1
  let s := s.writeBytes (localAddr m o) [b0]
  let s := s.writeBytes (localAddr m (o + 8)) (leBytes 8 t ++ f32Bytes [residual])
  s.writeBytes (localAddr m (o + 64 + 262144)) (matrixBytes x)

/-- The recomputation of a tile's root in place, with its counters; the last component says that the tile is singular (R176). -/
def State.recompute (s : State) (m : SillId) (p : RuleParams) (o t : Nat) (l : Matrix') : State × Bool :=
  let s := s.countSill m 0x2B
  match recomputeRoot p l with
  | .overflow =>
    (((s.writeBytes (localAddr m (o + 64)) (List.replicate 262144 0)).countSill m 0x2C), true)
  | .singular => (s.countSill m 0x2C, true)
  | .root x residual => (s.writeRoot m o t x residual, false)

/-- One tile (R171); `t` is UPDATES + 1. The middle component says that the tile was singular. -/
def State.commitTile (s : State) (m : SillId) (found : List (SillId × Nat)) (h : Shard) (p : RuleParams) (t : Nat) (k : Nat) :
    State × Bool × Option Nat :=
  let o := tileAt h k
  match s.commitBad m found ((o, tileBytes) :: tileBlocks.flatMap fun x => blockReads h (tilePlace h k x.1 x.2)) with
  | some b => (s, false, some b)
  | none =>
    let g := tileMatrix fun r j => s.gradBlock m p (tilePlace h k r j)
    let mOld := tileMatrix fun r j => f32sOf (s.readStack m (tilePlace h k r j).state 128)
    let (mNew, l) := tileMoments p mOld (s.readMatrix m (o + 64)) g
    let s := s.writeBytes (localAddr m (o + 64)) (matrixBytes l)
    let due := decide (t % h.rootEvery.toNat = 0)
    let (s, singular) := if due then s.recompute m p o t l else (s, false)
    let valid := ((s.sill m).dram.get o).getLsbD 0
    let u := matMul (if valid then s.readMatrix m (o + 64 + 262144) else unitMatrix 256) mNew
    let s := tileBlocks.foldl (fun s x =>
      let pl := tilePlace h k x.1 x.2
      let w := w40sOf (s.readStack m pl.master 160)
      s.writeBlock m h pl ((List.range 32).map fun i =>
        let old := w.getD i 0
        ⟨matAt mNew x.1 (32 * x.2 + i), .zero, stepMaster old (stepSize p (matAt u x.1 (32 * x.2 + i)) old)⟩)) s
    let s := s.modSill m fun x => x.moveBytes false (tileBytes + 2048 * 416)
    let s := s.noteRanges m ((if due then (o, tileBytes) else (o + 64, 262144)) ::
      (List.range 256).flatMap fun r => blockWrites h (tileBlock h k r 0) 8 (tilePlace h k r 0).state)
    (s, singular, none)

/-- Tiles in order; the answer counts the singular ones (R176, R182). -/
def State.commitTiles (m : SillId) (found : List (SillId × Nat)) (h : Shard) (p : RuleParams) (t : Nat) :
    List Nat → State → Nat → State × Nat × Option Nat
  | [], s, n => (s, n, none)
  | k :: rest, s, n =>
    match s.commitTile m found h p t k with
    | (s, _, some b) => (s, n, some b)
    | (s, singular, none) => State.commitTiles m found h p t rest s (n + bit singular)

/-! ## Shards and lists (R165, R182) -/

/-- The shard header after a commit: STEP = s + 1, UPDATES + 1, and after a recomputation SINGULAR and SINGULAR_FLAG
(R165, R176, R182). -/
def State.writeHeader (s : State) (m : SillId) (h : Shard) (step : DWord) (t : Nat) (singular : Option Nat) : State :=
  let o := 32 * h.header.toNat
  let s := s.writeBytes (localAddr m o) (leBytes 8 (step + 1).toNat ++ leBytes 8 t)
  let s := match singular with
    | none => s
    | some n =>
      let total := (s.stackNat m (o + 16) 4 + n) % 2 ^ 32
      let flags := ((s.sill m).dram.get (o + 20) &&& 0xFE) ||| BitVec.ofNat 8 (bit (decide (0 < n)))
      s.writeBytes (localAddr m (o + 16)) (leBytes 4 total ++ [flags])
  s.noteRanges m [(o, 64)]

/-- One shard: its blocks, rows or tiles, then its header, and its completion is signalled (R164, R182). -/
def State.commitShard (s : State) (m : SillId) (found : List (SillId × Nat)) (r : StepRec) (x : Shard × Nat) :
    State × Option Nat :=
  let h := x.1
  let o := 32 * h.header.toNat
  match s.commitBad m found [(o, 64)] with
  | some b => (s, some b)
  | none =>
    let p := ruleParams (hyperOf (s.sill m).active h) r.lr
    let t := (s.stackNat m (o + 8) 8 + 1) % 2 ^ 64
    let s := s.modSill m fun y => y.moveBytes false 64
    let (s, singular, bad) : State × Option Nat × Option Nat :=
      if h.rule = .precond then
        let (s, n, bad) := State.commitTiles m found h p t (List.range (shardTiles h)) s 0
        (s, if t % h.rootEvery.toNat = 0 then some n else none, bad)
      else if h.sparse then
        let (s, bad) := s.commitSparse m found h p
        (s, none, bad)
      else
        let (s, bad) := s.commitDense m found h p t
        (s, none, bad)
    match bad with
    | some b => (s, some b)
    | none =>
      let s := s.writeHeader m h r.s t singular
      ({ s with job := { s.job with doneShards := s.job.doneShards ++ [(m, x.2)] } }, none)

/-- A sill runs its update list. An uncorrectable read stops it at once and takes the module to FAULTED (R153, R184). The greatest
commit time seen is free (log entry 8). -/
def State.commitSill (s : State) (found : List (SillId × Nat)) (r : StepRec) (m : SillId) : State :=
  match commitAll (fun s x => s.commitShard m found r x) (s.sill m).active.shards.zipIdx s 0 with
  | (s, _, some b) =>
    let s := (s.eccRead ⟨m, b, .uncorrectable, .none⟩).1
    s.goFaulted 0x6802 (idSector m b) .memoryUncorrectable (BitVec.ofNat 64 (s.sectorAddr m b))
  | (s, _, none) =>
    let (w, s) := s.takeFree
    let s := s.modSill m fun x => { x with counters := Sparse.raiseTo x.counters 0x2D (w.toNat % 2 ^ 32) }
    { s with job := { s.job with committed := s.job.committed ++ [m] } }

/-- Every sill commits, and the link engines start the gathers of what is committed (R182, R224); the order of the sills does not
matter to the result. -/
def State.commit (s : State) (found : List (SillId × Nat)) (r : StepRec) : State :=
  (allSills.foldl (fun s m => s.commitSill found r m) s).gatherCommitted

end Sys2Proof.Machine
end

