-- ==== Sys2Proof/Machine/Update.lean ====
section
/-! DEFINITION. A step from its record to its end: the skew check and the program start (R164, R177, R254, R298), abandonment (R297),
the module's fence and the verdict tree (R179 to R181, R232, R233), the end of the step and the rest of its fence (R182, R183, R300,
R353, R363), and the ends of stops and items. -/

namespace Sys2Proof.Machine

/-! ## The skew check (R177) -/

/-- A skewed shard: the verdict bit, its count and its record (R177). It is noted for the event that follows the verdict. -/
def State.skewed (s : State) (m : SillId) (i : Nat) (h : Shard) (step : Nat) : State :=
  let s := (s.countSill m 0x25).setSkew
  let s : State := { s with job := { s.job with skewed := s.job.skewed ++ [(m, i, BitVec.ofNat 64 step)] } }
  let sector := 32 * h.header.toNat / 64
  s.report { cls := .notice, code := 0x6025, subject := idSector m sector, reporter := idSector m sector, tag := h.tag,
             detail := BitVec.ofNat 64 step }

/-- One header read and compared with s; an uncorrectable one sets REPLAY (R153, R177). -/
def State.checkHeader (s : State) (r : StepRec) (m : SillId) (x : Shard × Nat) : State :=
  let h := x.1
  let o := 32 * h.header.toNat
  let (bytes, s, bad) := s.readChecked m o 64
  if bad then s.setReplay
  else if fieldAt bytes 0 8 ≠ r.s.toNat then s.skewed m x.2 h (fieldAt bytes 0 8)
  else s

/-- Every header of every list (R177). -/
def State.checkHeaders (s : State) (r : StepRec) : State :=
  allSills.foldl (fun s m => (s.sill m).active.shards.zipIdx.foldl (fun s x => s.checkHeader r m x) s) s

/-! ## Program start (R254, R257, R298) -/

/-- A bay at a program start: a crashed core's data image is written again, and the program's threads start at their entry points
where the bay is enabled (R254, R257, R298). -/
def Bay.start (y : Bay) (drained : Bool) : Bay :=
  let y := if drained then y.setFunc .bay .enabled else y
  let y := if y.crashed then { y with dmem := y.dmem.write 0 y.dataImage, crashed := false } else y
  { y with threads := Vector.ofFn fun t : Fin 8 =>
      match y.entries.find? fun x => x.1 = t with
      | some x => if y.func .bay = .enabled then { mode := .ready, pc := x.2, regs := Vector.replicate 16 0 } else y.threads[t]
      | none => y.threads[t] }

/-- The program starts: segments are numbered from 0 again (R100, R254, R298). -/
def State.startProgram (s : State) : State :=
  let drained := s.job.drained
  let s := allBays.foldl (fun s b => s.modBay b fun y => y.start (drained.contains b)) s
  let s := s.mapDies fun r => { r with nextSegment := 0, lastEnded := none }
  { s with job := { s.job with drained := [] } }

/-- Some control core has crashed and not restarted. -/
def State.anyCrashed (s : State) : Bool := allBays.any fun b => (s.bay b).crashed

/-- A crashed core cannot restart, the bundle image having lost its DIGEST: the step is not run (R249, R298). -/
def State.refuseStart (s : State) : State :=
  let unstart (h : HeldDesc) : HeldDesc := { h with started := false }
  let s := match s.job.current with
    | some r => s.modRing r.ring fun x => { x with held :=
        match x.held with
        | [] => []
        | h :: rest => unstart h :: rest }
    | none => s
  let s : State := { s with job := { s.job with current := none, phase := .none } }
  (s.reportLoad (refuse 0x02) 0).quiesceNow .verifyFailed

/-- The bundle image of a crashed program still has its DIGEST (R298). -/
def State.restartGood (s : State) : Bool :=
  !s.anyCrashed || (match s.loader.inEffect with
    | some b => s.digestHolds b
    | none => true)

/-! ## Abandonment (R297) -/

/-- Some die drives the step-abandon line. -/
def State.lineHigh (s : State) : Bool := s.dies.toList.any fun r => r.abandonLine

/-- The step-abandon line falls. -/
def State.lowerLine (s : State) : State := s.mapDies fun r => { r with abandonLine := false }

/-- A thread halts at a wait, or where a push is stalled (R297). -/
def Thread.abandon (x : Thread) : Thread :=
  match x.mode with
  | .ready => x
  | _ => { x with mode := .halted }

/-- A bay drains, as under QUIESCE (R297); one whose disable is in progress or done stays as it is (R299). -/
def State.drainBay (s : State) (b : BayId) : State :=
  let s := s.modBay b fun y => { y with threads := y.threads.map Thread.abandon }
  if (s.bay b).func .bay = .enabled then
    let s : State := { s with job := { s.job with drained := s.job.drained ++ [b] } }
    (s.modBay b fun y => y.setFunc .bay .quiescing).settleFuncs b
  else s

/-- The attempt is abandoned: cores halt and queues drain (R297). -/
def State.startAbandon (s : State) : State :=
  let s : State := { s with job := { s.job with abandoned := true } }
  allBays.foldl (fun s b => s.drainBay b) s.lowerLine

/-- The attempt in progress is abandoned, once (R297, R299). -/
def State.abandonOnce (s : State) : State := if s.job.abandoned then s.lowerLine else s.startAbandon

/-- The queues of every bay have run to their end (R297). -/
def State.drainEnded (s : State) : Bool := allBays.all fun b => (s.bay b).funcIdle .bay

/-- Void fill begins (R297, R354). -/
def State.fillVoid (s : State) : State :=
  (({ s with job := { s.job with voidFill := true } } : State).voidChunks).voidDispatches

/-! ## The step record (R164, R177, R354) -/

/-- A step record reaches the sills and starts the program, is claimed by maintenance, or is abandoned at once for a crash that came
after the last fence (R164, R177, R254, R297, R299, R354). -/
def State.runRecord (s : State) (r : StepRec) : State :=
  let claims := s.job.claimDue && decide (r.attempt = 0)
  let s := allEdges.foldl State.retryEdge s.landHeld
  let s := (if claims then s.claimStep else s).checkHeaders r
  let s : State := { s with job := { s.job with phase := .running } }
  if s.job.claimed then s.fillVoid
  else if s.lineHigh then (s.setReplay).startAbandon
  else s.startProgram

/-- STEP_RECORD (R164, R177, R254, R298, R354). -/
def execStepRecord (s : State) : Out :=
  .next (match s.job.current with
    | some r =>
      if s.job.phase = .posted then
        if !s.lineHigh && !s.restartGood then s.refuseStart else s.runRecord r
      else s
    | none => s)

/-- STEP_ABANDON (R297). -/
def execStepAbandon (die : DieId) (bay : BayIx) (s : State) : Out :=
  let _ := bay
  .next (if s.kp.state = .running && s.job.phase = .running && (s.die die).abandonLine then s.abandonOnce else s)

/-- A bay's drain ends as under FORCE (R91, R297). -/
def State.forceDrain (s : State) (b : BayId) : State :=
  if (s.bay b).func .bay = .quiescing then
    ((s.forceFunc b .bay).modBay b fun y => y.setFunc .bay .quiescing).settleFuncs b
  else s

/-- DRAIN_TIMEOUT (R297): 50 ms after the line rose. A bay that a QUIESCE was draining when the core crashed drains with the rest
(R93, R299). -/
def execDrainTimeout (s : State) : Out :=
  .next (if s.job.abandoned then allBays.foldl (fun s b => s.forceDrain b) s else s)

/-! ## The fence (R175, R179, R229, R297, R354) -/

/-- Strictly ascending and below a bound. -/
def ascendingBelow (bound : Nat) : List Nat → Bool
  | [] => true
  | [x] => decide (x < bound)
  | x :: y :: rest => decide (x < y) && ascendingBelow bound (y :: rest)

/-- A touched-row list is checked (R175). -/
def State.checkTouched (s : State) (m : SillId) (h : Shard) : State :=
  let o := 32 * h.aux.toNat
  let (bytes, s, bad) := s.readChecked m o 4
  let n := fieldAt bytes 0 4
  let (l, s, bad') := s.readChecked m (o + 4) (4 * min n h.geom.toNat)
  let rows := (List.range (min n h.geom.toNat)).map fun j => fieldAt l (4 * j) 4
  if !bad && !bad' && n ≤ h.geom.toNat && ascendingBelow h.geom.toNat rows then s
  else
    s.setReplay.report { cls := .work, code := Config.unlistedCode 10, subject := idSector m (o / 64),
                         reporter := idSector m (o / 64), tag := h.tag }

/-- Every sparse table's list (R175). -/
def State.checkLists (s : State) : State :=
  allSills.foldl (fun s m => (s.sill m).active.shards.foldl (fun s h => if h.sparse then s.checkTouched m h else s) s) s

/-- A kiln readout waits or runs somewhere (R179). -/
def State.readoutsOut (s : State) : Bool :=
  let isReadout : EngineCmd → Bool := fun c => match c with
    | .kilnReadout _ => true
    | _ => false
  allBays.any fun b =>
    let q := (s.bay b).queue .kiln
    (q.waiting.any fun c => isReadout c.cmd) || (match q.running with
      | some r => isReadout r.cmd
      | none => false)

/-- Every owned chunk of every EXACT entry has its sums (R179, R223). -/
def State.sumsDone (s : State) : Bool :=
  (s.entries false).all fun x => (s.ownedChunks x.2.1 x.2.2).all fun c => s.coll.summed.contains (x.1, c)

/-- The runs of blocks of a shard whose vote results have landed: first block and count (R218, R229). -/
def State.landedRuns (s : State) (m : SillId) (i : Nat) : List (Nat × Nat) :=
  let l := (s.sill m).active
  (s.entries true).flatMap fun x =>
    let (coll, e, g) := x
    (((List.range e.chunks).filter fun c => stackOf e.chunks g.length c = m && s.coll.results.contains (coll, c)).flatMap fun c =>
      chunkRuns l e g.length c (l.shards.length + 1) 0).filterMap fun r => if r.1 = i then some r.2 else none

/-- The vote results of all blocks of every VOTE shard have landed (R229). -/
def State.resultsDone (s : State) : Bool :=
  allSills.all fun m => (s.sill m).active.shards.zipIdx.all fun x =>
    !x.1.vote ||
      (let runs := s.landedRuns m x.2
       (List.range x.1.blocks.toNat).all fun b => runs.any fun r => decide (r.1 ≤ b) && decide (b < r.1 + r.2))

/-- Every VOTE shard has had its sign pass (R172, R179). -/
def State.signsDone (s : State) : Bool :=
  allSills.all fun m => (s.sill m).active.shards.zipIdx.all fun x => !x.1.vote || s.coll.signed.contains (m.val, x.2)

/-- Some byte of a range of module memory lies in a GRAD area of an update list. -/
def State.inGrad (s : State) (x : Nat × Nat) : Bool :=
  allSills.any fun m => (s.sill m).active.shards.any fun h =>
    decide (0 < (meetOf x (localAddr m (32 * h.grad.toNat), 128 * shardBlocks h)).2)

/-- The ranges that a store writes. -/
def FetchDesc.target (d : FetchDesc) : List (Nat × Nat) :=
  (List.range d.rows.toNat).map fun i => (d.src.toNat + i * d.rowStride.toNat, d.cols.toNat)

/-- Where an engine command writes to this module's memory (R128, R219). -/
def State.writesOf (s : State) (cmd : EngineCmd) : List (Nat × Nat) :=
  match cmd with
  | .store f => (List.range f.rows.toNat).map fun i => (f.dst.toNat + i * f.rowStride.toNat, f.cols.toNat)
  | .send f => if f.dstId = s.moduleId then [(f.dst.toNat, f.bytes.toNat)] else []
  | _ => []

/-- A store or a SEND of this module to a GRAD area is still to be done: every GRAD range has not had its writes (R179). -/
def State.gradWritesOut (s : State) : Bool :=
  allBays.any fun b =>
    let y := s.bay b
    let cmds := [QueueIx.store, QueueIx.link].flatMap fun q =>
      (y.queue q).waiting.map QueuedCmd.cmd ++ ((y.queue q).running.map RunningCmd.cmd).toList
    (cmds.any fun c => (s.writesOf c).any s.inGrad) ||
      y.streams.toList.any fun t =>
        decide (t.conf.mode = 1) && (t.descs ++ t.appended.map Prod.snd).any fun d => d.wellFormed && d.target.any s.inGrad

/-- The module may reach its fence (R179, R229, R297, R354). -/
def State.fenceReady (s : State) : Bool :=
  if s.job.abandoned then s.drainEnded && s.sumsDone
  else if s.job.claimed then s.job.items.isEmpty && s.job.running.isNone && s.sumsDone
  else !s.readoutsOut && !s.gradWritesOut && s.sumsDone && s.resultsDone && s.signsDone

/-! ## Gathers of a withheld update (R21, R181) -/

/-- The waiting gathers of a bay complete with a status (R21). -/
def State.endWaiting (s : State) (st : Status) (b : BayId) : State :=
  let l := ((s.bay b).queue .link).waiting
  let gatherOf (c : QueuedCmd) : Option GatherFields := match c.cmd with
    | .gather f => if c.unusedClear && s.runGood f.coll false f.first f.count then some f else none
    | _ => none
  let s := s.modQueue b .link fun q => { q with waiting := q.waiting.filter fun c => (gatherOf c).isNone }
  l.foldl (fun s c => match gatherOf c with
    | some f => (s.gatherDone f.gatherNo st).finishCmd b .link c.ctr st (cmdTag c.cmd)
    | none => s) s

/-- The running gather of a bay completes with a status, and those that wait (R21). -/
def State.endGather (s : State) (st : Status) (b : BayId) : State :=
  let s := s.endWaiting st b
  match ((s.bay b).queue .link).running with
  | some r =>
    match r.cmd with
    | .gather _ => s.finishRunning b .link { r with status := st }
    | _ => s
  | none => s

/-- Every gather of the step completes: the update is withheld (R21). -/
def State.endGathers (s : State) (st : Status) : State := allBays.foldl (fun s b => s.endGather st b) s

/-! ## The verdict settles (R180 to R182, R300) -/

/-- The replay count of a step's verdicts (R300). -/
def State.countReplay (s : State) (r : StepRec) (v : Bits) : State :=
  if v.replay && v.skew then s
  else
    { s with job := { s.job with
        replays := if v.replay then (if s.job.replayOf = some r.s then s.job.replays + 1 else 1) else 0
        replayOf := some r.s } }

/-- The verdict settles: ledgers advance or revert, kiln regions close, and the sills commit or write nothing (R182). -/
def State.settle (s : State) (v : Bits) (found : List (SillId × Nat)) : State :=
  match s.job.current with
  | none => s
  | some r =>
    let flagged := (s.dies.toList.map RingDie.flaggedEntries).sum
    let s : State := { s with job := { s.job with verdict := some v, phase := .settled, flagged := flagged } }
    let s := s.mapDies fun d => (d.ledgerVerdict v.replay).closeRegions v.replay
    let s := s.countReplay r v
    if v.any then
      let s := allSills.foldl (fun s m => s.countSill m 0x24) s
      let s := s.report { cls := .notice, code := 0x6024, subject := idModule, reporter := idModule }
      (s.endGathers (withheldStatus v)).landHeld
    else ((allSills.foldl (fun s m => s.countSill m 0x23) s).commit found r).landHeld

/-! ## The verdict tree (R231 to R233) -/

/-- A verdict message (R221, R232). -/
def State.sendVerdict (s : State) (op : Byte) (v : Bits) (dst : BitVec 15) : State :=
  s.emit (s.newTenon 2 dst op (s.context v.code 0 0) [])

/-- The verdict goes to every child, and then takes effect here (R232). -/
def State.takeVerdict (s : State) (t : TreeEntry) (v : Bits) (found : List (SillId × Nat)) : State :=
  (t.children.foldl (fun s c => s.sendVerdict 0x41 v c) s).settle v found

/-- At the fence with every child reported, the OR goes up, or at the root becomes the verdict (R232). -/
def State.verdictFlow (s : State) (found : List (SillId × Nat)) : State :=
  match s.coll.tree with
  | none => s
  | some t =>
    if s.job.phase = .fence && t.children.all fun c => s.job.children.any fun x => x.1 = c then
      let v := s.job.children.foldl (fun v x => v.merge x.2) s.job.contributed
      if t.root then s.takeVerdict t v found else s.sendVerdict 0x40 v t.parent
    else s

/-- The module reaches its fence and contributes its bits (R179). -/
def State.reachFence (s : State) (found : List (SillId × Nat)) : State :=
  let s := s.lowerLine.checkLists
  ({ s with job := { s.job with phase := .fence, contributed := s.job.own } } : State).verdictFlow found

/-- MODULE_FENCE (R179, R297, R354). -/
def execModuleFence (found : List (SillId × Nat)) (s : State) : Out :=
  .next (if s.kp.state = .running && s.job.phase = .running then
    let s := if s.lineHigh then s.abandonOnce else s
    let s := if s.job.abandoned && s.drainEnded && !s.job.voidFill then s.fillVoid else s
    if s.fenceReady then s.reachFence found else s
  else s)

/-- A verdict message that no rule expects is discarded and counted (R233). -/
def State.dropVerdict (s : State) : State := s.countEdge 0 0x08

/-- VERDICT_UP at the vote counter of E0 (R231 to R233). -/
def State.takeVerdictUp (s : State) (src : BitVec 15) (context : DWord) (found : List (SillId × Nat)) : State :=
  if s.stale context then s.countEdge 0 0x02
  else
    match s.coll.tree with
    | none => s.dropVerdict
    | some t =>
      if s.job.current.isSome && t.children.contains src && !(s.job.children.any fun x => x.1 = src) then
        ({ s with job := { s.job with children := s.job.children ++ [(src, Bits.ofCode (ctxBits context))] } } : State).verdictFlow
          found
      else s.dropVerdict

/-- VERDICT_DOWN at the vote counter of E0 (R231 to R233). -/
def State.takeVerdictDown (s : State) (src : BitVec 15) (context : DWord) (found : List (SillId × Nat)) : State :=
  if s.stale context then s.countEdge 0 0x02
  else
    match s.coll.tree with
    | none => s.dropVerdict
    | some t =>
      if s.job.phase = .fence && !t.root && decide (t.parent = src) then
        s.takeVerdict t (Bits.ofCode (ctxBits context)) found
      else s.dropVerdict

/-- VERDICT_UP (R232, R233). -/
def execVerdictUp (src : BitVec 15) (context : DWord) (found : List (SillId × Nat)) (s : State) : Out :=
  .next (s.takeVerdictUp src context found)

/-- VERDICT_DOWN (R232, R233). -/
def execVerdictDown (src : BitVec 15) (context : DWord) (found : List (SillId × Nat)) (s : State) : Out :=
  .next (s.takeVerdictDown src context found)

/-! ## The end of a step (R182, R183, R300) -/

/-- The status of the step's completion (R183), but for a verdict timeout. -/
def State.stepStatus (s : State) (v : Bits) : Status :=
  if !v.any && decide (s.job.committed.length < 12) then .memoryUncorrectable
  else if v.skew && s.job.contributed.skew then .stepSkew
  else if v.skew || (v.nonfinite && !v.replay) then .stepWithheld
  else if v.replay then .stepReplayed
  else if 0 < s.job.flagged then .doneFlagged
  else .done

/-- The step's completion record (R183, R275). -/
def State.completeStep (s : State) (r : StepRec) (st : Status) (v : Bits) : State :=
  s.finishDesc r.ring st fun c =>
    { c with attempt := r.attempt, verdict := v.code, detail := BitVec.ofNat 32 s.job.flagged, step := r.s }

/-- A gather of the step waits or runs (R182). -/
def State.gathersOut (s : State) : Bool :=
  let isGather : EngineCmd → Bool := fun c => match c with
    | .gather _ => true
    | _ => false
  allBays.any fun b =>
    let q := (s.bay b).queue .link
    (q.waiting.any fun c => isGather c.cmd) || (match q.running with
      | some r => isGather r.cmd
      | none => false)

/-- The skew of this module's shards goes to its event ring after a verdict with SKEW; a module without skewed shards reports s with
a free STEP and TAG (R177, R287; log entry 140). -/
def State.reportSkew (s : State) (r : StepRec) : State :=
  let post (s : State) (step tag : Nat) : State :=
    s.postEvent 0x04 .done 0 (BitVec.ofNat 384 (r.s.toNat + 2 ^ 64 * step + 2 ^ 128 * tag))
  if s.job.skewed.isEmpty then
    let (step, s) := s.takeFree
    let (tag, s) := s.takeFree
    post s step.toNat (tag.toNat % 2 ^ 32)
  else s.job.skewed.foldl (fun s x =>
    let tag := match (s.sill x.1).active.shards[x.2.1]? with
      | some h => h.tag.toNat
      | none => 0
    post s x.2.2.toNat tag) s

/-- What a verdict asks of the module beside its completion: SKEW is reported and holds it, and so does the third REPLAY of a
step, which takes a module that contributed REPLAY to FAULTED (R183, R300). -/
def State.judge (s : State) (r : StepRec) (v : Bits) : State :=
  let limit := v.replay && !v.skew && decide (3 ≤ s.job.replays)
  if v.skew then
    let s := s.reportSkew r
    { s with job := { s.job with holdDue := some .stepSkew } }
  else if limit && s.job.contributed.replay then s.goFaulted 0x1805 idModule .stepReplayed r.s
  else if limit then
    let s := s.report { cls := .notice, code := 0x1805, subject := idModule, reporter := idKp s.fw.activeB 2, detail := r.s }
    { s with job := { s.job with holdDue := some .stepReplayed } }
  else s

/-- The fence ends: the module holds for a cause, or goes on (R274, R279, R288). -/
def State.endFence (s : State) (cause : Option Status) : State :=
  match cause with
  | some st => if s.host.orphanDue then s.orphanNow else s.quiesceNow st
  | none => if s.kp.state = .quiesced then (s.settleIdle.completeQuiesces).settleSaves else s

/-- The rest of a fence after the step's completion and its saves: failed bents, items, a pending load, the shape, FUNCTION
requests, and what holds the module (R93, R249, R254, R353, R359). Items do not run at a fence that a save's stop has held (R353,
R363). -/
def State.restOfFence (s : State) (v : Bits) (saveRan : Bool) : State :=
  let old := s.kp.shape
  let s := s.retireBents
  let s := if s.kp.state = .faulted || saveRan then s else s.fenceItems
  if s.kp.state = .faulted then s
  else
    let pending := s.loader.pending.isSome
    let (s, unbound) := if v.any then (s, none) else s.trySwitch
    let (s, failed) := if pending && unbound.isSome then (s, none) else s.rebind
    let s := (s.shapeEvent old s.loader.bound).allFuncs true
    let cause := ((s.job.holdDue <|> unbound) <|> failed) <|> (if s.job.quiesceDue then some .done else none)
    ({ s with job := { s.job with holdDue := none } } : State).endFence cause

/-- The fence goes on once its saves have run (R363, R372). -/
def State.afterSaves (s : State) : State :=
  let s := s.settleSaves
  if s.savesHold then s
  else
    match s.job.fenceLeft with
    | some v => (({ s with job := { s.job with fenceLeft := none } } : State).restOfFence v true).progress
    | none => s.progress

/-- The step is over (R182, R183, R300). -/
def State.endStep (s : State) (r : StepRec) (v : Bits) : State :=
  let s := s.completeStep r (s.stepStatus v) v
  let done := !v.any && decide (s.job.committed.length = 12)
  let s : State := { s with job := { s.job with
    current := none, phase := .none, expected := some (if done then r.s + 1 else r.s) } }
  let s := s.judge r v
  if s.kp.state = .faulted then s
  else
    let s := s.settleSaves
    if s.savesHold then { s with job := { s.job with fenceLeft := some v } }
    else (s.restOfFence v false).progress

/-- STEP_END (R182, R183, R184). -/
def execStepEnd (s : State) : Out :=
  .next (match s.job.current, s.job.verdict with
    | some r, some v =>
      if s.job.phase = .settled && (s.kp.state = .faulted || !s.gathersOut) then s.endStep r v else s
    | _, _ => s)

/-- VERDICT_TIMEOUT (R181): PEER_LOST, and the module holds in QUIESCED, or in ORPHANED where that is due. -/
def execVerdictTimeout (s : State) : Out :=
  .next (match s.job.current with
    | some r =>
      if s.kp.state = .running && s.job.phase = .fence then
        let s := s.report { cls := .work, code := 0x8801, subject := idModule, reporter := idEdge 0 1, status := .peerLost,
                            detail := r.s }
        let s := s.completeStep r .peerLost {}
        let s : State := { s with job := { s.job with current := none, phase := .none, verdict := none } }
        (s.endGathers .stepWithheld).landHeld.endFence (some .peerLost)
      else s
    | none => s)

/-! ## Ends of stops, drains and items (R353, R354, R367, R372) -/

/-- CHECKPOINT_STOP_END (R367, R368). -/
def execCheckpointStopEnd (s : State) : Out :=
  .next (match s.job.stop with
    | some c => (s.endStop c).afterSaves
    | none => s)

/-- SNAPSHOT_DRAIN_END (R367). -/
def execSnapshotDrainEnd (s : State) : Out :=
  .next (match s.job.drain with
    | some c =>
      match ckptFields c.work with
      | some f => (s.endDrain c f).afterSaves
      | none => s
    | none => s)

/-- SELFTEST_ITEM_END (R351, R353, R354): the item has run, its SELFTEST completes, and the next one runs. -/
def execSelftestItemEnd (s : State) : Out :=
  .next (match s.job.running with
    | some i =>
      let s : State := { s with job := { s.job with running := none } }
      let s := if i.code = itemMarch then s.destroyLofts else s
      let s := match i.tag with
        | some t => s.respond t .done
        | none => s
      let s := if s.isIdleKind || s.job.claimed then s.idleItems else s
      s.progress
    | none => s)

end Sys2Proof.Machine
end

