-- ==== Sys2Proof/Machine/Cores.lean ====
section
/-! DEFINITION. The cores of the active kingpost restarting (R289 to R295): what stops, what ends with FIRMWARE_RESTARTED, the
limit of four restarts in 60 s, and the commands of the three watchdogs and of a trap. -/

namespace Sys2Proof.Machine

/-- The core is one that is not restarted again (R295). -/
def State.coreFailed (s : State) (c : CoreKind) : Bool := decide (4 ≤ s.fw.restarts[coreNo c].length)

/-- The core runs. -/
def State.coreRuns (s : State) (c : CoreKind) : Bool := !s.fw.restarting[coreNo c] && !s.fw.dead

/-- Every SPDM session ends (R290, R381). -/
def State.endSessions (s : State) : State :=
  { s with sec := { s.sec with doe := { s.sec.doe with sessions := [] }, mctp := { s.sec.mctp with sessions := [] } } }

/-- The other slot holds nothing. -/
def Cfg.emptyOther (c : Cfg) : Cfg :=
  { c with slots := c.slots.set c.otherSlot ⟨.empty, 0, 0, 0, 0⟩, converted := none }

/-- A staging in progress ends with a status; the other slot is EMPTY (R292, R384). -/
def State.cutStaging (s : State) (st : Status) : State :=
  match s.cfg.staging with
  | some (tag, _, _) => ({ s with cfg := { s.cfg.emptyOther with staging := none } } : State).respond tag st
  | none => s

/-- A checkpoint save in progress ends with FIRMWARE_RESTARTED (R292). -/
def State.cutSave (s : State) : State :=
  let s := match s.job.drain with
    | some c => ({ s with job := { s.job with drain := none } }).finishDesc c.ring .firmwareRestarted id
    | none => s
  match s.job.stop with
  | some c =>
    match c.work with
    | .save _ _ => ({ s with job := { s.job with stop := none } }).finishDesc c.ring .firmwareRestarted id
    | _ => s
  | none => s

/-- What a core was doing when it failed ends as R292 gives. -/
def State.cutWork (s : State) (c : CoreKind) : State :=
  match c with
  | .security => (s.endSessions).cutStaging .firmwareRestarted
  | .power => s
  | .scheduler => ((s.startedRings isCopy).foldl (fun s n => s.cutCopy n .firmwareRestarted) s).cutSave

/-- The running image awaits confirmation and the previous one is kept (R382). -/
def Cfg.inTrial (c : Cfg) : Bool := c.active.state = .trial && c.other.state = .fallback

/-- A core starts again: it is paused until it returns; after four restarts in 60 s it is not restarted again, and the module goes
to FAULTED; where the failed image is in trial, the next BOOT falls back (R290, R295, R390). -/
def State.pauseCore (s : State) (c : CoreKind) : State :=
  let i := coreNo c
  let now := s.clk.aonMicros
  let recent := (s.fw.restarts[i].filter fun t => decide (now < t + restartSpan)) ++ [now]
  let s : State := { s with fw := { s.fw with
    restarting := s.fw.restarting.set i true, restarts := s.fw.restarts.set i recent } }
  let s := s.report { cls := .notice, code := 0x1801, subject := idKp s.fw.activeB i.val, reporter := idKp s.fw.activeB 7,
                      status := .firmwareRestarted, detail := BitVec.ofNat 64 (coreCode c).toNat }
  if 4 ≤ recent.length then
    ({ s with
        fw := { s.fw with failedCore := some c }
        cfg := { s.cfg with fallbackDue := s.cfg.fallbackDue || s.cfg.inTrial } } : State).goFaulted 0x1802 (idKp s.fw.activeB i.val) .firmwareRestarted
      (BitVec.ofNat 64 (coreCode c).toNat)
  else s

/-- The open records that a scheduler core's restart leaves as they are written: later reports open new ones (R361). -/
def State.dropOpens (s : State) (c : CoreKind) : State :=
  if c = .scheduler then { s with scribe := { s.scribe with opens := [] } } else s

/-- A core restarts after a watchdog or a trap; one that is already down, or has failed for good, stays so (R290, R292, R295). -/
def State.restartCore (s : State) (c : CoreKind) : State :=
  if s.coreRuns c && !s.coreFailed c then ((s.dropOpens c).pauseCore c).cutWork c else s

/-- SECURITY_WATCHDOG (R301). -/
def execSecurityWatchdog (s : State) : Out := .next (s.restartCore .security)

/-- POWER_WATCHDOG (R291, R301). -/
def execPowerWatchdog (s : State) : Out := .next (s.restartCore .power)

/-- SCHEDULER_WATCHDOG (R301). -/
def execSchedulerWatchdog (s : State) : Out := .next (s.restartCore .scheduler)

/-- KINGPOST_CORE_TRAP (R290). -/
def execKingpostCoreTrap (core : CoreKind) (s : State) : Out := .next (s.restartCore core)

end Sys2Proof.Machine
end

