-- ==== Sys2Proof/Machine/Tenons.lean ====
section
/-! DEFINITION. TENON_RECEIVE: a tenon that has arrived whole is dropped, delivered to the link engine by its OPCODE, or sent on (R195,
R197, R200, R220, R221). -/

namespace Sys2Proof.Machine

/-- The edge die of a link (R15). -/
def linkEdge (k : LinkId) : EdgeId := ⟨k.val / 4, by omega⟩

/-- A tenon at its destination, by OPCODE. It leaves its buffer as the link engine takes it: a gather chunk may wait there for the
verdict, and a vote for a slot (R18, R198, R226). Any other OPCODE is discarded and counted (R220). -/
def State.deliverTenon (s : State) (k : LinkId) (t : Tenon) : State :=
  let no := ctxColl t.context
  if t.opcode = 0x11 then s.takeGatherData ⟨t, some k⟩
  else if t.opcode = 0x20 then s.countVote ⟨t, some k⟩
  else
  let s := s.returnCredit k t
  match t.opcode.toNat with
  | 0x01 => s.takeSendData t.context t.payload
  | 0x10 => s.takeReduceData t.srcId t.context t.payload
  | 0x21 => s.takeVoteResult t.srcId t.context t.payload
  | 0x30 => s.ifFresh t.context fun s => s.takeCount t.srcId no t.payload
  | 0x31 => s.ifFresh t.context fun s => s.takeGrant t.srcId no t.payload
  | 0x32 => s.ifFresh t.context fun s => s.takeRows t.srcId no t.payload
  | 0x33 => s.ifFresh t.context fun s => s.takeCombineRows t.srcId no t.payload
  | 0x40 => s.takeVerdictUp t.srcId t.context []
  | 0x41 => s.takeVerdictDown t.srcId t.context []
  | _ => s.countEdge (linkEdge k) 0x03

/-- TENON_RECEIVE (R195, R197, R200, R220). -/
def execTenonReceive (link : LinkId) (t : ArrivedTenon) (s : State) : Out :=
  if (s.link link).state = .up then
    let s := s.noteLanes link t.lanes
    if arrivedGood t && t.seq = (s.link link).rxSeq then
      let s := s.acceptTenon link t.tenon
      if t.tenon.dstId = s.moduleId then .next (s.deliverTenon link t.tenon)
      else .next (s.forward link t.tenon)
    else .next (s.dropTenon link t)
  else .next s

end Sys2Proof.Machine
end

