-- ==== Sys2Proof/Machine/ReqHost.lean ====
section
/-! DEFINITION. What the management requests do that belong to the driver, the job and the module's tables (R159, R196, R202, R209,
R231, R251, R281, R282, R285, R286, R288, R330, R349, R353): one function for each, which also answers. -/

namespace Sys2Proof.Machine

/-! ## Shared checks (R285, R286) -/

/-- A request that is answered without any effect. -/
def State.refuseReq (s : State) (h : ReqHead) (st : Status) : State := s.respond h.tag st

/-- A request of the tables that are written in IDLE or QUIESCED. -/
def State.tableState (s : State) : Bool := s.kp.state = .idle || s.kp.state = .quiesced

/-- The log's requests are allowed in every attached state and in FAULTED (R349). -/
def State.logState (s : State) : Bool := s.attachedNow || s.kp.state = .faulted

/-- Bytes written to scratch, their number in the response (R286). -/
def State.answerScratch (s : State) (h : ReqHead) (offset : Word) (bytes : List Byte) : State :=
  if scratchGood offset.toNat bytes.length then
    (s.writeScratch offset.toNat bytes).respond h.tag .done (BitVec.ofNat 384 bytes.length)
  else s.respond h.tag .badDescriptor

/-- HEARTBEAT of ATTACH and ADOPT: 1 to 3,600 s, 0 meaning 30 (R278, R286). -/
def heartbeatSeconds (w : Word) : Option Nat := if w = 0 then some 30 else if w.toNat ≤ 3600 then some w.toNat else none

/-! ## ATTACH, DETACH, ADOPT, RESET (R278 to R284) -/

/-- A driver is there: its feature word and heartbeat; the function masters the bus with MSI-X on (R265, R283, R284; log
entry 28). -/
def State.meetDriver (s : State) (features : BitVec 256) (timeout : Nat) : State :=
  ({ s with
    mgmt := { s.mgmt with accepted := s.mgmt.offer &&& features }
    host := { s.host with
      attached := true, driverLost := false, lossCause := 0, orphanDue := false, heartbeatTimeout := timeout
      heartbeatAt := s.clk.aonMicros, busMaster := true, msixEnable := true } } : State).sendPending

/-- ATTACH (R285). -/
def State.serveAttach (s : State) (h : ReqHead) (features : BitVec 256) (heartbeat : Word) : State :=
  let allowed := s.kp.state = .idle || s.kp.state = .armed || s.kp.state = .quiesced || s.kp.state = .faulted
  if !allowed || !s.kp.peg || s.attachedNow then s.respond h.tag .disabled
  else
    match heartbeatSeconds heartbeat with
    | none => s.respond h.tag .badDescriptor
    | some t => ((s.meetDriver features t).respond h.tag .done).progress

/-- DETACH (R279, R285). -/
def State.serveDetach (s : State) (h : ReqHead) : State :=
  if s.attachedNow then (s.loseDriver 1).respond h.tag .done else s.respond h.tag .disabled

/-- The adopted values of the HOST registers, those of each ring from its 32 bytes of RING_TABLE (R264, R281, R286, R404). -/
def State.adoptRegs (s : State) (f : AdoptFields) : State :=
  { s with host := { s.host with
      dbLo := f.doorbell.extractLsb' 0 32 &&& ~~~0x3F, dbHi := f.doorbell.extractLsb' 32 32, ctrl := f.hostCtrl &&& 0x3F0F
      rings := Vector.ofFn fun n : Fin 16 =>
        let entry := s.readScratch (f.ringTable.toNat + 32 * n.val) 32
        let word (i : Nat) : Word := BitVec.ofNat 32 (fieldAt entry (4 * i) 4)
        { s.host.rings[n] with
          lo := word 0 &&& ~~~0xFFF, hi := word 1, cplLo := word 2 &&& ~~~0xFFF, cplHi := word 3, ctrl := word 4 &&& 0xFFFF3F3F } } }

/-- The descriptors of a ring that never started are answered with ORPHAN_ADOPTED; the last such record tells what overflowed
the journal (R281). -/
def State.adoptRing (s : State) (n : RingIx) : State :=
  let over' := (s.ring n).overflowed
  let total := (s.ring n).held.length
  let s := (List.range total).foldl (fun s i => s.finishDesc n .orphanAdopted fun c =>
    if i + 1 = total then { c with detail := BitVec.ofNat 32 over' } else c) s
  s.modRing n fun r => { r with overflowed := 0 }

/-- The CONSUMED counts of all rings, 64 bytes (R281). -/
def State.consumedTable (s : State) : List Byte := allRings.flatMap fun n => leBytes 4 (s.ring n).consumed.toNat

/-- ADOPT (R281). -/
def State.serveAdopt (s : State) (h : ReqHead) (f : AdoptFields) : State :=
  if s.kp.state ≠ .orphaned then s.respond h.tag .disabled
  else if !s.hasFeature 8 then s.respond h.tag .featureAbsent
  else
    match heartbeatSeconds f.heartbeat with
    | none => s.respond h.tag .badDescriptor
    | some t =>
      if !scratchGood f.resultOffset.toNat 64 || !scratchGood f.ringTable.toNat 512 then s.respond h.tag .badDescriptor
      else
        let journal := s.mgmt.journal
        let s := (s.meetDriver f.features t).adoptRegs f
        let s : State := { s with
          mgmt := { s.mgmt with journal := [] }, host := { s.host with adopted := true } }
        let s := journal.foldl (fun s c => s.writeCompletion c) s
        let s := allRings.foldl (fun s n => s.adoptRing n) s
        let s := s.report { cls := .notice, code := 0x2802, subject := idHost 15, reporter := idKp s.fw.activeB 2,
                            detail := BitVec.ofNat 64 journal.length }
        let s := ((s.hold .quiesced .done).settleSaves).writeScratch f.resultOffset.toNat s.consumedTable
        (s.respond h.tag .done 64).progress

/-- RESET (R282, R285): the response is written first. -/
def State.serveReset (s : State) (h : ReqHead) : State := (s.respond h.tag .done).moduleReset false s.pkg.i3cAddr

/-! ## LOAD (R251 to R256) -/

/-- States in which the loader takes a bundle (R251). -/
def State.loadState (s : State) : Bool :=
  s.kp.peg && (s.kp.state = .idle || s.kp.state = .armed || s.kp.state = .running || s.kp.state = .quiesced ||
    s.kp.state = .orphaned)

/-- LOAD (R251, R252, R254). -/
def State.serveLoad (s : State) (h : ReqHead) (addr length : DWord) : State :=
  if !s.loadState then s.respond h.tag .disabled
  else if length = 0 || decide (addr.toNat + length.toNat > 2 ^ 40) || !s.inMemory addr.toNat length.toNat then
    s.respond h.tag .badDescriptor
  else
    let (image, s, _) := s.readThrough addr.toNat length.toNat
    match s.checkBundle image addr.toNat with
    | .error f => ((if f.status = .verifyFailed then s.reportLoad f h.tag else s).respond h.tag f.status f.data)
    | .ok b => s.takeBundle b (fieldAt image 12 4) (secEntries image) h.tag

/-! ## ARM and DISARM (R285, R288) -/

/-- A bundle is loaded for the present mode, and a verdict-tree entry stands (R288, R377). -/
def State.canArm (s : State) : Bool :=
  s.coll.tree.isSome && (match s.loader.inEffect with
    | some b => decide (b.mode = s.cfg.mode)
    | none => false)

/-- ARM (R288). -/
def State.serveArm (s : State) (h : ReqHead) (timeout : Word) (jobId : DWord) : State :=
  if s.kp.state ≠ .idle || !s.canArm then s.respond h.tag .disabled
  else if timeout.toNat > 3600 then s.respond h.tag .badDescriptor
  else
    let s : State := { s with job := { s.job with
      id := jobId, verdictTimeout := if timeout = 0 then 10 else timeout.toNat, previous := none, ran := false
      replays := 0, replayOf := none, expected := none, verdict := none } }
    (((s.hold .armed .done).respond h.tag .done)).progress

/-- DISARM (R285). -/
def State.serveDisarm (s : State) (h : ReqHead) : State :=
  if s.kp.state = .armed || s.kp.state = .quiesced then ((s.hold .idle .done).respond h.tag .done).progress
  else s.respond h.tag .disabled

/-! ## FUNCTION (R89 to R93) -/

/-- The function of a request's byte 10 (R286). -/
def funcOf (b : Byte) : Option FuncKind :=
  match b.toNat with
  | 1 => some .bay
  | 2 => some .vector
  | 3 => some .fetch
  | 4 => some .store
  | _ => none

/-- FUNCTION: the request waits its turn at its bay (R93). -/
def State.serveFunction (s : State) (h : ReqHead) (die bay func : Byte) (a : FuncAction) : State :=
  match funcOf func with
  | none => s.respond h.tag .badDescriptor
  | some k =>
    if hd : die.toNat < 16 then
      if hb : bay.toNat < 4 then
        let b : BayId := ⟨⟨die.toNat, hd⟩, ⟨bay.toNat, hb⟩⟩
        ((s.modBay b fun y => { y with funcWaiting := y.funcWaiting ++ [(k, a, h.tag)] }).nextFuncs b false).settleFuncs b
      else s.respond h.tag .badDescriptor
    else s.respond h.tag .badDescriptor

/-! ## Tables (R159, R196, R202, R209, R231) -/

/-- Bytes put into the route table from an entry on; bits [7:6] are reserved and read 0 (R196). -/
def writeRoutes (t : Sparse Byte) (first : Nat) (bytes : List Byte) : Sparse Byte :=
  bytes.zipIdx.foldl (fun t x => Sparse.set (0 : Byte) t (first + x.2) (x.1 &&& 0x3F)) t

/-- ROUTE_WRITE (R196, R286). -/
def State.serveRouteWrite (s : State) (h : ReqHead) (first count : BitVec 16) (scratch : Word) : State :=
  if !s.tableState then s.respond h.tag .updateRefused
  else if count = 0 ∨ first.toNat + count.toNat > 32768 ∨ scratchGood scratch.toNat count.toNat = false then
    s.respond h.tag .badDescriptor
  else
    ({ s with coll := { s.coll with
        routes := writeRoutes s.coll.routes first.toNat (s.readScratch scratch.toNat count.toNat) } } : State).respond h.tag .done

/-- VERDICT_TREE (R231, R286). -/
def State.serveVerdictTree (s : State) (h : ReqHead) (parent : BitVec 15) (root : Bool) (childCount : Byte)
    (children : List (BitVec 16)) : State :=
  let n := childCount.toNat
  if !s.tableState then s.respond h.tag .disabled
  else if n > 8 ∨ (children.drop n).any (fun c => c ≠ 0) ∨ children.any (fun c => c.getLsbD 15) then
    s.respond h.tag .badDescriptor
  else
    let l := (List.range n).map fun i => (children.getD i 0).extractLsb' 0 15
    ({ s with coll := { s.coll with tree := some ⟨parent, root, l⟩ } } : State).respond h.tag .done

/-- The retired-page list, 8 bytes an entry, stacks in ascending order (R159, R286). -/
def State.retiredBytes (s : State) : List Byte :=
  allSills.flatMap fun m => (s.sill m).retired.flatMap fun e => leBytes 8 (retiredEntry m e)

/-- RETIRED_PAGES (R159). -/
def State.serveRetiredPages (s : State) (h : ReqHead) (scratch : Word) : State :=
  if s.attachedNow then s.answerScratch h scratch s.retiredBytes else s.respond h.tag .disabled

/-- LANE_CLEAR (R209, R286). -/
def State.serveLaneClear (s : State) (h : ReqHead) (link lane : Byte) : State :=
  if !s.tableState then s.respond h.tag .disabled
  else
    if hk : link.toNat < 24 then
      if lane.toNat ≤ 8 ∨ lane = 0xFF then
        let keep : BitVec 9 := if lane = 0xFF then 0 else ~~~BitVec.ofNat 9 (2 ^ lane.toNat)
        ((s.modLink ⟨link.toNat, hk⟩ fun l => { l with laneRecords := l.laneRecords &&& keep }).evalCauses).respond h.tag .done
      else s.respond h.tag .badDescriptor
    else s.respond h.tag .badDescriptor

/-- LINK_RETRAIN (R202): a link that is neither DOWN nor REFUSED goes on as it is. -/
def State.serveLinkRetrain (s : State) (h : ReqHead) (link : Byte) : State :=
  if !s.attachedNow then s.respond h.tag .disabled
  else
    if hk : link.toNat < 24 then
      let k : LinkId := ⟨link.toNat, hk⟩
      let s := if (s.link k).state = .down ∨ (s.link k).state = .refused then s.retrain k else s
      s.respond h.tag .done
    else s.respond h.tag .badDescriptor

/-! ## Draw plan (R329, R330) -/

/-- PLAN_WRITE (R330). -/
def State.servePlanWrite (s : State) (h : ReqHead) (scratch length : Word) : State :=
  if !s.attachedNow then s.respond h.tag .disabled
  else if !s.hasFeature 4 then s.respond h.tag .featureAbsent
  else if !s.clk.valid then s.respond h.tag .disabled
  else if !scratchGood scratch.toNat length.toNat then s.respond h.tag .badDescriptor
  else
    match parsePlan (s.readScratch scratch.toNat length.toNat) with
    | none => s.respond h.tag .badDescriptor
    | some (first, entries) =>
      if first ≤ s.minuteNow then s.respond h.tag .badDescriptor
      else
        ({ s with pwr := { s.pwr with plan := replacePlan s.pwr.plan first entries } } : State).respond h.tag .done

/-- PLAN_READ (R330). -/
def State.servePlanRead (s : State) (h : ReqHead) (scratch : Word) : State :=
  if s.attachedNow then s.answerScratch h scratch s.planBytes else s.respond h.tag .disabled

/-! ## The scribe log (R347, R349) -/

/-- A record put among others by SEQ; one of the same SEQ is there already. -/
def insertBySeq : List Record → Record → List Record
  | [], r => [r]
  | x :: rest, r =>
    if r.seqNo < x.seqNo then r :: x :: rest else if r.seqNo = x.seqNo then x :: rest else x :: insertBySeq rest r

/-- Every record that some slot holds, in SEQ order. -/
def Scribe.bySeq (c : Scribe) : List Record := (c.slots.map Prod.snd).foldl insertBySeq []

/-- SCRIBE_READ (R349). -/
def State.serveScribeRead (s : State) (h : ReqHead) (first : DWord) (count scratch : Word) : State :=
  if !s.logState then s.respond h.tag .disabled
  else if count = 0 ∨ count.toNat > 16384 ∨ scratchGood scratch.toNat (64 * count.toNat) = false then
    s.respond h.tag .badDescriptor
  else
    let all := s.scribe.bySeq
    let l := (all.filter fun r => decide (first.toNat ≤ r.seqNo)).take count.toNat
    let lowest := (all.map Record.seqNo).headD 0
    (s.writeScratch scratch.toNat (l.flatMap recordBytes)).respond h.tag .done (BitVec.ofNat 384 (l.length + 2 ^ 64 * lowest))

/-- SCRIBE_CLEAR_PINNED (R347, R349). -/
def State.serveScribeClear (s : State) (h : ReqHead) : State :=
  if !s.logState then s.respond h.tag .disabled
  else
    ({ s with scribe := { s.scribe with
        pinned := 0
        slots := s.scribe.slots.filter fun x => decide (65 ≤ x.1)
        mirror := s.scribe.mirror ++ ((s.scribe.slots.map Prod.fst).filter fun k => decide (k < 65))
        opens := s.scribe.opens.map fun o => { o with pinSlot := none, fresh := false } } } : State).respond h.tag .done

/-! ## Self-tests and parts (R349, R351, R353) -/

/-- SELFTEST (R351, R353): it is answered when its item has run. -/
def State.serveSelftest (s : State) (h : ReqHead) (item : Byte) (mask : Word) : State :=
  if !s.logState then s.respond h.tag .disabled
  else if item.toNat < itemScan ∨ item.toNat > itemMarch then s.respond h.tag .badDescriptor
  else if item.toNat = itemMarch ∧ s.kp.state ≠ .idle then s.respond h.tag .disabled
  else s.askItem ⟨item.toNat, mask, some h.tag, s.clk.aonMicros⟩

/-- What the parts record holds: failed and retired bents, withdrawn buffers (R359, R360). -/
def State.partsFacts (s : State) : List (Nat × Nat × List Nat) :=
  s.dies.toList.map fun r => (r.failed.toNat, r.retired.toNat, r.withdrawn)

/-- PARTS_READ (R349); the record's layout is not given (log entry 11). -/
def State.servePartsRead (s : State) (h : ReqHead) (scratch : Word) : State :=
  if s.logState then s.answerScratch h scratch (Config.partsBytes s.partsFacts) else s.respond h.tag .disabled

end Sys2Proof.Machine
end

