-- ==== Sys2Proof/Machine/ReqFw.lean ====
section
/-! DEFINITION. Configuration, firmware update and security (R373 to R397): one function for each management request, which also
answers, and the commands of staging, activation, switching and the debug nonce. -/

namespace Sys2Proof.Machine

/-- The reasons of UPDATE_REFUSED (R385). -/
inductive RefuseReason where
  | step | reserve | ownerLock | thermal | signature | digest | compatibility | busy | feature | handoff | state
deriving DecidableEq, Repr

/-- Reason codes (R385). -/
def RefuseReason.code : RefuseReason → Nat
  | .step => 0x01
  | .reserve => 0x02
  | .ownerLock => 0x03
  | .thermal => 0x04
  | .signature => 0x05
  | .digest => 0x06
  | .compatibility => 0x07
  | .busy => 0x08
  | .feature => 0x09
  | .handoff => 0x0A
  | .state => 0x0B

/-- UPDATE_REFUSED with its reason in byte 16 (R385). -/
def State.refuseUpdate (s : State) (tag : Word) (r : RefuseReason) : State :=
  s.respond tag .updateRefused (BitVec.ofNat 384 r.code)

/-- A NOTICE record of the firmware or configuration (R342, R416). -/
def State.noteFirmware (s : State) (code : BitVec 16) (core : Nat) (detail : Nat) : State :=
  s.report { cls := .notice, code := code, subject := idModule, reporter := idKp s.fw.activeB core,
             detail := BitVec.ofNat 64 detail }

/-- The record of an image staged (0), activated (1), confirmed (2) or reverted (3), with its VERSION (R416). -/
def State.noteImage (s : State) (event : Nat) (version : Word) : State :=
  s.noteFirmware 0xB803 0 (event + 2 ^ 32 * version.toNat)

/-! ## Configuration records (R373, R374, R379) -/

/-- KINDs of overlays (R373). -/
def overlayKind (k : Byte) : Bool := (decide (1 ≤ k.toNat) && decide (k.toNat ≤ 3)) || (decide (12 ≤ k.toNat) && decide (k.toNat ≤ 15))

/-- A key that a record of a kind may hold (R374). -/
def keyGood (base : Bool) (key : Word) : Bool :=
  if key.getLsbD 31 then key = keyMode || key = keyHusk || key = keyAutoScan || key = keyRetire
  else base && decide (key.toNat < 2 ^ 25) && keyOffsetGood key.toNat

/-- Keys strictly ascending. -/
def ascendingKeys : List (Word × Word) → Bool
  | a :: b :: rest => decide (a.1.toNat < b.1.toNat) && ascendingKeys (b :: rest)
  | _ => true

/-- A configuration record from its bytes: KIND and entries; none where it is refused (R373, R374). -/
def parseConfig (format : BitVec 16) (bytes : List Byte) : Option (Byte × List (Word × Word)) :=
  let f (k n : Nat) : Nat := fieldAt bytes k n
  let kind : Byte := BitVec.ofNat 8 (f 6 1)
  let count := f 8 2
  let base := decide (kind = 0)
  let entries := (List.range count).map fun i => (BitVec.ofNat 32 (f (32 + 8 * i) 4), BitVec.ofNat 32 (f (36 + 8 * i) 4))
  let shape := bytes.length = 32 + 8 * count ∧ f 0 4 = 0x43464752 ∧ f 4 2 = format.toNat ∧ f 7 1 = 0 ∧ f 10 18 = 0 ∧
    count ≤ (if base then 2044 else 508)
  let crc := crc32c (bytes.take 28 ++ List.replicate 4 0 ++ bytes.drop 32)
  if shape ∧ (base ∨ overlayKind kind) ∧ f 28 4 = crc.toNat ∧ ascendingKeys entries ∧ entries.all (fun x => keyGood base x.1) then
    some (kind, entries)
  else none

/-- A configuration record as bytes (R373). -/
def configBytes (format : BitVec 16) (kind : Byte) (entries : List (Word × Word)) : List Byte :=
  let head := leBytes 4 0x43464752 ++ leBytes 2 format.toNat ++ [kind, 0] ++ leBytes 2 entries.length ++ List.replicate 18 0
  let body := entries.flatMap fun x => leBytes 4 x.1.toNat ++ leBytes 4 x.2.toNat
  head ++ leBytes 4 (crc32c (head ++ List.replicate 4 0 ++ body)).toNat ++ body

/-- Entries of one settings FORMAT in another (R384). -/
def convertTo (from' to' : BitVec 16) (entries : List (Word × Word)) : List (Word × Word) :=
  if from' = to' then entries else Config.convertEntries from' to' entries

/-- A record stored: the base record, or an overlay in place of the shipped one; while a slot is staged or in trial also in the
other slot's FORMAT (R379, R389). -/
def Cfg.store (c : Cfg) (kind : Byte) (entries : List (Word × Word)) : Cfg :=
  let put (base : List (Word × Word)) (written : List (Byte × List (Word × Word))) (e : List (Word × Word)) :
      List (Word × Word) × List (Byte × List (Word × Word)) :=
    if kind = 0 then (e, written) else (base, (written.filter fun x => x.1 ≠ kind) ++ [(kind, e)])
  let here := put c.base c.written entries
  { c with
    base := here.1, written := here.2
    converted := c.converted.map fun x => put x.1 x.2 (convertTo c.active.format c.other.format entries) }

/-- A written overlay gone, so that the shipped one is in effect (R379). -/
def Cfg.restoreOverlay (c : Cfg) (kind : Byte) : Cfg :=
  { c with
    written := c.written.filter fun x => x.1 ≠ kind
    converted := c.converted.map fun x => (x.1, x.2.filter fun y => y.1 ≠ kind) }

/-- The old FORMAT can express what is written (R389). -/
def State.oldFormatHolds (s : State) (entries : List (Word × Word)) : Bool :=
  s.cfg.active.state ≠ .trial || s.cfg.active.format = s.cfg.other.format ||
    Config.oldFormatHolds s.cfg.other.format entries

/-- CONFIG_WRITE is allowed (R379). -/
def State.configState (s : State) : Bool := s.kp.state = .idle || s.kp.state = .faulted

/-- CONFIG_WRITE with WRITE (R373, R374, R379, R389). -/
def State.serveConfigWrite (s : State) (h : ReqHead) (scratch length : Word) : State :=
  if !s.configState then s.respond h.tag .disabled
  else if s.sec.owner.isSome then s.refuseUpdate h.tag .ownerLock
  else if !scratchGood scratch.toNat length.toNat then s.respond h.tag .badDescriptor
  else
    match parseConfig s.cfg.active.format (s.readScratch scratch.toNat length.toNat) with
    | none => s.respond h.tag .badDescriptor
    | some (kind, entries) =>
      if !s.oldFormatHolds entries then s.refuseUpdate h.tag .busy
      else ((({ s with cfg := s.cfg.store kind entries } : State).scanIfDue).noteFirmware (Config.unlistedCode 12) 2 kind.toNat).respond h.tag .done

/-- CONFIG_WRITE with RESTORE (R379). -/
def State.serveConfigRestore (s : State) (h : ReqHead) (kind : Byte) : State :=
  if !s.configState then s.respond h.tag .disabled
  else if s.sec.owner.isSome then s.refuseUpdate h.tag .ownerLock
  else if !overlayKind kind then s.respond h.tag .badDescriptor
  else ((({ s with cfg := s.cfg.restoreOverlay kind } : State).scanIfDue).noteFirmware (Config.unlistedCode 12) 2 kind.toNat).respond h.tag .done

/-- The keys of the operating settings in ascending order. -/
def settingKeys : List Word := [keyMode, keyHusk, keyAutoScan, keyRetire]

/-- What CONFIG_READ writes: the base record, the overlays in effect, and the merged settings as entries (R379; log entry 11). -/
def State.configImage (s : State) : List Byte :=
  let f := s.cfg.active.format
  let mode := modeCode s.cfg.mode
  let shape : Byte := BitVec.ofNat 8 s.kp.shape
  configBytes f 0 s.cfg.base ++ configBytes f mode (s.cfg.overlay mode) ++
    (if overlayKind shape then configBytes f shape (s.cfg.overlay shape) else []) ++
    settingKeys.flatMap fun k => leBytes 4 k.toNat ++ leBytes 4 (s.setting k).toNat

/-- CONFIG_READ (R379). -/
def State.serveConfigRead (s : State) (h : ReqHead) (scratch : Word) : State :=
  if s.attachedNow then s.answerScratch h scratch s.configImage else s.respond h.tag .disabled

/-! ## Modes (R377) -/

/-- The mode of a code (R377). -/
def modeOf (b : Byte) : Option OpMode :=
  match b.toNat with
  | 1 => some .train
  | 2 => some .rollout
  | 3 => some .calibrate
  | _ => none

/-- MODE_SET (R377). -/
def State.serveModeSet (s : State) (h : ReqHead) (mode : Byte) : State :=
  if s.kp.state ≠ .idle then s.respond h.tag .disabled
  else
    match modeOf mode with
    | none => s.respond h.tag .badDescriptor
    | some m =>
      if m = .rollout ∧ s.hasFeature 2 = false then s.respond h.tag .featureAbsent
      else if m = s.cfg.mode then s.respond h.tag .done
      else
        let s : State := { s with
          cfg := { s.cfg with mode := m }, loader := { s.loader with modeChanged := true } }
        ((s.noteFirmware 0xA802 2 (modeCode m).toNat).scanIfDue).respond h.tag .done

/-! ## Update packages (R383 to R385) -/

/-- The header of a package (R383). -/
structure Package' where
  delta   : Bool
  version : Word
  svn     : Nat
  source  : BitVec 384
  target  : BitVec 384
  sig     : BitVec 768
  owner   : BitVec 768
  payload : List Byte
deriving DecidableEq, Repr

/-- A package from its bytes; none where it is malformed (R383). -/
def parsePackage (b : List Byte) : Option Package' :=
  let f (k n : Nat) : Nat := fieldAt b k n
  let kind := f 6 1
  if f 0 4 = 0x46555044 ∧ f 4 2 = 1 ∧ (kind = 1 ∨ kind = 2) ∧ f 7 1 = 0 ∧ f 120 8 = 0 ∧ b.length = 320 + f 112 8 then
    some { delta := decide (kind = 1), version := BitVec.ofNat 32 (f 8 4), svn := f 12 4, source := BitVec.ofNat 384 (f 16 48),
           target := BitVec.ofNat 384 (f 64 48), sig := BitVec.ofNat 768 (f 128 96), owner := BitVec.ofNat 768 (f 224 96),
           payload := b.drop 320 }
  else none

/-- The bytes that the signatures cover: the package with both fields taken as 0 (R383). -/
def signedBytes (b : List Byte) : List Byte := b.take 128 ++ List.replicate 192 0 ++ b.drop 320

/-- The image that a package gives (R383). -/
def packageImage (p : Package') : List Byte := if p.delta then Config.applyDelta p.source p.payload else p.payload

/-- Steps 2 and 3 of R384 on a package. -/
def State.packageFault (s : State) (b : List Byte) (p : Package') : Option RefuseReason :=
  if Config.verifyUpdate (signedBytes b) p.sig = false ∨ p.svn < s.sec.svnMin then some .signature
  else if p.delta = true ∧ p.source ≠ s.cfg.active.digest then some .digest
  else none

/-- The image's SHA-384 is TARGET_DIGEST (R384). -/
def digestFault (p : Package') : Option RefuseReason :=
  if Config.sha384 (packageImage p) = p.target then none else some .digest

/-- The slot a package makes. -/
def packageSlot (p : Package') (st : SlotState) : ImageSlot :=
  ⟨st, p.target, p.version, p.svn, Config.imageFormat (packageImage p)⟩

/-- Conditions that refuse staging and scheduling alike (R385). -/
def State.updateBar (s : State) : Option RefuseReason :=
  if s.pkg.reserve then some .reserve
  else if s.sec.owner.isSome then some .ownerLock
  else if s.pkg.warned ≠ [] then some .thermal
  else none

/-- Another update is staged, scheduled or in trial (R384, R385). -/
def State.updateBusy (s : State) : Bool :=
  s.cfg.other.state = .staged || s.cfg.active.state = .trial || s.cfg.staging.isSome || s.cfg.schedule.isSome ||
    s.cfg.rolling.isSome

/-- Two images and every UP link's far side are compatible (R385, R388). -/
def State.compatible (s : State) (a b : ImageSlot) : Bool :=
  Config.imagesCompatible a.digest b.digest &&
    s.links.toList.all fun l => l.state ≠ .up || match l.lastHello with
      | some f => Config.linkAccepts b.digest f.minVersion f.maxVersion
      | none => true

/-- UPDATE_STAGE (R384): the refusals, the signature and the source are checked at once; the image is written and checked until
STAGING_COMPLETE. -/
def State.serveUpdateStage (s : State) (h : ReqHead) (addr length : DWord) : State :=
  match s.updateBar with
  | some r => s.refuseUpdate h.tag r
  | none =>
    if s.updateBusy then s.refuseUpdate h.tag .busy
    else if length = 0 || decide (addr.toNat + length.toNat > 2 ^ 40) || !s.inMemory addr.toNat length.toNat then
      s.respond h.tag .badDescriptor
    else
      let (bytes, s, _) := s.readThrough addr.toNat length.toNat
      match parsePackage bytes with
      | none => s.respond h.tag .badDescriptor
      | some p =>
        let s : State := { s with cfg := s.cfg.emptyOther }
        match s.packageFault bytes p with
        | some r => s.refuseUpdate h.tag r
        | none =>
          { s with cfg := { s.cfg with
              staging := some (h.tag, packageSlot p .staged, (digestFault p).map fun r => BitVec.ofNat 8 r.code) } }

/-- The settings in the FORMAT of a staged image (R384). -/
def Cfg.convertFor (c : Cfg) (x : ImageSlot) : Cfg :=
  let f := convertTo c.active.format x.format
  { c with
    slots := c.slots.set c.otherSlot x
    converted := some (f c.base, c.written.map fun y => (y.1, f y.2)) }

/-- STAGING_COMPLETE (R384): the image is checked, the settings are converted, and the slot is STAGED. -/
def execStagingComplete (s : State) : Out :=
  .next (match s.cfg.staging with
    | some (tag, x, fault) =>
      if s.fw.restarting[0] then s
      else
        let s : State := { s with cfg := { s.cfg with staging := none } }
        match fault with
        | some r => ({ s with cfg := s.cfg.emptyOther } : State).respond tag .updateRefused (BitVec.ofNat 384 r.toNat)
        | none =>
          if s.compatible s.cfg.active x then
            (({ s with cfg := s.cfg.convertFor x } : State).noteImage 0 x.version).respond tag .done
          else ({ s with cfg := s.cfg.emptyOther } : State).refuseUpdate tag .compatibility
    | none => s)

/-! ## ACORN (R391, R392) -/

/-- The whole package has come: it is checked and written into the slot that failed, or into slot B (R392). The answer is a status
with its response bytes. -/
def State.finishAcorn (s : State) (total : Nat) : State × Status × BitVec 384 :=
  let b := s.cfg.acorn.read 0 total
  let s : State := { s with cfg := { s.cfg with acorn := [] } }
  match parsePackage b with
  | none => (s, .badDescriptor, 0)
  | some p =>
    if p.delta then
      let (w, s) := s.takeFree
      (s, .updateRefused, BitVec.ofNat 384 (w.toNat % 256))
    else
      match s.packageFault b p <|> digestFault p with
      | some r => (s, .updateRefused, BitVec.ofNat 384 r.code)
      | none =>
        let signed := match s.sec.owner with
          | some k => Config.verifyOwner k (signedBytes b) p.owner
          | none => true
        if signed then
          let slot : Fin 2 :=
            if 2 ≤ s.cfg.bootFailures then 1 else if s.cfg.bootFailures = 1 then s.cfg.activeSlot else s.cfg.otherSlot
          let old : Fin 2 := if slot = 0 then 1 else 0
          let x := packageSlot p .trial
          let keeps := Config.readsFormat x.digest s.cfg.active.format
          let slots := s.cfg.slots.set slot x
          let c : Cfg := { s.cfg with
            slots := if slots[old].state = .empty then slots
              else slots.set old { slots[old] with state := .fallback }
            activeSlot := slot, reloadTrial := true, bootFailures := 0, converted := none
            baseLost := !keeps, base := if keeps then s.cfg.base else ({} : Cfg).base }
          ({ s with cfg := c }, .done, 0)
        else (s, .updateRefused, BitVec.ofNat 384 RefuseReason.signature.code)

/-- A chunk of a package put in its place (R391). -/
def State.takeChunk (s : State) (offset : Nat) (bytes : List Byte) : State :=
  { s with cfg := { s.cfg with acorn := s.cfg.acorn.write offset bytes } }

/-- ACORN_WRITE (R286, R391, R392). -/
def State.serveAcornWrite (s : State) (h : ReqHead) (offset : DWord) (length scratch : Word) (last : Bool) : State :=
  if length = 0 ∨ length.toNat > 2 ^ 20 ∨ scratchGood scratch.toNat length.toNat = false then s.respond h.tag .badDescriptor
  else
    let s := s.takeChunk offset.toNat (s.readScratch scratch.toNat length.toNat)
    if last then
      let (s, st, data) := s.finishAcorn (offset.toNat + length.toNat)
      s.respond h.tag st data
    else s.respond h.tag .done

/-- I3C_ACORN_WRITE (R391): a private write of 0x02, an offset and up to 256 bytes; the chunk that ends the package its header
measures is the last. -/
def execI3cAcornWrite (bytes : List Byte) (s : State) : Out :=
  if s.kp.state = .acorn ∧ bytes.take 1 = [0x02] ∧ 5 < bytes.length ∧ bytes.length ≤ 261 then
    let offset := fieldAt bytes 1 4
    let chunk := bytes.drop 5
    let s := s.takeChunk offset chunk
    let total := 320 + s.cfg.acorn.readNat 112 8
    if 320 ≤ offset + chunk.length ∧ offset + chunk.length = total then .next (s.finishAcorn total).1 else .next s
  else .next s

/-! ## Scheduling (R385, R386, R389) -/

/-- The request names a future T_ACT or a future ACT_STEP (R385). -/
def State.namesFuture (s : State) (tAct actStep : DWord) : Bool :=
  decide (s.now.toNat < tAct.toNat) ||
    (actStep ≠ 0 && match s.lastStep with
      | some x => decide (x.toNat < actStep.toNat) || (decide (x = actStep) && s.job.current.isSome)
      | none => true)

/-- Why a schedule is refused (R385). -/
def State.scheduleBar (s : State) (rolling : Bool) (tAct actStep : DWord) : Option RefuseReason :=
  if s.kp.state = .running && !s.namesFuture tAct actStep then some .step
  else
    match s.updateBar with
    | some r => some r
    | none =>
      if s.cfg.other.svn < s.sec.svnMin then some .signature
      else if !s.compatible s.cfg.active s.cfg.other then some .compatibility
      else if s.cfg.schedule.isSome || s.cfg.rolling.isSome then some .busy
      else if rolling && !s.hasFeature 6 then some .feature
      else none

/-- UPDATE_SCHEDULE (R386). -/
def State.serveUpdateSchedule (s : State) (h : ReqHead) (mode : Byte) (tAct actStep : DWord) : State :=
  if mode.toNat ≠ 1 ∧ mode.toNat ≠ 2 then s.respond h.tag .badDescriptor
  else if s.cfg.other.state ≠ .staged then s.respond h.tag .disabled
  else
    match s.scheduleBar (mode.toNat = 2) tAct actStep with
    | some r => s.refuseUpdate h.tag r
    | none =>
      ({ s with cfg := { s.cfg with schedule := some ⟨mode.toNat = 2, false, tAct, actStep, h.tag⟩ } } : State).respond
        h.tag .done

/-- A schedule that ends without its activation (R386). -/
def State.dropSchedule (s : State) (r : RefuseReason) : State :=
  match s.cfg.schedule with
  | some x => ({ s with cfg := { s.cfg with schedule := none } } : State).refuseUpdate x.tag r
  | none => s

/-- UPDATE_CONFIRM (R389, R393). -/
def State.serveUpdateConfirm (s : State) (h : ReqHead) : State :=
  if !s.attachedNow || s.cfg.active.state ≠ .trial then s.respond h.tag .disabled
  else if s.cfg.rolling.isSome then s.refuseUpdate h.tag .busy
  else
    let s := s.dropSchedule .busy
    let x := s.cfg.active
    let c := s.cfg.emptyOther
    let s : State := { s with
      cfg := { c with slots := c.slots.set c.activeSlot { x with state := .active }, reloadTrial := false, revertDue := false }
      sec := { s.sec with svnMin := max s.sec.svnMin x.svn } }
    (s.noteImage 2 x.version).respond h.tag .done

/-- UPDATE_REVERT (R389). -/
def State.serveUpdateRevert (s : State) (h : ReqHead) : State :=
  if s.cfg.rolling.isSome then s.refuseUpdate h.tag .busy
  else if s.cfg.other.state = .staged then
    let s := s.dropSchedule .busy
    let v := s.cfg.other.version
    (({ s with cfg := s.cfg.emptyOther } : State).noteImage 3 v).respond h.tag .done
  else if s.cfg.active.state ≠ .trial || s.cfg.other.state ≠ .fallback then s.respond h.tag .disabled
  else if s.cfg.reloadTrial then ({ s with cfg := { s.cfg with revertDue := true } } : State).respond h.tag .done
  else if s.cfg.schedule.isSome then s.refuseUpdate h.tag .busy
  else ({ s with cfg := { s.cfg with schedule := some ⟨true, true, 0, 0, h.tag⟩ } } : State).respond h.tag .done

/-! ## Activation (R386 to R390) -/

/-- The fence after which a RUNNING module activates has ended (R386, R390). -/
def State.stepReached (s : State) (x : Schedule) : Bool :=
  let atFence := s.job.phase = .none || s.job.phase = .posted
  atFence && !s.savesHold && s.job.fenceLeft.isNone &&
    if x.actStep = 0 then decide (x.tAct.toNat ≤ s.now.toNat)
    else match s.job.expected with
      | some e => decide (x.actStep.toNat < e.toNat)
      | none => false

/-- The instant of activation has come (R386). -/
def State.activationDue (s : State) (x : Schedule) : Bool :=
  s.cfg.rolling.isNone && s.cfg.staging.isNone && s.coreRuns .scheduler && s.coreRuns .security &&
    if s.kp.state = .running then s.stepReached x else decide (x.tAct.toNat ≤ s.now.toNat)

/-- Why an activation is refused (R385); a return to the fallback image is not. -/
def State.activationBar (s : State) (x : Schedule) : Option RefuseReason :=
  if x.revert then none
  else
    match s.updateBar with
    | some r => some r
    | none =>
    if s.cfg.other.svn < s.sec.svnMin then some .signature
    else if !s.compatible s.cfg.active s.cfg.other then some .compatibility
    else if x.rolling && !s.hasFeature 6 then some .feature
    else if !x.rolling && s.kp.state ≠ .idle then some .state
    else none

/-- The other slot runs from now on; each slot takes its state, and the settings of its FORMAT are in effect (R382, R389). -/
def Cfg.swap (c : Cfg) (new old : SlotState) : Cfg :=
  let kept := c.converted.map fun _ => (c.base, c.written)
  { c with
    slots := (c.slots.set c.otherSlot { c.other with state := new }).set c.activeSlot { c.active with state := old }
    activeSlot := c.otherSlot
    base := (c.converted.map Prod.fst).getD c.base
    written := (c.converted.map Prod.snd).getD c.written
    converted := kept }

/-- RELOAD_AT_START (R387): the other slot becomes TRIAL, the answer is written, and the module resets itself. -/
def State.reload (s : State) (x : Schedule) : State :=
  let s : State := { s with cfg := { s.cfg.swap .trial .fallback with schedule := none, reloadTrial := true } }
  ((s.noteImage 1 s.cfg.active.version).respond x.tag .done).moduleReset false s.pkg.i3cAddr

/-- ROLLING_ACTIVATION (R385, R386, R390). -/
def execRollingActivation (s : State) : Out :=
  .next (match s.cfg.schedule with
    | some x =>
      if s.activationDue x then
        match s.activationBar x with
        | some r => s.dropSchedule r
        | none =>
          if x.rolling then { s with cfg := { s.cfg with rolling := some (if x.revert then (5, true) else (0, false)) } }
          else s.reload x
      else s
    | none => s)

/-- The component of a switch that is a kingpost core, in the order of R381's table. -/
def switchedCore (n : Nat) : Option CoreKind :=
  match n with
  | 0 => some .security
  | 1 => some .power
  | 4 => some .scheduler
  | _ => none

/-- The sequence has come to an end: the update is complete, has been undone, or was declined (R388, R389). -/
def State.endRolling (s : State) : State :=
  match s.cfg.rolling, s.cfg.schedule with
  | some (n, back), some x =>
    if s.fw.restarting.toList.any id then s
    else if n = 5 ∧ back = false then
      let s : State := { s with cfg := { s.cfg with rolling := none, schedule := none } }
      if x.revert then s.refuseUpdate x.tag .handoff
      else
        let s : State := { s with cfg := { s.cfg.swap .trial .fallback with reloadTrial := false } }
        (s.noteImage 1 s.cfg.active.version).respond x.tag .done
    else if n = 0 ∧ back = true then
      let s : State := { s with cfg := { s.cfg with rolling := none, schedule := none } }
      if x.revert then
        let v := s.cfg.active.version
        let s : State := { s with cfg := (s.cfg.swap .active .empty).emptyOther }
        (s.noteImage 3 v).respond x.tag .done
      else s.refuseUpdate x.tag .handoff
    else s
  | _, _ => s

/-- One component switches to the image it moves to (R290, R381, R388). -/
def State.switchOne (s : State) (component : Nat) : State :=
  match switchedCore component with
  | some .security => (s.pauseCore .security).endSessions
  | some c => s.pauseCore c
  | none => s

/-- ROLLING_SWITCH (R388): the next component switches once the one before it has completed; a declined handoff restarts the old
image and turns the sequence round. -/
def execRollingSwitch (declined : Bool) (s : State) : Out :=
  .next (match s.cfg.rolling, s.cfg.schedule with
    | some (n, back), some x =>
      if s.fw.dead || s.fw.restarting.toList.any id then s
      else if (n = 5 ∧ back = false) ∨ (n = 0 ∧ back = true) then s.endRolling
      else
        let component := if back then n - 1 else n
        let handoff := decide (component = 1) || decide (component = 4)
        if declined && handoff && back == x.revert then
          let s := s.switchOne component
          ({ s with cfg := { s.cfg with rolling := some (n, !back) } } : State).endRolling
        else
          let s := s.switchOne component
          ({ s with cfg := { s.cfg with rolling := some (if back then n - 1 else n + 1, back) } } : State).endRolling
    | _, _ => s)

/-! ## Owner lock (R395) -/

/-- OWNER_LOCK with SET (R395). -/
def State.serveOwnerSet (s : State) (h : ReqHead) (key : BitVec 768) : State :=
  if s.kp.state ≠ .idle then s.respond h.tag .disabled
  else
    (({ s with sec := { s.sec with owner := some key } } : State).noteFirmware 0xB802 0 1).respond h.tag .done

/-- A fresh nonce, and the state that has given it out (R395, R397; log entry 10). -/
def State.takeNonce (s : State) : BitVec 384 × State := (Config.nonce s.free, { s with free := s.free + 1 })

/-- OWNER_LOCK with GET_NONCE (R395). -/
def State.serveOwnerNonce (s : State) (h : ReqHead) : State :=
  let (n, s) := s.takeNonce
  ({ s with sec := { s.sec with ownerNonce := some n } } : State).respond h.tag .done n

/-- The signature over the unique ID and the nonce verifies under the key that set the lock (R395). -/
def State.ownerClears (s : State) (signature : BitVec 768) : Bool :=
  match s.sec.owner, s.sec.ownerNonce with
  | some k, some n => Config.verifyOwner k (leBytes 16 s.kp.uid.toNat ++ leBytes 48 n.toNat) signature
  | _, _ => false

/-- OWNER_LOCK with CLEAR (R395). -/
def State.serveOwnerClear (s : State) (h : ReqHead) (signature : BitVec 768) : State :=
  let good := s.ownerClears signature
  let s : State := { s with sec := { s.sec with ownerNonce := none } }
  if good then
    (({ s with sec := { s.sec with owner := none } } : State).noteFirmware 0xB802 0 0).respond h.tag .done
  else s.respond h.tag .badDescriptor

/-! ## Debug unlock (R397) -/

/-- DEBUG_UNLOCK with GET_NONCE (R397). -/
def State.serveDebugNonce (s : State) (h : ReqHead) : State :=
  let (n, s) := s.takeNonce
  ({ s with sec := { s.sec with debugNonce := some (n, s.clk.aonMicros) } } : State).respond h.tag .done n

/-- The debug level set, with its record (R397, R416). -/
def State.setDebug (s : State) (level : BitVec 2) : State :=
  if s.sec.debug = level then s
  else ({ s with sec := { s.sec with debug := level } } : State).noteFirmware 0xB801 0 level.toNat

/-- A token is good: its magic, level, unique ID and nonce, and its signature by a debug key, or by the owner key while the lock is
set (R395, R397). -/
def State.tokenGood (s : State) (t : List Byte) : Bool :=
  match s.sec.debugNonce with
  | some (n, _) =>
    let level := fieldAt t 4 1
    let sig : BitVec 768 := BitVec.ofNat 768 (fieldAt t 96 96)
    decide (t.length = 192) && decide (fieldAt t 0 4 = 0x4442474B) && (level == 1 || level == 2) &&
      decide (fieldAt t 8 16 = s.kp.uid.toNat) && decide (fieldAt t 24 48 = n.toNat) &&
      match s.sec.owner with
      | some k => Config.verifyOwner k (t.take 96) sig
      | none => Config.verifyDebug (t.take 96) sig
  | none => false

/-- DEBUG_UNLOCK with PRESENT (R397). -/
def State.serveDebugPresent (s : State) (h : ReqHead) (token : List Byte) : State :=
  let level := fieldAt token 4 1
  if level = 2 ∧ s.kp.state ≠ .idle ∧ s.kp.state ≠ .faulted ∧ s.kp.state ≠ .acorn then s.respond h.tag .disabled
  else
    let good := s.tokenGood token
    let s : State := { s with sec := { s.sec with debugNonce := none } }
    if good then (s.setDebug (BitVec.ofNat 2 level)).respond h.tag .done else s.respond h.tag .badDescriptor

/-- DEBUG_UNLOCK with RELOCK (R397). -/
def State.serveDebugRelock (s : State) (h : ReqHead) : State := (s.setDebug 0).respond h.tag .done

/-- NONCE_EXPIRY (R397). -/
def execNonceExpiry (s : State) : Out := .next { s with sec := { s.sec with debugNonce := none } }

end Sys2Proof.Machine
end

