-- ==== Sys2Proof/Machine/Requests.lean ====
section
/-! DEFINITION. The request ring (R283, R285, R286, R290, R391): how a request is taken, held or refused, which function serves
it, and the command of each request. -/

namespace Sys2Proof.Machine

/-- What each request does. In ACORN code 0x10 is ACORN_WRITE and elsewhere UPDATE_STAGE, and the entry's bytes are read so
(R286, R391). -/
def State.serveReq (s : State) (h : ReqHead) : Request → State
  | .attach features heartbeat => s.serveAttach h features heartbeat
  | .detach => s.serveDetach h
  | .adopt f => s.serveAdopt h f
  | .reset => s.serveReset h
  | .load addr length => s.serveLoad h addr length
  | .arm timeout jobId => s.serveArm h timeout jobId
  | .disarm => s.serveDisarm h
  | .functionQuiesce die bay func => s.serveFunction h die bay func .quiesce
  | .functionForce die bay func => s.serveFunction h die bay func .force
  | .functionReenable die bay func => s.serveFunction h die bay func .reenable
  | .routeWrite first count scratch => s.serveRouteWrite h first count scratch
  | .verdictTree parent root childCount children => s.serveVerdictTree h parent root childCount children
  | .retiredPages scratch => s.serveRetiredPages h scratch
  | .laneClear link lane => s.serveLaneClear h link lane
  | .linkRetrain link => s.serveLinkRetrain h link
  | .updateStage addr length =>
    if s.kp.state = .acorn then s.serveAcornWrite h addr (length.extractLsb' 0 32) (length.extractLsb' 32 32) false
    else s.serveUpdateStage h addr length
  | .acornWrite offset length scratch last =>
    if s.kp.state = .acorn then s.serveAcornWrite h offset length scratch last
    else if last then s.respond h.tag .badDescriptor
    else s.serveUpdateStage h offset (scratch ++ length)
  | .updateSchedule mode tAct actStep => s.serveUpdateSchedule h mode tAct actStep
  | .updateConfirm => s.serveUpdateConfirm h
  | .updateRevert => s.serveUpdateRevert h
  | .planWrite scratch length => s.servePlanWrite h scratch length
  | .planRead scratch => s.servePlanRead h scratch
  | .modeSet mode => s.serveModeSet h mode
  | .configWrite scratch length => s.serveConfigWrite h scratch length
  | .configRestore kind => s.serveConfigRestore h kind
  | .configRead scratch => s.serveConfigRead h scratch
  | .scribeRead first count scratch => s.serveScribeRead h first count scratch
  | .scribeClearPinned => s.serveScribeClear h
  | .selftest item mask => s.serveSelftest h item mask
  | .partsRead scratch => s.servePartsRead h scratch
  | .ownerLockSet key => s.serveOwnerSet h key
  | .ownerLockGetNonce => s.serveOwnerNonce h
  | .ownerLockClear signature => s.serveOwnerClear h signature
  | .debugGetNonce => s.serveDebugNonce h
  | .debugPresent token => s.serveDebugPresent h token
  | .debugRelock => s.serveDebugRelock h

/-- Requests that wait for the security core: LOAD checks and firmware updates (R290). -/
def needsSecurity : Request → Bool
  | .load _ _ => true
  | .updateStage _ _ => true
  | .acornWrite _ _ _ _ => true
  | .updateSchedule _ _ _ => true
  | .updateConfirm => true
  | .updateRevert => true
  | _ => false

/-- The requests that ACORN accepts: code 0x10 and RESET (R391). -/
def acornTakes : Request → Bool
  | .updateStage _ _ => true
  | .acornWrite _ _ _ _ => true
  | .reset => true
  | _ => false

/-- A request is taken from the ring and answered, or waits for the security core (R283, R286, R290, R391). -/
def State.openRequest (s : State) (h : ReqHead) (r : Request) : State :=
  let s : State := { s with mgmt := { s.mgmt with reqConsumed := s.mgmt.reqConsumed + 1 } }
  if !h.reservedClear then s.respond h.tag .badDescriptor
  else if s.kp.state = .acorn && !acornTakes r then s.respond h.tag .disabled
  else if s.fw.restarting[0] && needsSecurity r then
    { s with mgmt := { s.mgmt with heldSecurity := s.mgmt.heldSecurity ++ [(h, r)] } }
  else s.serveReq h r

/-- The host has posted a request. It is noticed in every state except BOOT, while the scheduler core runs (R283, R290, R304). -/
def State.takeRequest (s : State) (h : ReqHead) (r : Request) : State :=
  let s : State := { s with mgmt := { s.mgmt with reqProduced := s.mgmt.reqProduced + 1 } }
  if s.kp.state = .boot || !s.coreRuns .scheduler then
    { s with mgmt := { s.mgmt with heldScheduler := s.mgmt.heldScheduler ++ [(h, r)] } }
  else s.openRequest h r

/-- The requests posted and not yet noticed are taken in order; a RESET among them ends the ring (R277, R283, R290). -/
def State.takeHeld (s : State) : State :=
  let held := s.mgmt.heldScheduler
  held.foldl (fun s x => if s.kp.state = .boot then s else s.openRequest x.1 x.2) { s with mgmt := { s.mgmt with heldScheduler := [] } }

/-- The requests that waited for the security core go on (R290). -/
def State.takeSecurity (s : State) : State :=
  let held := s.mgmt.heldSecurity
  held.foldl (fun s x => s.serveReq x.1 x.2) { s with mgmt := { s.mgmt with heldSecurity := [] } }

/-! ## Commands -/

/-- ATTACH (R285). -/
def execAttach (h : ReqHead) (features : BitVec 256) (heartbeat : Word) (s : State) : Out :=
  .next (s.takeRequest h (.attach features heartbeat))

/-- DETACH (R285). -/
def execDetach (h : ReqHead) (s : State) : Out := .next (s.takeRequest h .detach)

/-- ADOPT (R281). -/
def execAdopt (h : ReqHead) (f : AdoptFields) (s : State) : Out := .next (s.takeRequest h (.adopt f))

/-- RESET (R282). -/
def execReset (h : ReqHead) (s : State) : Out := .next (s.takeRequest h .reset)

/-- LOAD (R251). -/
def execLoad (h : ReqHead) (addr length : DWord) (s : State) : Out := .next (s.takeRequest h (.load addr length))

/-- ARM (R288). -/
def execArm (h : ReqHead) (timeout : Word) (jobId : DWord) (s : State) : Out := .next (s.takeRequest h (.arm timeout jobId))

/-- DISARM (R285). -/
def execDisarm (h : ReqHead) (s : State) : Out := .next (s.takeRequest h .disarm)

/-- FUNCTION, disable with QUIESCE (R90). -/
def execFunctionDisableQuiesce (h : ReqHead) (die bay func : Byte) (s : State) : Out :=
  .next (s.takeRequest h (.functionQuiesce die bay func))

/-- FUNCTION, disable with FORCE (R91). -/
def execFunctionDisableForce (h : ReqHead) (die bay func : Byte) (s : State) : Out :=
  .next (s.takeRequest h (.functionForce die bay func))

/-- FUNCTION, re-enable (R93). -/
def execFunctionReenable (h : ReqHead) (die bay func : Byte) (s : State) : Out :=
  .next (s.takeRequest h (.functionReenable die bay func))

/-- ROUTE_WRITE (R196). -/
def execRouteWrite (h : ReqHead) (first count : BitVec 16) (scratch : Word) (s : State) : Out :=
  .next (s.takeRequest h (.routeWrite first count scratch))

/-- VERDICT_TREE (R231). -/
def execVerdictTree (h : ReqHead) (parent : BitVec 15) (root : Bool) (childCount : Byte) (children : List (BitVec 16)) (s : State) : Out :=
  .next (s.takeRequest h (.verdictTree parent root childCount children))

/-- RETIRED_PAGES (R159). -/
def execRetiredPages (h : ReqHead) (scratch : Word) (s : State) : Out := .next (s.takeRequest h (.retiredPages scratch))

/-- LANE_CLEAR (R209). -/
def execLaneClear (h : ReqHead) (link lane : Byte) (s : State) : Out := .next (s.takeRequest h (.laneClear link lane))

/-- LINK_RETRAIN (R202). -/
def execLinkRetrain (h : ReqHead) (link : Byte) (s : State) : Out := .next (s.takeRequest h (.linkRetrain link))

/-- UPDATE_STAGE (R384). -/
def execUpdateStage (h : ReqHead) (addr length : DWord) (s : State) : Out := .next (s.takeRequest h (.updateStage addr length))

/-- ACORN_WRITE (R391). -/
def execAcornWrite (h : ReqHead) (offset : DWord) (length scratch : Word) (last : Bool) (s : State) : Out :=
  .next (s.takeRequest h (.acornWrite offset length scratch last))

/-- UPDATE_SCHEDULE (R386). -/
def execUpdateSchedule (h : ReqHead) (mode : Byte) (tAct actStep : DWord) (s : State) : Out :=
  .next (s.takeRequest h (.updateSchedule mode tAct actStep))

/-- UPDATE_CONFIRM (R389). -/
def execUpdateConfirm (h : ReqHead) (s : State) : Out := .next (s.takeRequest h .updateConfirm)

/-- UPDATE_REVERT (R389). -/
def execUpdateRevert (h : ReqHead) (s : State) : Out := .next (s.takeRequest h .updateRevert)

/-- PLAN_WRITE (R330). -/
def execPlanWrite (h : ReqHead) (scratch length : Word) (s : State) : Out := .next (s.takeRequest h (.planWrite scratch length))

/-- PLAN_READ (R330). -/
def execPlanRead (h : ReqHead) (scratch : Word) (s : State) : Out := .next (s.takeRequest h (.planRead scratch))

/-- MODE_SET (R377). -/
def execModeSet (h : ReqHead) (mode : Byte) (s : State) : Out := .next (s.takeRequest h (.modeSet mode))

/-- CONFIG_WRITE with WRITE (R379). -/
def execConfigWriteRecord (h : ReqHead) (scratch length : Word) (s : State) : Out :=
  .next (s.takeRequest h (.configWrite scratch length))

/-- CONFIG_WRITE with RESTORE (R379). -/
def execConfigWriteRestore (h : ReqHead) (kind : Byte) (s : State) : Out := .next (s.takeRequest h (.configRestore kind))

/-- CONFIG_READ (R379). -/
def execConfigRead (h : ReqHead) (scratch : Word) (s : State) : Out := .next (s.takeRequest h (.configRead scratch))

/-- SCRIBE_READ (R349). -/
def execScribeRead (h : ReqHead) (first : DWord) (count scratch : Word) (s : State) : Out :=
  .next (s.takeRequest h (.scribeRead first count scratch))

/-- SCRIBE_CLEAR_PINNED (R349). -/
def execScribeClearPinned (h : ReqHead) (s : State) : Out := .next (s.takeRequest h .scribeClearPinned)

/-- SELFTEST (R353). -/
def execSelftest (h : ReqHead) (item : Byte) (mask : Word) (s : State) : Out := .next (s.takeRequest h (.selftest item mask))

/-- PARTS_READ (R349). -/
def execPartsRead (h : ReqHead) (scratch : Word) (s : State) : Out := .next (s.takeRequest h (.partsRead scratch))

/-- OWNER_LOCK with SET (R395). -/
def execOwnerLockSet (h : ReqHead) (key : BitVec 768) (s : State) : Out := .next (s.takeRequest h (.ownerLockSet key))

/-- OWNER_LOCK with GET_NONCE (R395). -/
def execOwnerLockGetNonce (h : ReqHead) (s : State) : Out := .next (s.takeRequest h .ownerLockGetNonce)

/-- OWNER_LOCK with CLEAR (R395). -/
def execOwnerLockClear (h : ReqHead) (signature : BitVec 768) (s : State) : Out :=
  .next (s.takeRequest h (.ownerLockClear signature))

/-- DEBUG_UNLOCK with GET_NONCE (R397). -/
def execDebugUnlockGetNonce (h : ReqHead) (s : State) : Out := .next (s.takeRequest h .debugGetNonce)

/-- DEBUG_UNLOCK with PRESENT (R397). -/
def execDebugUnlockPresent (h : ReqHead) (token : List Byte) (s : State) : Out := .next (s.takeRequest h (.debugPresent token))

/-- DEBUG_UNLOCK with RELOCK (R397). -/
def execDebugUnlockRelock (h : ReqHead) (s : State) : Out := .next (s.takeRequest h .debugRelock)

end Sys2Proof.Machine
end

