-- ==== Sys2Proof/Machine/Firmware.lean ====
section
/-! DEFINITION. Kingpost cores returning from a restart (R290, R294), the takeover by the standby kingpost, the failure of a kingpost
without a standby, the failure of the standby, and the edge dies' own timer (R301 to R304). -/

namespace Sys2Proof.Machine

/-- The completions that waited for the scheduler core are written (R290, R303). -/
def State.writePaused (s : State) : State :=
  let l := s.host.paused
  l.foldl (fun s c => s.putCompletion c) { s with host := { s.host with paused := [] } }

/-- The scheduler core goes on: completions, events, requests, the rest of a fence, and descriptors (R290, R292). -/
def State.resumeScheduler (s : State) : State :=
  let s := s.writePaused
  let s := drainEvents s.mgmt.waiting.length s
  let s := if s.kp.state = .boot then s else s.takeHeld
  s.afterSaves.progress

/-- The power core goes on: a minute that ended during its restart ends now (R290). -/
def State.resumePower (s : State) : State := if s.minuteNow ≠ s.pwr.minute then s.endMinute else s

/-- KINGPOST_CORE_RETURN (R290): the core runs again from its hold area. -/
def execKingpostCoreReturn (core : CoreKind) (s : State) : Out :=
  .next (if s.fw.restarting[coreNo core] && !s.fw.dead && !s.coreFailed core then
      let s : State := { s with fw := { s.fw with
        restarting := s.fw.restarting.set (coreNo core) false, edgeFaulted := false } }
      let s := match core with
        | .security => s.takeSecurity
        | .power => s.resumePower
        | .scheduler => s.resumeScheduler
      s.endRolling
    else s)

/-- The log as the active kingpost's MRAM holds it (R347). -/
def State.logImage (s : State) : LogImage :=
  ⟨s.scribe.nextSeq, s.scribe.oldest, s.scribe.pinned, s.kp.bootCount, s.scribe.slots⟩

/-- STANDBY_OK clears: from here the other kingpost's MRAM is no copy of the log (R302 to R304). -/
def State.loseStandby (s : State) : State :=
  { s with
    fw := { s.fw with standbyOk := false, standbyLost := true }
    scribe := { s.scribe with standby := match s.scribe.standby with
      | none => some s.logImage
      | some x => some x } }

/-- A ROLLING sequence in progress ends at a takeover; the slot stays as it was (R390). -/
def State.cutRolling (s : State) : State :=
  match s.cfg.rolling, s.cfg.schedule with
  | some _, some x =>
    ({ s with cfg := { s.cfg with rolling := none, schedule := none } } : State).respond x.tag .firmwareRestarted
  | _, _ => s

/-- The standby takes over; the PCIe link trains again on it, which is no driver loss (R303). -/
def State.takeOver (s : State) : State :=
  let s := s.loseStandby.dropOpens .scheduler
  let s : State := { s with
    fw := { s.fw with
      activeB := !s.fw.activeB, restarting := Vector.replicate 3 true, restarts := Vector.replicate 3 [] }
    kp := { s.kp with takeover := true, droppedWrites := 0, droppedLast := 0 } }
  let s := (((s.cutRolling).cutWork .security).cutWork .scheduler).trainPort
  let s := s.report { cls := .degraded, code := 0x1803, subject := idKp (!s.fw.activeB) 7, reporter := idKp s.fw.activeB 7,
                      alone := true }
  s.evalCauses

/-- PAIR_ALIVE_TIMEOUT (R302 to R304): the standby takes over, or no kingpost is left. -/
def execPairAliveTimeout (cause : KpFailure) (s : State) : Out :=
  let _ := cause
  .next (if s.fw.dead then s
    else if s.fw.standbyOk then s.takeOver
    else { s with fw := { s.fw with dead := true } })

/-- STANDBY_FAILURE (R304). -/
def execStandbyFailure (s : State) : Out :=
  .next (if s.fw.dead || s.fw.standbyLost then s
    else
      (s.loseStandby.report
        { cls := .degraded, code := 0x1804, subject := idKp (!s.fw.activeB) 7, reporter := idKp s.fw.activeB 7, alone := true }).evalCauses)

/-- EDGE_KINGPOST_TIMER (R301): the edge dies report PEER_STATE FAULTED on every link. -/
def execEdgeKingpostTimer (s : State) : Out := .next { s with fw := { s.fw with edgeFaulted := true } }

end Sys2Proof.Machine
end

