-- ==== Sys2Proof/Machine/Board.lean ====
section
/-! DEFINITION. Supplies, temperatures, resets and the end of BOOT (R145, R157, R204, R209, R374, R387 to R393, R422 to R431). -/

namespace Sys2Proof.Machine

/-! ## Which ring die a sensor belongs to (R12, R13, R15, R17) -/

/-- The ring dies whose targets a sensor's cap lowers; none for a kingpost (R430). An edge die counts to the site it is supplied
from (R17). -/
def affectedDies : Sensor → List DieId
  | .ringDie d => [d]
  | .loftDie d => [d]
  | .sillDie m => [ownerOfSill m]
  | .stack m => [ownerOfSill m]
  | .edgeDie e => [ownerOfEdge e]
  | .kingpost _ => []
  | .coolantInlet => allDies
  | .coolantOutlet => allDies

/-- Warning level, and cap where there is one, in degrees C (R430). -/
def sensorLevels : Sensor → Nat × Option Nat
  | .stack _ => (90, some 95)
  | .kingpost _ => (95, none)
  | .coolantInlet => (40, some 45)
  | .coolantOutlet => (70, some 75)
  | _ => (100, some 105)

/-- The subject of a sensor's record (R343). -/
def idSensor : Sensor → Word
  | .ringDie d => idDie d 0x2C
  | .loftDie d => idDie d 0x30
  | .sillDie m => idStack m 0 0
  | .stack m => idStack m 0 0
  | .edgeDie e => idEdge e 0
  | .kingpost b => idKp b 7
  | .coolantInlet => idModule
  | .coolantOutlet => idModule

/-- A reading kept. -/
def Package.setTemp (p : Package) (s : Sensor) (c : Nat) : Package :=
  { p with temps := (p.temps.filter fun x => x.1 ≠ s) ++ [(s, c)] }

/-! ## Thermal caps (R430) -/

/-- Every fast-domain target of a die one code lower (R430). -/
def RingDie.lowerThermal (r : RingDie) (now : Nat) : RingDie :=
  { r with
    thermalAt := now
    domains := r.domains.map fun x =>
      { x with thermalCap := BitVec.ofNat 8 (max 0x20 (min x.thermalCap.toNat x.target.toNat - 1)) } }

/-- Every thermal cap of a die one code higher, up to no cap (R430). -/
def RingDie.raiseThermal (r : RingDie) (now : Nat) : RingDie :=
  { r with
    thermalAt := now
    domains := r.domains.map fun x => { x with thermalCap := BitVec.ofNat 8 (min 0x54 (x.thermalCap.toNat + 1)) } }

/-- Some thermal cap binds on the die. -/
def RingDie.thermallyCapped (r : RingDie) : Bool := r.domains.toList.any fun x => decide (x.thermalCap.toNat < 0x54)

/-- Every sensor read so far that caps the die is 3 degrees below its cap (R430). -/
def State.coolBelowCap (s : State) (d : DieId) : Bool :=
  s.pkg.temps.all fun x => !(affectedDies x.1).contains d || match (sensorLevels x.1).2 with
    | some cap => decide (x.2 + 3 ≤ cap)
    | none => true

/-- A sensor at its cap lowers the dies of its site, one code a millisecond, with its record (R342, R430). -/
def State.capSensor (s : State) (x : Sensor) (celsius : Nat) : State :=
  let now := s.clk.aonMicros
  let due := (affectedDies x).filter fun d => decide ((s.die d).thermalAt + 1000 ≤ now)
  if due = [] then s
  else
    let s := due.foldl (fun s d => s.modDie d fun r => r.lowerThermal now) s
    s.report { cls := .environment, code := Config.unlistedCode 15, subject := idSensor x, reporter := idKp s.fw.activeB 1,
               detail := BitVec.ofNat 64 celsius, envFault := true }

/-- The dies of a cool sensor's site come back, one code in 100 ms (R430). -/
def State.uncapSensor (s : State) (x : Sensor) : State :=
  let now := s.clk.aonMicros
  (affectedDies x).foldl
    (fun s d =>
      if (s.die d).thermallyCapped && s.coolBelowCap d && decide ((s.die d).thermalAt + 100000 ≤ now) then
        s.modDie d fun r => r.raiseThermal now
      else s) s

/-- The warning level of a sensor is reached, or left (R342, R430). -/
def State.warnSensor (s : State) (x : Sensor) (celsius : Nat) : State :=
  if (sensorLevels x).1 ≤ celsius then
    if s.pkg.warned.contains x then s
    else
      ({ s with pkg := { s.pkg with warned := s.pkg.warned ++ [x] } } : State).report
        { cls := .environment, code := Config.unlistedCode 14, subject := idSensor x, reporter := idKp s.fw.activeB 1,
          detail := BitVec.ofNat 64 celsius }
  else { s with pkg := { s.pkg with warned := s.pkg.warned.filter fun y => y ≠ x } }

/-- THERMAL_SENSOR_READ (R430): the power core reads a sensor. -/
def execThermalSensorRead (x : Sensor) (celsius : Byte) (s : State) : Out :=
  .next (if s.powerRuns && s.pkg.aux then
      let c := celsius.toNat
      let s := ({ s with pkg := s.pkg.setTemp x c } : State).warnSensor x c
      match (sensorLevels x).2 with
      | some cap => if cap ≤ c then s.capSensor x c else s.uncapSensor x
      | none => s
    else s)

/-! ## Losing the supplies (R24, R426, R431) -/

/-- The module goes to FAULTED with every regulator output off (R24). -/
def State.loadsOff (s : State) : State :=
  let s := s.enter .faulted .internal
  ({ s with pkg := { s.pkg with powerGood := false } } : State).unpower

/-- THERMAL_TRIP (R431, R434): hardware; it needs no firmware. Chunks received in ACORN are discarded. -/
def execThermalTrip (x : Sensor) (s : State) : Out :=
  .next (if s.pkg.aux then
      let s := s.report { cls := .environment, code := 0x4802, subject := idSensor x, reporter := idSensor x, status := .internal,
                          envFault := true }
      ({ s with
          pkg := { s.pkg with thermTrip := true }
          cfg := { s.cfg with acorn := [] } } : State).loadsOff
    else s)

/-- SUPPLY_48V_LOSS (R423, R426): in BOOT and ACORN the module waits on AUX; otherwise it goes to FAULTED, with a record unless the
shutdown was orderly. -/
def execSupply48vLoss (s : State) : Out :=
  let off : State := { s with pkg := { s.pkg with v48 := false, powerGood := false } }
  .next (if s.kp.state = .boot ∨ s.kp.state = .acorn then off.unpower
    else if s.kp.state = .idle ∨ s.kp.state = .quiesced then off.loadsOff
    else
      (off.report { cls := .environment, code := Config.unlistedCode 16, subject := idModule, reporter := idKp s.fw.activeB 7,
                    status := .internal, envFault := true }).loadsOff)

/-- SUPPLY_48V_RETURN (R425, R426): FAULTED stays; in BOOT the regulators are enabled, unless a trip's heat holds them off. -/
def execSupply48vReturn (s : State) : Out :=
  let s : State := { s with pkg := { s.pkg with v48 := true } }
  .next (if s.kp.state = .boot ∧ s.pkg.aux = true ∧ s.pkg.cooling = false then
      { s with pkg := { s.pkg with powerGood := true } }
    else s)

/-- AUX_LOSS (R424, R426): every die is unpowered; MRAM, SPI NOR and fuses keep what they hold. -/
def execAuxLoss (s : State) : Out :=
  if s.pkg.aux then
    let boots := s.kp.bootCount
    let t := s.moduleReset false s.pkg.i3cAddr
    .next { t with
      kp := { t.kp with bootCount := boots, takeover := false }
      cfg := { t.cfg with fallback := false }
      pkg := { t.pkg with aux := false, powerGood := false, inReset := true, cooling := false } }
  else .next s

/-- AUX_RETURN (R425, R426): the kingposts have power again; MODULE_RESET# is held until the carrier releases it. -/
def execAuxReturn (s : State) : Out := .next { s with pkg := { s.pkg with aux := true } }

/-- MODULE_RESET (R422, R427): a pulse below 100 ns is ignored, one below 1 us may or may not be recognised. -/
def execModuleReset (p : ResetPulse) (s : State) : Out :=
  if !s.pkg.aux || decide (p.lowNs < 100) then .next s
  else
    let (seen, s) := if p.lowNs < 1000 then s.takeFreeBit else (true, s)
    if seen then
      let t := s.moduleReset p.acorn p.i3cAddr
      .next { t with pkg := { t.pkg with powerGood := t.pkg.v48 && !t.pkg.cooling } }
    else .next s

/-! ## The end of BOOT -/

/-- BOOT can end: AUX and 48 V stand, MODULE_RESET# is released, and after a trip every sensor has cooled (R425, R431). -/
def State.bootReady (s : State) : Bool :=
  s.kp.state = .boot && s.pkg.aux && s.pkg.v48 && !s.pkg.inReset && !s.fw.dead &&
    (!s.pkg.cooling || s.pkg.temps.all fun x => decide (x.2 < (sensorLevels x.1).1))

/-- A trial that is to be undone at this BOOT: the fallback image runs with its settings (R389). -/
def State.bootRevert (s : State) : State :=
  if s.cfg.revertDue && s.cfg.inTrial then
    let v := s.cfg.active.version
    ({ s with cfg := { (s.cfg.swap .active .empty).emptyOther with revertDue := false, reloadTrial := false } } : State).noteImage 3 v
  else { s with cfg := { s.cfg with revertDue := false } }

/-- BOOT falls back to the other slot with the old settings (R389, R390). -/
def State.fallBack (s : State) : State :=
  let s : State := { s with cfg := { (s.cfg.swap .active .empty).emptyOther with
    fallback := true, fallbackDue := false, reloadTrial := false } }
  s.report { cls := .degraded, code := 0xA801, subject := idModule, reporter := idKp s.fw.activeB 0,
             detail := BitVec.ofNat 64 s.cfg.activeSlot.val }

/-- BOOT of the running slot has failed: the other slot boots next where it holds an image and has not failed too, and otherwise the
ROM enters ACORN (R389, R391). -/
def State.bootFailed (s : State) : State :=
  let n := s.cfg.bootFailures + 1
  let s : State := { s with cfg := { s.cfg with bootFailures := n } }
  if n < 2 ∧ s.cfg.other.state ≠ .empty ∧ s.cfg.other.state ≠ .staged then
    ({ s with kp := { s.kp with bootCount := s.kp.bootCount + 1 } } : State).fallBack
  else s.enter .acorn .internal

/-- What BOOT finds in the stacks (R145, R412): their identities, and which have trained. -/
def State.trainStacks (s : State) (r : BootResult) : State :=
  { s with sills := Vector.ofFn fun m =>
      let x := s.sills[m]
      { x with
        trained := !r.failedStacks.contains m
        stackId := r.stackIds.getD m.val x.stackId
        trainTemp := s.pkg.temp (.stack m) } }

/-- Hard repair of one row at BOOT; where it fails the row is retired (R157, R158, R159). -/
def State.hardRepair (s : State) (m : SillId) (row : Nat) (failed : Bool) : State :=
  if failed then
    if (s.sill m).listFull then
      s.goFaulted (Config.unlistedCode 3) (idStack m (row % 64) (row / 4096)) .memoryUncorrectable 0
    else
      let t := s.timeMillis
      let s := s.modSill m fun y => y.retireRow row 4 t
      s.report { cls := .degraded, code := 0x6801, subject := idStack m (row % 64) (row / 4096),
                 reporter := idStack m (row % 64) (row / 4096),
                 detail := BitVec.ofNat 64 (retiredEntry m ⟨row / 64 * 16, 4, t⟩) }
  else s.countSill m 0x0C

/-- Every row soft-repaired since the last BOOT is repaired hard (R145, R157). -/
def State.hardRepairs (s : State) (r : BootResult) : State :=
  allSills.foldl
    (fun s m =>
      let rows := (s.sill m).softRepaired
      let s := s.modSill m fun y => { y with softRepaired := [] }
      rows.foldl (fun s row => s.hardRepair m row (r.failedHardRepairs.contains (m, row))) s) s

/-- The register keys of the base record are written (R374). -/
def State.applyKeys (s : State) : State :=
  s.cfg.base.foldl
    (fun s x => if x.1.getLsbD 31 then s else s.writeReg x.1.toNat x.2 0xF) s

/-- The base record did not suit the image that ACORN wrote: the module has booted without it, with a FAULT event (R392). -/
def State.noteBaseLost (s : State) : State :=
  if s.cfg.baseLost then
    ({ s with cfg := { s.cfg with baseLost := false } } : State).report
      { cls := .degraded, code := Config.unlistedCode 11, subject := idModule, reporter := idKp s.fw.activeB 0 }
  else s

/-- The links that are enabled train; the others are DISABLED (R204, R211). -/
def State.startLinks (s : State) : State :=
  allLinks.foldl (fun s k => s.setLink k (if (s.link k).enabled then .training else .disabled)) s

/-- The standby kingpost is loaded and mirrored (R301, R302, R348). -/
def State.loadStandby (s : State) : State :=
  if s.fw.standbyLost then s
  else { s with fw := { s.fw with standbyOk := true }, scribe := { s.scribe with standby := none } }

/-- The shape that the parts record leaves (R1, R359). -/
def State.bootShape (s : State) : Nat := allDies.foldl (fun n d => min n (s.die d).usable.length) s.kp.grade

/-- The shape at BOOT: every die runs at the least one, those with more working bents retiring some to match (R2, R359). -/
def State.matchShape (s : State) : State :=
  let n := s.bootShape
  let s : State := { s with kp := { s.kp with shape := n } }
  allDies.foldl (fun s d => s.retireOn d n) s

/-- The module comes out of BOOT: to IDLE, or to FAULTED where a stack has failed training or the shape is below 12 (R2, R145,
R265, R288, R359). -/
def State.leaveBoot (s : State) (r : BootResult) : State :=
  match r.failedStacks with
  | [] =>
    if s.kp.shape < 12 then
      s.goFaulted 0x5803 idModule .shapeMismatch (BitVec.ofNat 64 (s.kp.grade + 256 * s.kp.shape))
    else if s.kp.state = .boot then s.enter .idle .done
    else s
  | m :: _ => s.goFaulted (Config.unlistedCode 13) (idStack m 0 0) .internal 0

/-- BOOT with images that pass their self-test; the PCIe port has trained (R261). -/
def State.bootPassed (s : State) (r : BootResult) : State :=
  let s : State := { s.matchShape with
    cfg := { s.cfg with bootFailures := 0, fallbackDue := false }
    pkg := { s.pkg with powerGood := true, cooling := false } }
  let s := ((((s.trainStacks r).hardRepairs r).applyKeys).noteBaseLost).loadStandby
  let s := if r.failedStacks = [] then s
    else (({ s with kp := { s.kp with causes := s.kp.causes ||| 0x20 } } : State).causeStarted 6)
  ((s.evalCauses.startLinks.trainPort).leaveBoot r).takeHeld

/-- BOOT_COMPLETE (R145, R204, R265, R374, R389, R391). -/
def execBootComplete (r : BootResult) (s : State) : Out :=
  .next (if s.bootReady then
      let s := s.bootRevert
      if s.cfg.fallbackDue && s.cfg.inTrial then
        if r.selfTestOk then s.fallBack.bootPassed r else s.fallBack.bootFailed
      else if r.selfTestOk then s.bootPassed r
      else s.bootFailed
    else s)

end Sys2Proof.Machine
end

