-- ==== Sys2Proof/Machine/Fetch.lean ====
section
/-! DEFINITION. The fetch and store engines: the commands of their queues (R117, R118, R128), descriptor batches (R130),
transfers (R131, R136), stores, and multicasts (R138, R139, R142). -/

namespace Sys2Proof.Machine

/-- A stream slot by its 6-bit number. -/
def slotOf (k : BitVec 6) : SlotIx := ⟨k.toNat, k.isLt⟩

/-! ## Commands of the FETCH queue (R117, R118) -/

/-- The ranges and constraints of R118 on the fields of OPEN. -/
def openFieldsGood (f : OpenFields) : Bool :=
  decide (f.mode ≠ 3) && decide (f.sliceMask ≠ 0) && decide (1 ≤ f.maxBuf.toNat) &&
  decide (f.minBuf.toNat * (slicesOf f.sliceMask).length ≤ f.maxBuf.toNat) &&
  decide (1 ≤ f.outstanding.toNat) && decide (f.outstanding.toNat ≤ 256) && decide (1 ≤ f.rate.toNat) &&
  decide (f.ringBase.toNat % 64 = 0) && decide (4 ≤ f.ringLog2.toNat) && decide (f.ringLog2.toNat ≤ 9) &&
  inDmem f.ringBase.toNat (64 * 2 ^ f.ringLog2.toNat)

/-- The pooled buffers of a slice that no open stream has reserved (R120). -/
def RingDie.unreserved (r : RingDie) (slice : Nat) : Nat :=
  (r.pooledIn slice).length - (r.allStreams.map fun x => x.2.2.reserveIn slice).sum

/-- The checks of R118 on OPEN. -/
def State.openGood (s : State) (b : BayId) (f : OpenFields) : Bool :=
  openFieldsGood f && !(s.stream b (slotOf f.stream)).isOpen &&
    (slicesOf f.sliceMask).all fun slice => decide (f.minBuf.toNat ≤ (s.die b.die).unreserved slice)

/-- The slot opens: its reservation is made and its anchor is the time of the OPEN (R118, R120, R134). -/
def State.openStream (s : State) (b : BayId) (f : OpenFields) : State :=
  let now := s.now
  (s.modStream b (slotOf f.stream) fun t =>
    { ({} : Stream) with
      isOpen := true, conf := f, anchor := now, epoch := t.epoch, nextIdent := t.nextIdent
      mcTargets := t.mcTargets.filter fun m => f.mode = 2 && m.source = f.source }).modDie b.die RingDie.noteLow

/-- FETCH_OPEN (R118, R120). -/
def execFetchOpen (c : CmdHead) (f : OpenFields) (s : State) : Out :=
  .next (s.takeCmd c .fetch (.fetchOpen f) true true fun s =>
    if s.openGood c.bay f then (s.openStream c.bay f, .done) else (s, .badDescriptor))

/-- FETCH_POST (R117): the tail of the descriptor ring moves; a RECEIVE stream reads no descriptors. -/
def execFetchPost (c : CmdHead) (stream : BitVec 6) (count : BitVec 10) (s : State) : Out :=
  .next (s.takeCmd c .fetch (.fetchPost stream count) true true fun s =>
    let t := s.stream c.bay (slotOf stream)
    if t.isOpen ∧ t.conf.mode ≠ 2 ∧ 1 ≤ count.toNat ∧ count.toNat ≤ 512 then
      (s.modStream c.bay (slotOf stream) fun t => { t with posted := t.posted + count.toNat }, .done)
    else (s, .badDescriptor))

/-- FETCH_START (R117, R134). -/
def execFetchStart (c : CmdHead) (stream : BitVec 6) (delay : Word) (s : State) : Out :=
  .next (s.takeCmd c .fetch (.fetchStart stream delay) true true fun s =>
    if (s.stream c.bay (slotOf stream)).isOpen then
      let now := s.now
      (s.modStream c.bay (slotOf stream) fun t => { t with anchor := now + delay.zeroExtend 64 }, .done)
    else (s, .badDescriptor))

/-- FETCH_RELEASE (R117, R124). -/
def execFetchRelease (c : CmdHead) (stream : BitVec 6) (scaleSeq : Bool) (count : BitVec 14) (s : State) : Out :=
  .next (s.takeCmd c .fetch (.fetchRelease stream scaleSeq count) true true fun s =>
    let t := s.stream c.bay (slotOf stream)
    if t.isOpen ∧ count ≠ 0 ∧ t.canRelease scaleSeq count.toNat then
      (s.release c.bay (slotOf stream) scaleSeq count.toNat, .done)
    else (s, .badDescriptor))

/-- FETCH_CANCEL (R140, R141): the epoch rises as the command is taken; it completes at the end of the drain. -/
def execFetchCancel (c : CmdHead) (stream : BitVec 6) (s : State) : Out :=
  .next (s.takeCmd c .fetch (.fetchCancel stream) true true fun s =>
    if (s.stream c.bay (slotOf stream)).isOpen then (s.raiseEpoch c.bay (slotOf stream), .done)
    else (s, .badDescriptor))

/-- FETCH_CLOSE (R117): a cancellation; at the end of the drain every buffer is freed and the slot closes. -/
def execFetchClose (c : CmdHead) (stream : BitVec 6) (s : State) : Out :=
  .next (s.takeCmd c .fetch (.fetchClose stream) true true fun s =>
    if (s.stream c.bay (slotOf stream)).isOpen then
      ((s.raiseEpoch c.bay (slotOf stream)).modStream c.bay (slotOf stream) fun t => { t with closing := true }, .done)
    else (s, .badDescriptor))

/-! ## STORE (R128) -/

/-- The descriptor that a STORE command stands for: LINEAR, RAW bytes, reporting to the record's counter. -/
def storeDesc (f : StoreFields) (ident : Nat) (ctr : CtrIx) : FetchDesc :=
  { ident := ident, kind := 1, format := 6, across := false, rowsInner := false, complete := true, gated := f.gated,
    multicast := false, isStatic := f.isStatic, counter := ctr, gateBlock := f.gateBlock, gateStep := f.gateStep,
    src := f.dst.zeroExtend 64, aux := 0, rows := f.rows, cols := f.cols, rowStride := f.rowStride, scaleStride := 0,
    dest := f.src.zeroExtend 32, mcMask := 0, mcStream := 0, mcCounter := 0, tag := f.tag, wellFormed := true,
    issued := 0, landed := 0, status := .done, started := false, tableRead := 0, badTable := [], table := [],
    command := true }

/-- The checks of R129 on a static store. -/
def State.staticStoreGood (s : State) (b : BayId) (d : FetchDesc) : Bool :=
  !d.rows.msb && !d.cols.msb && (s.die b.die).staticGood d && s.descInMemory d

/-- A STORE with STATIC 0 joins its stream's sequence behind every descriptor posted so far (R128). -/
def State.appendStore (s : State) (b : BayId) (k : SlotIx) (f : StoreFields) (ctr : CtrIx) : State :=
  let t := s.stream b k
  let d := storeDesc f t.nextIdent ctr
  let d := { d with wellFormed := s.descGood b k d }
  let s := s.modStream b k fun t => { t with nextIdent := t.nextIdent + 1 }
  if t.posted = t.fetched ∧ t.appended = [] then
    (s.modStream b k fun t => { t with descs := t.descs ++ [d] }).settleStream b k
  else s.modStream b k fun t => { t with appended := t.appended ++ [(t.posted, d)] }

/-- STORE (R128): a static store runs in queue order; any other joins its STORE stream and reports on its counter there. -/
def execStore (c : CmdHead) (f : StoreFields) (s : State) : Out :=
  if f.isStatic then
    .next (s.takeCmd c .store (.store f) true true fun s =>
      if s.staticStoreGood c.bay (storeDesc f 0 c.ctr) then (s, .done) else (s, .badDescriptor))
  else
    let t := s.stream c.bay (slotOf f.stream)
    let taken := s.takeCmd c .store (.store f) true (t.isOpen && t.conf.mode = 1) fun s =>
      (s.appendStore c.bay (slotOf f.stream) f c.ctr, .done)
    let mine := match ((taken.bay c.bay).queue .store).running with
      | some r => decide (r.cmd = .store f)
      | none => false
    if mine && ((s.bay c.bay).queue .store).running.isNone then
      let freed := taken.modQueue c.bay .store fun x => { x with running := none }
      .next ((State.flushBad 64 freed c.bay .store).settleFuncs c.bay)
    else .next taken

/-! ## DESCRIPTOR_BATCH (R130) -/

/-- DESCRIPTOR_BATCH (R130): the next 16 posted descriptors, or all that are posted. -/
def execDescriptorBatch (b : BayId) (slot : SlotIx) (s : State) : Out :=
  let t := s.stream b slot
  .next (if t.isOpen ∧ t.fetched < t.posted ∧ t.descs.length + 16 ≤ 32 then
    let s := Nat.repeat (fun s => s.readStreamDesc b slot) (min 16 (t.posted - t.fetched)) s
    (s.countRing b.die 0x57).settleStores b slot
  else s)

/-! ## TRANSFER_ISSUE (R131) -/

/-- The descriptor whose transfer is next, and whether a gate holds the stream (R131, R133). -/
def State.nextDesc (s : State) : List FetchDesc → Option FetchDesc × Bool
  | [] => (none, false)
  | d :: rest =>
    if !d.wellFormed then s.nextDesc rest
    else if !s.gateOpen d then (none, true)
    else if d.issued < d.transfers then (some d, false)
    else s.nextDesc rest

/-- Parts of the index table that a transfer needs (R127). -/
def FetchDesc.tableNeeded (d : FetchDesc) (part : Nat) : Nat :=
  if d.kind = 3 then (min ((part + 1) * 65536) d.totalBytes - 1) / d.cols.toNat / 1024 + 1 else 0

/-- Address and bytes of a part of an index table (R127). -/
def FetchDesc.tableRange (d : FetchDesc) (part : Nat) : Nat × Nat :=
  (d.aux.toNat + 4096 * part, min 4096 (4 * d.rows.toNat - 4096 * part))

/-- Sectors of ranges without repeats: sill, sector, covered whole. -/
def State.rangeSectors (s : State) (ranges : List (Nat × Nat)) : List (SillId × Nat × Bool) :=
  (ranges.flatMap fun r => s.sectorsOf r.1 r.2).eraseDups

/-- The sills that serve ranges. -/
def State.rangeSills (s : State) (ranges : List (Nat × Nat)) : List SillId :=
  ((s.rangeSectors ranges).map fun x => x.1).eraseDups

/-- Scale bytes that a transfer carries (R131). -/
def FetchDesc.partScaleBytes (d : FetchDesc) (part : Nat) : Nat :=
  if d.kind = 2 then d.scaleBytes * (d.planksOf part).length else 0

/-- The transfer's first plank starts a scale buffer (R123). -/
def FetchDesc.startsScale (d : FetchDesc) (part : Nat) : Bool :=
  decide (d.kind = 2) && decide (d.perScaleBuffer ≠ 0) &&
    match d.planksOf part with
    | p :: _ => decide (p % d.perScaleBuffer = 0)
    | [] => false

/-- Buffers of the stream for a transfer: the scale buffer where one starts, then the element buffer; else the slice that lacks one
(R121, R123). -/
def State.takeForPart (s : State) (b : BayId) (k : SlotIx) (d : FetchDesc) (part : Nat) : Except Nat State :=
  let t := s.stream b k
  let first : Except Nat State := if d.startsScale part then (s.takeBuffer b k true 0).elim (.error (t.sliceFor t.nextScale)) .ok else .ok s
  first.bind fun s => (s.takeBuffer b k false (d.partBytes part)).elim (.error (t.sliceFor t.nextElem)) .ok

/-- Scale bytes of a transfer added to its scale buffer (R134). -/
def Stream.addScaleBytes (t : Stream) (n : Nat) : Stream :=
  if n = 0 then t
  else { (t.modBuffer true (t.nextScale - 1) fun x => { x with bytes := x.bytes + n }) with bytes := t.bytes + n }

/-- The transfer's request goes to its sills with its dry time (R131, R134, R135). -/
def State.sendRequest (s : State) (b : BayId) (k : SlotIx) (f : Transfer) : State :=
  f.sills.foldl (fun s m => s.modSill m fun x => { x with
    requests := x.requests ++ [⟨streamNumber b k, f.ident, f.part, f.dry⟩] }) s

/-- A transfer is issued, at the stream's dry time or that of a multicast's grants (R134, R135, R138). -/
def State.launch (s : State) (b : BayId) (k : SlotIx) (d : FetchDesc) (f : Transfer) (dry : Option DWord) : State :=
  let s := s.modStream b k fun t =>
    ({ t with flights := t.flights ++ [f] }).modDesc d.ident fun x =>
      if f.isTable then { x with started := true } else { x with issued := x.issued + 1, started := true }
  let f' := { f with dry := dry.getD (s.stream b k).requestDry }
  (s.modStream b k fun t => { t with flights := t.flights.map fun x => if x = f then f' else x }).sendRequest b k f'

/-- The group of a transfer's first plank among those that share a scale buffer (R123). -/
def FetchDesc.scaleGroup (d : FetchDesc) (part : Nat) : Nat :=
  match d.planksOf part with
  | p :: _ => p / d.perScaleBuffer
  | [] => 0

/-- A committed multicast's transfer is in flight to its targets: its bytes count in each one's B, elements and scales in their
buffers (R134, R138). -/
def State.bookTargets (s : State) (b : BayId) (k : SlotIx) (d : FetchDesc) (part : Nat) : State :=
  let source := s.logicalStream b k
  (diesOf d.mcMask).foldl (fun s die =>
    let (tb, tk) := s.mcTarget d die
    s.modStream tb tk fun u =>
      match u.mcTargets.find? fun m => m.source = source && m.ident = d.ident && m.granted && m.epoch = u.epoch with
      | none => u
      | some m =>
        let book (scale : Bool) (seq n : Nat) (u : Stream) : Stream :=
          if (u.held scale seq).isSome then
            { (u.modBuffer scale seq fun x => { x with bytes := x.bytes + n }) with bytes := u.bytes + n }
          else u
        book true (m.firstScale + d.scaleGroup part) (d.partScaleBytes part)
          (book false (m.firstElem + part) (d.partBytes part) u)) s

/-- A multicast's RESERVE goes out when no earlier one is in its reserve phase (R138). -/
def State.beginReserve (s : State) (b : BayId) (k : SlotIx) (d : FetchDesc) : State :=
  let now := s.now
  if (s.stream b k).mcasts.any fun m => !m.committed then s
  else s.modStream b k fun t =>
    let m : Multicast :=
      { ident := d.ident, targets := d.mcMask, granted := 0, landed := 0, earliest := 0, committed := false, since := now }
    ({ t with mcasts := t.mcasts ++ [m] }).modDesc d.ident fun x => { x with started := true }

/-- A transfer that a STORE stream fills is issued once its producer has filled the next buffer of the sequence: the buffer is
handed over now (R128, R135; log entry 114). -/
def State.issueStore (s : State) (b : BayId) (k : SlotIx) (d : FetchDesc) (flight : Nat → Nat → Transfer) : State :=
  let t := s.stream b k
  let now := s.now
  match t.held false t.nextDrain with
  | some u =>
    if d.partBytes d.issued ≤ u.bytes then
      (s.modStream b k fun t =>
        { (t.modBuffer false t.nextDrain fun x => { x with filled := true }) with anchor := now, nextDrain := t.nextDrain + 1 }).launch
        b k d (flight t.nextDrain 0) none
    else s
  | none => s

/-- The next transfer of a descriptor, with its buffers, is issued, or waits for a buffer, for its grants or for OUTSTANDING; the
parts of an index table count against no limit (R127, R131). -/
def State.issuePart (s : State) (b : BayId) (k : SlotIx) (d : FetchDesc) : State :=
  let t := s.stream b k
  let part := d.issued
  if d.tableRead < d.tableNeeded part then
    let range := d.tableRange d.tableRead
    s.launch b k d { ident := d.ident, part := d.tableRead, bufSeq := 0, epoch := t.epoch, dry := 0, bytes := range.2,
                     sills := s.rangeSills [range], begun := false, zeroed := [], scaleSeq := 0, isTable := true } none
  else if t.conf.outstanding.toNat ≤ t.flights.countP (fun f => !f.isTable) then s
  else
    let flight (bufSeq scaleSeq : Nat) : Transfer :=
      { ident := d.ident, part := part, bufSeq := bufSeq, epoch := t.epoch, dry := 0,
        bytes := d.partBytes part + d.partScaleBytes part, sills := s.rangeSills (d.partRanges part), begun := false,
        zeroed := [], scaleSeq := scaleSeq, isTable := false }
    if d.multicast then
      match t.mcasts.find? fun m => m.ident = d.ident with
      | none => s.beginReserve b k d
      | some m => if m.committed then (s.launch b k d (flight 0 0) (some m.earliest)).bookTargets b k d part else s
    else if d.isStatic then s.launch b k d (flight 0 0) none
    else if t.conf.mode = 1 then s.issueStore b k d flight
    else
      match s.takeForPart b k d part with
      | .error slice =>
        let s := s.modStream b k fun t => t.lack slice 1
        if (s.stream b k).waitsFor = some slice then s.countRing b.die 0x54 else s
      | .ok s' =>
        let s' := s'.modStream b k fun t => t.addScaleBytes (d.partScaleBytes part)
        let u := s'.stream b k
        s'.launch b k d (flight (u.nextElem - 1) (u.nextScale - 1)) none

/-- TRANSFER_ISSUE (R131): one pending request at a time, at most OUTSTANDING transfers issued and not landed. -/
def execTransferIssue (b : BayId) (slot : SlotIx) (s : State) : Out :=
  let s := s.settleStores b slot
  let t := s.stream b slot
  .next (if t.isOpen ∧ t.conf.mode ≠ 2 ∧ ¬t.flights.any fun f => !f.sills.isEmpty then
    match s.nextDesc t.descs with
    | (some d, _) => s.issuePart b slot d
    | (none, true) => s.countRing b.die 0x56
    | (none, false) => s
  else s)

/-! ## SILL_TRANSFER_START (R136) -/

/-- The pending request with the earliest dry time; ties go to the lower stream number (R136). -/
def earliestRequest : List SillRequest → Option SillRequest
  | [] => none
  | q :: rest =>
    match earliestRequest rest with
    | none => some q
    | some p => if dryBefore p.dry q.dry p.stream.toNat q.stream.toNat then some p else some q

/-- The status of a descriptor whose transfer met an uncorrectable sector; REPLAY is set (R153). -/
def State.spoilDesc (s : State) (b : BayId) (k : SlotIx) (ident : Nat) : State :=
  (s.modStream b k fun t => t.modDesc ident fun d => { d with status := .memoryUncorrectable }).setReplay

/-- A part of the index table has been read, its indices kept (R127). -/
def Stream.tableDone (t : Stream) (f : Transfer) (bad : Bool) (bytes : List Byte) : Stream :=
  let words := (List.range (bytes.length / 4)).map fun i => BitVec.ofNat 32 (field bytes (4 * i) 4)
  let t := t.modDesc f.ident fun d => { d with
    tableRead := d.tableRead + 1, badTable := if bad then d.badTable ++ [f.part] else d.badTable, table := d.table ++ words }
  { t with flights := t.flights.filter fun x => !(x.isTable && x.ident = f.ident && x.part = f.part) }

/-- One sill serves its part of a transfer: the sectors of a fetch are read and checked; of a store, those written in part
(R136, R146, R151, R153). -/
def State.serveTransfer (s : State) (sill : SillId) (b : BayId) (k : SlotIx) (d : FetchDesc) (f : Transfer)
    (found : List SectorEvent) : State :=
  let store := (s.stream b k).conf.mode = 1
  let ranges := if f.isTable then [d.tableRange f.part] else d.partRanges f.part
  let mine := (s.rangeSectors ranges).filter fun x => x.1 = sill && !(store && x.2.2)
  let (s, bad) := s.readList (mine.map fun x => (x.1, x.2.1)) found (!store)
  let s := if bad.isEmpty then s else s.spoilDesc b k d.ident
  let me (x : Transfer) : Bool := x.ident = f.ident && x.part = f.part && x.isTable = f.isTable
  let s := s.modStream b k fun t => { t with
    flights := t.flights.map fun x => if me x then { x with sills := x.sills.filter (· ≠ sill), begun := true, zeroed := x.zeroed ++ bad }
      else x }
  match (s.stream b k).flights.find? me with
  | some x =>
    if x.isTable && x.sills.isEmpty then
      let (a, n) := d.tableRange x.part
      s.modStream b k fun t => t.tableDone x (!x.zeroed.isEmpty) (s.readMem a n)
    else s
  | none => s

/-- SILL_TRANSFER_START (R136). -/
def execSillTransferStart (sill : SillId) (found : List SectorEvent) (s : State) : Out :=
  let s := s.modSill sill Sill.drainWriteBacks
  .next (match earliestRequest (s.sill sill).requests with
    | none => s
    | some q =>
      let s := s.modSill sill fun x => { x with requests := x.requests.filter (· ≠ q) }
      let (b, k) := bayOfStream q.stream
      let t := s.stream b k
      match t.flights.find? fun f => f.ident = q.ident && f.part = q.part && f.sills.contains sill,
            t.descs.find? fun d => d.ident = q.ident with
      | some f, some d => s.serveTransfer sill b k d f found
      | _, _ => s)

/-! ## TRANSFER_LAND (R131) -/

/-- A held buffer filled with bytes from an offset on; `full` marks it filled. -/
def State.fillBuffer (s : State) (b : BayId) (k : SlotIx) (scale : Bool) (seq offset : Nat) (bytes : List Byte)
    (full : Bool) (planks : List PlankRec) : State :=
  match (s.stream b k).held scale seq with
  | none => s
  | some u =>
    (s.writeLoft b.die (u.base + offset) bytes).modStream b k fun t =>
      t.modBuffer scale seq fun x => { x with filled := x.filled || full, planks := if scale then x.planks else planks }

/-- A plank is the last whose scale lines its scale buffer takes (R123). -/
def FetchDesc.lastInScale (d : FetchDesc) (p : Nat) : Bool :=
  decide ((p + 1) % d.perScaleBuffer = 0) || decide (p + 1 = d.plankGrid.1 * d.plankGrid.2)

/-- The data of a transfer lands in the buffers of a stream (R123, R127, R131). -/
def State.landIn (s : State) (b : BayId) (k : SlotIx) (d : FetchDesc) (f : Transfer) (elemSeq scaleSeq : Nat)
    (content : List Byte) (scales : List (Nat × List Byte)) : State :=
  let s := s.fillBuffer b k false elemSeq 0 content true (d.recordsOf f.part scaleSeq)
  let s := scales.foldl (fun s x =>
    s.fillBuffer b k true scaleSeq (d.scaleBytes * (x.1 % d.perScaleBuffer)) x.2 (d.lastInScale x.1) []) s
  s.modDie b.die fun r => r.moveBytes 0 f.bytes

/-- Bytes dropped on arrival at a die (R140, R144). -/
def State.waste (s : State) (d : DieId) (n : Nat) : State := s.modDie d fun r => r.moveBytes 2 n

/-- Beats of outside traffic wait for offered beats: inward or outward at a router (R80, R85). With no segment in progress they find
a beat at once (DESIGN CHOICE, log entry 136). -/
def State.offerBeats (s : State) (d : DieId) (r : Fin 4) (inward : Bool) (n : Nat) : State :=
  if (s.die d).segment.isNone then s.countRing d (0x29 + r.val) n
  else s.modDie d fun x => { x with routers := updAt x.routers r fun y =>
    if inward then { y with waitIn := y.waitIn + n } else { y with waitOut := y.waitOut + n } }

/-- Beats of sill-side data at a die's loft: they wait for reserved beats, or find them at once with no segment in progress (R84,
R85; log entry 136). -/
def State.reservedBeats (s : State) (d : DieId) (n : Nat) : State :=
  if (s.die d).segment.isNone then s.countRing d 0x27 n else s.modDie d fun x => { x with sillBeats := x.sillBeats + n }

/-- A stack's data on its fixed route to a die's loft, or with `out` from it: through the router of the sill, over each bridge,
and on the die's reserved loft beats (R14, R84, R85, R160). -/
def State.routeBeats (s : State) (m : SillId) (d : DieId) (out : Bool) (n : Nat) : State :=
  let s := s.offerBeats (ownerOfSill m) (sillRouter m) (!out) n
  let s := (stackRoute m d).foldl (fun s x =>
    let s := s.offerBeats x.1 x.2 out n
    match acrossRouter x.1 x.2 with
    | some y => s.offerBeats y (facing x.2) (!out) n
    | none => s) s
  s.reservedBeats d n

/-- Beats of the sectors that a sill serves of some ranges. -/
def State.sillBeatsOf (s : State) (ranges : List (Nat × Nat)) (m : SillId) : Nat :=
  ceilDiv (64 * (s.rangeSectors ranges).countP fun x => x.1 = m) 1024

/-- The data of a transfer travels between its stacks and a die's loft (R85, R160). -/
def State.carryTransfer (s : State) (d : DieId) (out : Bool) (ranges : List (Nat × Nat)) : State :=
  (s.rangeSills ranges).foldl (fun s m => s.routeBeats m d out (s.sillBeatsOf ranges m)) s

/-- The data of a multicast's transfer arrives at one target: it lands, or is dropped under an old epoch (R138, R142). -/
def State.landAt (s : State) (source : BitVec 12) (d : FetchDesc) (f : Transfer) (content : List Byte)
    (scales : List (Nat × List Byte)) (die : DieId) : State :=
  let (tb, tk) := s.mcTarget d die
  let t := s.stream tb tk
  match t.mcTargets.find? fun m => m.source = source && m.ident = d.ident with
  | none => s.waste die f.bytes
  | some m =>
    let s := s.modStream tb tk fun u => { u with
      mcTargets := u.mcTargets.map fun x => if x = m then { x with left := x.left - 1 } else x }
    if m.epoch = t.epoch then
      s.landIn tb tk d f (m.firstElem + f.part) (m.firstScale + d.scaleGroup f.part) content scales
    else s.waste die f.bytes

/-- The landing of a transfer whose descriptor the stream still holds. -/
def State.landTransfer (s : State) (b : BayId) (k : SlotIx) (d : FetchDesc) (f : Transfer) : State :=
  let content := s.partContent d f.zeroed f.part
  let scales := if d.kind = 2 ∧ d.perScaleBuffer ≠ 0 then
      (d.planksOf f.part).map fun p => (p, s.plankScales d f.zeroed p)
    else []
  let ranges := d.partRanges f.part
  let s :=
    if d.multicast then
      (diesOf d.mcMask).foldl (fun s die =>
        (s.carryTransfer die false ranges).landAt (s.logicalStream b k) d f content scales die) s
    else
      let s := s.carryTransfer b.die false ranges
      if d.isStatic then
        (s.writeLoft b.die (d.dest.toNat + 65536 * f.part) content).modDie b.die fun r => r.moveBytes 0 f.bytes
      else s.landIn b k d f f.bufSeq f.scaleSeq content scales
  (s.modStream b k fun t => t.modDesc d.ident fun x => { x with landed := x.landed + 1 }).settleStores b k

/-- The transfers that all their sills have started, oldest first; a part of an index table lands nothing, but one of an older epoch
is still to arrive and be dropped (R127, R141). -/
def Stream.served (t : Stream) : List Transfer := t.flights.filter fun f => f.sills.isEmpty && (!f.isTable || f.epoch ≠ t.epoch)

/-- The oldest served transfer. -/
def Stream.ready (t : Stream) : Option Transfer := t.served.head?

/-- A transfer leaves the stream's list. -/
def Stream.dropFlight (t : Stream) (f : Transfer) : Stream := { t with flights := t.flights.erase f }

/-- TRANSFER_LAND (R131, R132, R136, R140): one of the served transfers lands, or is dropped under an old epoch; `order` is its
place among them, since data comes in the order of the DRAM returns. A landing after its dry time is counted at its sills (R136). -/
def execTransferLand (b : BayId) (slot : SlotIx) (order : Nat) (s : State) : Out :=
  let t := s.stream b slot
  .next (if t.conf.mode = 1 then s
  else
    match t.served[order]? with
    | none => s
    | some f =>
      let late := dryBefore f.dry s.now 0 0
      let s := s.modStream b slot fun t => t.dropFlight f
      match t.descs.find? fun d => d.ident = f.ident with
      | none => s.waste b.die f.bytes
      | some d =>
        let s := if late then
            (s.rangeSills (d.partRanges f.part)).foldl (fun s m => s.countSill m 0x00) s
          else s
        s.landTransfer b slot d f)

/-! ## STORE_SECTOR_WRITTEN (R128) -/

/-- The oldest served transfer of a STORE stream is written; its buffer is freed and its descriptor may complete. -/
def State.storeWritten (s : State) (b : BayId) (k : SlotIx) (d : FetchDesc) (f : Transfer) : State :=
  let s := s.carryTransfer b.die true (d.partRanges f.part)
  let (s, dropped) := s.writePart b d f.part (s.storeBytes b k d f)
  let s := s.modStream b k fun t => (t.dropFlight f).modDesc d.ident fun x => { x with
    landed := x.landed + 1, status := if dropped then .memoryUncorrectable else x.status }
  let s := if d.isStatic then s
    else (s.modStream b k fun t => t.dropBuffers fun x => !x.scale && x.seqNo = f.bufSeq).modDie b.die RingDie.noteLow
  (s.tryGrants b.die).settleStores b k

/-- A static STORE that has been taken is written whole once its gate is open, and its command finishes (R128, R133). -/
def State.staticStore (s : State) (b : BayId) (f : StoreFields) (r : RunningCmd) : State :=
  let d := storeDesc f 0 r.ctr
  if s.gateOpen d then
    let ranges := (List.range d.rows.toNat).map fun i => (d.rowAddr i, d.cols.toNat)
    let inPart := ((s.rangeSectors ranges).filter fun x => !x.2.2).map fun x => (x.1, x.2.1)
    let (s, bad) := s.readList inPart [] false
    let s := if bad.isEmpty then s else s.setReplay
    let dropped := ranges.any fun x => s.touchesRetired x.1 x.2
    let bytes := s.readLoft b.die d.dest.toNat d.totalBytes
    let s := ((s.carryTransfer b.die true ranges).writeRanges ranges bytes).modDie b.die fun x => x.moveBytes 1 bytes.length
    s.finishRunning b .store { r with status := if dropped || !bad.isEmpty then .memoryUncorrectable else r.status }
  else s.countRing b.die 0x56

/-- STORE_SECTOR_WRITTEN (R128, R132). -/
def execStoreSectorWritten (b : BayId) (slot : Option SlotIx) (s : State) : Out :=
  .next (match slot with
    | none =>
      match ((s.bay b).queue .store).running with
      | some r =>
        match r.cmd with
        | .store f => if statusError r.status then s.finishRunning b .store r else s.staticStore b f r
        | _ => s
      | none => s
    | some k =>
      let t := s.stream b k
      match t.ready with
      | some f =>
        match t.descs.find? fun d => d.ident = f.ident with
        | some d => if t.conf.mode = 1 then s.storeWritten b k d f else s
        | none => s
      | none => s)

/-! ## Multicast (R138, R139, R142) -/

/-- The source stream's descriptor in its reserve phase, by the logical number that its targets know. -/
def State.mcSource (s : State) (target : BayId) (source : BitVec 12) : Option FetchDesc :=
  let die : DieId := ⟨source.toNat / 256, by omega⟩
  let (b, k) := (s.die die).physStream source
  let t := s.stream ⟨die, b⟩ k
  t.descs.find? fun d => d.mcMask.getLsbD target.die.val && t.mcasts.any fun m => m.ident = d.ident && !m.committed

/-- Element buffers among the buffers that a multicast descriptor needs (R123, R138). -/
def FetchDesc.mcElems (d : FetchDesc) : Nat := d.transfers

/-- Buffers that a multicast descriptor needs in all. -/
def FetchDesc.mcCount (d : FetchDesc) : Nat :=
  d.transfers + (if d.kind = 2 ∧ d.perScaleBuffer ≠ 0 then ceilDiv (d.plankGrid.1 * d.plankGrid.2) d.perScaleBuffer else 0)

/-- MULTICAST_RESERVE (R138): the request of a source's multicast in its reserve phase, for the buffers that it needs, queues behind
earlier ones and is granted in full when it can be; a request with another count is no request of that source. -/
def execMulticastReserve (target : BayId) (source : BitVec 12) (slot : SlotIx) (buffers : Nat) (s : State) : Out :=
  let t := s.stream target slot
  .next (match s.mcSource target source with
    | none => s
    | some d =>
      if t.isOpen ∧ t.conf.mode = 2 ∧ t.conf.source = source ∧ buffers = d.mcCount then
        let entry : McTarget :=
          { source := source, ident := d.ident, count := d.mcCount, granted := false, committed := false, aborting := false
            epoch := t.epoch, counter := d.mcCounter, firstElem := 0, firstScale := 0, left := d.mcElems, dry := 0 }
        let known := t.mcTargets.any fun m => m.source = source && m.ident = d.ident
        (if known then s else s.modStream target slot fun t => { t with mcTargets := t.mcTargets ++ [entry] }).tryGrant target slot
      else s)

/-- COMMIT is sent when every target has granted; the commit and its wait are counted (R138, R144). -/
def State.tryCommit (s : State) (b : BayId) (k : SlotIx) (m : Multicast) : State :=
  if m.granted = m.targets then
    let micros := (s.now - m.since).toNat / 1000
    (s.modStream b k fun t => { t with
      mcasts := t.mcasts.map fun x => if x.ident = m.ident then { m with committed := true } else x }).modDie b.die fun r =>
      { (r.count 0x59) with counters := (r.count 0x59).counters.raiseTo 0x5B micros }
  else s

/-- Nanoseconds that a source die waits for the grants of a multicast; a field of 0 acts as 50 us (R139). -/
def State.mcastNs (s : State) (d : DieId) : Nat :=
  let us := ((s.die d).mcastTimeout.extractLsb' 0 16).toNat
  1000 * if us = 0 then 50 else us

/-- The timeout of a multicast has passed since its first RESERVE (R139). -/
def State.mcastLate (s : State) (d : DieId) (m : Multicast) : Bool := decide (s.mcastNs d ≤ (s.now - m.since).toNat)

/-- MULTICAST_GRANT (R138): a GRANT of a target that has granted reaches the source with that target's dry time, and one with
another dry time is no GRANT of it; one that comes when the timeout has passed counts as missing (R139). -/
def execMulticastGrant (source : BayId) (slot : SlotIx) (die : DieId) (dry : DWord) (s : State) : Out :=
  let t := s.stream source slot
  .next (match t.mcasts.find? fun m => !m.committed with
    | none => s
    | some m =>
      let granted : Option McTarget := (t.descs.find? fun d => d.ident = m.ident).bind fun d =>
        let (tb, tk) := s.mcTarget d die
        (s.stream tb tk).mcTargets.find? fun x =>
          x.source = s.logicalStream source slot && x.ident = m.ident && x.granted && x.dry = dry
      match granted with
      | none => s
      | some x =>
        if m.targets.getLsbD die.val && !m.granted.getLsbD die.val && !s.mcastLate source.die m then
          let m' := { m with
            granted := m.granted ||| BitVec.ofNat 16 (2 ^ die.val)
            earliest := if m.granted = 0 ∨ dryBefore x.dry m.earliest 0 0 then x.dry else m.earliest }
          (s.modStream source slot fun t => { t with
            mcasts := t.mcasts.map fun x => if x.ident = m.ident then m' else x }).tryCommit source slot m'
        else s)

/-- The source of a multicast at a target has committed it. -/
def State.sourceCommitted (s : State) (m : McTarget) : Bool :=
  let die : DieId := ⟨m.source.toNat / 256, by omega⟩
  let (b, k) := (s.die die).physStream m.source
  (s.stream ⟨die, b⟩ k).mcasts.any fun x => x.ident = m.ident && x.committed

/-- MULTICAST_COMMIT (R138): the COMMIT of a source reaches a target; the next request is looked at. -/
def execMulticastCommit (target : BayId) (slot : SlotIx) (s : State) : Out :=
  let t := s.stream target slot
  .next (match t.mcTargets.find? fun m => m.granted && !m.committed && s.sourceCommitted m with
    | none => s
    | some m => (s.modStream target slot fun t => { t with
        mcTargets := t.mcTargets.map fun x => if x = m then { x with committed := true } else x }).tryGrant target slot)

/-- MULTICAST_ABORT (R139): the grant is freed or the queued request withdrawn, no sequence number is used, and MC_COUNTER
counts a MULTICAST_TIMEOUT. -/
def execMulticastAbort (target : BayId) (slot : SlotIx) (s : State) : Out :=
  let t := s.stream target slot
  .next (match t.mcTargets.find? fun m => m.aborting with
    | none => s
    | some m =>
      let s := s.modStream target slot fun t =>
        let t := { t with mcTargets := t.mcTargets.erase m }
        if m.granted ∧ m.epoch = t.epoch then
          { (t.dropBuffers fun x => if x.scale then decide (m.firstScale ≤ x.seqNo) else decide (m.firstElem ≤ x.seqNo)) with
            nextElem := m.firstElem, nextScale := m.firstScale }
        else t
      let s := s.modBay target fun y => y.countDone m.counter .multicastTimeout
      (s.modDie target.die RingDie.noteLow).tryGrants target.die)

/-- MULTICAST_TIMEOUT (R139): a GRANT is missing when the timeout has passed since the first RESERVE; ABORT goes to every target and
the descriptor completes so. -/
def execMulticastTimeout (source : BayId) (slot : SlotIx) (s : State) : Out :=
  let t := s.stream source slot
  .next (match t.mcasts.find? fun m => !m.committed with
    | none => s
    | some m =>
      if s.mcastLate source.die m then
        let s := (s.sendAborts source slot).countRing source.die 0x5A
        (s.modStream source slot fun t =>
          ({ t with mcasts := t.mcasts.filter fun x => x.ident ≠ m.ident }).modDesc m.ident fun d =>
            { d with status := .multicastTimeout, issued := d.transfers, landed := d.transfers }).settleStores source slot
      else s)

/-- MULTICAST_LANDED (R138, R142): MC_COUNTER counts DONE and the source hears of the landing. -/
def execMulticastLanded (target : BayId) (slot : SlotIx) (s : State) : Out :=
  let t := s.stream target slot
  .next (match t.mcTargets.find? fun m => m.committed && m.left = 0 with
    | none => s
    | some m =>
      let s := s.modStream target slot fun t => { t with mcTargets := t.mcTargets.erase m }
      let s := s.modBay target fun y => y.countDone m.counter .done
      let die : DieId := ⟨m.source.toNat / 256, by omega⟩
      let (b, k) := (s.die die).physStream m.source
      let me : BitVec 16 := BitVec.ofNat 16 (2 ^ target.die.val)
      let s := s.modStream ⟨die, b⟩ k fun t => { t with
        mcasts := t.mcasts.map fun x =>
          if x.ident = m.ident && x.committed then { x with landed := x.landed ||| me } else x }
      (s.settleStores ⟨die, b⟩ k).tryGrants target.die)

end Sys2Proof.Machine
end

