-- ==== Sys2Proof/Machine/Onesk.lean ====
section
/-! DEFINITION. The Onesk instructions (R257, R258). A row of this family is one issue of the instruction by the thread whose
turn it is; another thread issues nothing (R75). The words of an instruction bank spell these commands by `oneskCommand`. -/

namespace Sys2Proof.Machine

/-! ## Issue -/

/-- A thread of a control core. -/
def State.thread (s : State) (t : ThreadRef) : Thread := (s.bay t.bay).threads[t.thread]

/-- A thread changed. -/
def State.modThread (s : State) (t : ThreadRef) (f : Thread → Thread) : State :=
  s.modBay t.bay fun y => y.modThread t.thread f

/-- The index after a jump by a number of words; an index is 16 bits (R257). -/
def jumpBy (pc : Nat) (by' : Int) : Nat := ((pc + by') % 65536).toNat

/-- The index of the next word. -/
def nextPc (pc : Nat) : Nat := (pc + 1) % 65536

/-- The thread goes on to the next word. -/
def Thread.step (x : Thread) : Thread := { x with pc := nextPc x.pc }

/-- A register written, and on to the next word. -/
def Thread.put (x : Thread) (d : Fin 16) (v : DWord) : Thread := { x.step with regs := x.regs.set d v }

/-- The thread whose turn it is: the next ready one after the thread that issued last, in ascending number, wrapping from 7 to 0
(R75). -/
def Bay.nextReady (y : Bay) : Option ThreadIx :=
  ((List.finRange 8).map fun i => y.lastIssued + 1 + i).find? fun t => y.threads[t].mode = .ready

/-- The thread whose turn it is issues; any other issues nothing (R75). -/
def State.issue (s : State) (t : ThreadRef) (f : State → State) : State :=
  if (s.bay t.bay).nextReady = some t.thread then f (s.modBay t.bay fun y => { y with lastIssued := t.thread }) else s

/-- A ready thread issues an instruction that changes only the thread. -/
def State.issueThread (s : State) (t : ThreadRef) (f : Thread → Thread) : State := s.issue t fun s => s.modThread t f

/-- The thread's core crashes at the instruction (R257, R296). -/
def State.crashAt (s : State) (t : ThreadRef) : State := s.crash t.bay t.thread.val (s.thread t).pc

/-- B[5:0] (R258). -/
def shiftCount (b : DWord) : Nat := (b.extractLsb' 0 6).toNat

/-- -1, 0 or +1 (R258). -/
def compareTo (below same : Bool) : DWord := if below then -1 else if same then 0 else 1

/-! ## Arithmetic and logic -/

/-- HOLD: none (R258). -/
def execHold (t : ThreadRef) (s : State) : Out := .next (s.issueThread t Thread.step)

/-- SUM: D = A + B, modulo 2^64 (R258). -/
def execSum (t : ThreadRef) (d a b : Fin 16) (s : State) : Out :=
  .next (s.issueThread t fun x => x.put d (x.regs[a] + x.regs[b]))

/-- DIFF: D = A - B, modulo 2^64 (R258). -/
def execDiff (t : ThreadRef) (d a b : Fin 16) (s : State) : Out :=
  .next (s.issueThread t fun x => x.put d (x.regs[a] - x.regs[b]))

/-- PROD: the low 64 bits of A x B (R258). -/
def execProd (t : ThreadRef) (d a b : Fin 16) (s : State) : Out :=
  .next (s.issueThread t fun x => x.put d (x.regs[a] * x.regs[b]))

/-- BAND: D = A and B (R258). -/
def execBand (t : ThreadRef) (d a b : Fin 16) (s : State) : Out :=
  .next (s.issueThread t fun x => x.put d (x.regs[a] &&& x.regs[b]))

/-- BOR: D = A or B (R258). -/
def execBor (t : ThreadRef) (d a b : Fin 16) (s : State) : Out :=
  .next (s.issueThread t fun x => x.put d (x.regs[a] ||| x.regs[b]))

/-- BXOR: D = A exclusive-or B (R258). -/
def execBxor (t : ThreadRef) (d a b : Fin 16) (s : State) : Out :=
  .next (s.issueThread t fun x => x.put d (x.regs[a] ^^^ x.regs[b]))

/-- LSH: A shifted left by B[5:0] (R258). -/
def execLsh (t : ThreadRef) (d a b : Fin 16) (s : State) : Out :=
  .next (s.issueThread t fun x => x.put d (x.regs[a] <<< shiftCount x.regs[b]))

/-- RSH: A shifted right by B[5:0], filling with 0 (R258). -/
def execRsh (t : ThreadRef) (d a b : Fin 16) (s : State) : Out :=
  .next (s.issueThread t fun x => x.put d (x.regs[a] >>> shiftCount x.regs[b]))

/-- RSHS: A shifted right by B[5:0], filling with the sign (R258). -/
def execRshs (t : ThreadRef) (d a b : Fin 16) (s : State) : Out :=
  .next (s.issueThread t fun x => x.put d (x.regs[a].sshiftRight (shiftCount x.regs[b])))

/-- CMPS: -1, 0 or +1, compared signed (R258). -/
def execCmps (t : ThreadRef) (d a b : Fin 16) (s : State) : Out :=
  .next (s.issueThread t fun x => x.put d (compareTo (x.regs[a].slt x.regs[b]) (x.regs[a] = x.regs[b])))

/-- CMPU: -1, 0 or +1, compared unsigned (R258). -/
def execCmpu (t : ThreadRef) (d a b : Fin 16) (s : State) : Out :=
  .next (s.issueThread t fun x => x.put d (compareTo (x.regs[a].ult x.regs[b]) (x.regs[a] = x.regs[b])))

/-- COPY: D = A (R258). -/
def execCopy (t : ThreadRef) (d a : Fin 16) (s : State) : Out := .next (s.issueThread t fun x => x.put d x.regs[a])

/-- SUMI: D = A + IMM, sign-extended (R258). -/
def execSumi (t : ThreadRef) (d a : Fin 16) (imm : BitVec 16) (s : State) : Out :=
  .next (s.issueThread t fun x => x.put d (x.regs[a] + imm.signExtend 64))

/-- BANDI: D = A and IMM, zero-extended (R258). -/
def execBandi (t : ThreadRef) (d a : Fin 16) (imm : BitVec 16) (s : State) : Out :=
  .next (s.issueThread t fun x => x.put d (x.regs[a] &&& imm.zeroExtend 64))

/-- BORI: D = A or IMM, zero-extended (R258). -/
def execBori (t : ThreadRef) (d a : Fin 16) (imm : BitVec 16) (s : State) : Out :=
  .next (s.issueThread t fun x => x.put d (x.regs[a] ||| imm.zeroExtend 64))

/-- LSHI: A shifted left by IMM[5:0] (R258). -/
def execLshi (t : ThreadRef) (d a : Fin 16) (imm : BitVec 16) (s : State) : Out :=
  .next (s.issueThread t fun x => x.put d (x.regs[a] <<< (imm.extractLsb' 0 6).toNat))

/-- The 16 bits of a register at quarter `q` replaced (R258). -/
def placeBits (v : DWord) (q : Nat) (imm : BitVec 16) : DWord :=
  (v &&& ~~~((0xFFFF : DWord) <<< (16 * q))) ||| (imm.zeroExtend 64 <<< (16 * q))

/-- PLACE: D[16q+15:16q] = IMM, q the A field's low 2 bits (R258). -/
def execPlace (t : ThreadRef) (d : Fin 16) (a : BitVec 4) (imm : BitVec 16) (s : State) : Out :=
  .next (s.issueThread t fun x => x.put d (placeBits x.regs[d] (a.toNat % 4) imm))

/-- SET: D = IMM20, sign-extended (R258). -/
def execSet (t : ThreadRef) (d : Fin 16) (imm : BitVec 20) (s : State) : Out :=
  .next (s.issueThread t fun x => x.put d (imm.signExtend 64))

/-! ## Data memory (R257, R258) -/

/-- A + scale x IMM, IMM signed. -/
def dataAddr (a : DWord) (scale : Nat) (imm : BitVec 16) : DWord := a + BitVec.ofNat 64 scale * imm.signExtend 64

/-- An access of `n` bytes is aligned to `n` and lies within the 64 KiB (R257). -/
def dataGood (addr : DWord) (n : Nat) : Bool := decide (addr.toNat % n = 0) && inDmem addr.toNat n

/-- A load of `n` bytes, zero-extended, or a crash (R257). -/
def State.loadData (s : State) (t : ThreadRef) (d a : Fin 16) (imm : BitVec 16) (n : Nat) : State :=
  s.issue t fun s =>
    let addr := dataAddr (s.thread t).regs[a] n imm
    if dataGood addr n then
      s.modThread t fun x => x.put d (BitVec.ofNat 64 ((s.bay t.bay).dmem.readNat addr.toNat n))
    else s.crashAt t

/-- A store of the low `n` bytes of D, or a crash (R257). -/
def State.storeData (s : State) (t : ThreadRef) (d a : Fin 16) (imm : BitVec 16) (n : Nat) : State :=
  s.issue t fun s =>
    let addr := dataAddr (s.thread t).regs[a] n imm
    if dataGood addr n then
      let v := (s.thread t).regs[d].toNat
      (s.modBay t.bay fun y => { y with dmem := y.dmem.write addr.toNat (leBytes n v) }).modThread t Thread.step
    else s.crashAt t

/-- LOAD8: D = memory[A + 8 x IMM] (R258). -/
def execLoad8 (t : ThreadRef) (d a : Fin 16) (imm : BitVec 16) (s : State) : Out := .next (s.loadData t d a imm 8)

/-- STORE8: memory[A + 8 x IMM] = D (R258). -/
def execStore8 (t : ThreadRef) (d a : Fin 16) (imm : BitVec 16) (s : State) : Out := .next (s.storeData t d a imm 8)

/-- LOAD4: D = memory[A + 4 x IMM], 4 bytes, zero-extended (R258). -/
def execLoad4 (t : ThreadRef) (d a : Fin 16) (imm : BitVec 16) (s : State) : Out := .next (s.loadData t d a imm 4)

/-- STORE4: memory[A + 4 x IMM] = D[31:0] (R258). -/
def execStore4 (t : ThreadRef) (d a : Fin 16) (imm : BitVec 16) (s : State) : Out := .next (s.storeData t d a imm 4)

/-! ## Control flow -/

/-- A COND B; none for a COND the table does not list (R258). -/
def condHolds (cond : BitVec 4) (a b : DWord) : Option Bool :=
  match cond.toNat with
  | 0 => some (a = b)
  | 1 => some (a ≠ b)
  | 2 => some (a.slt b)
  | 3 => some (!a.slt b)
  | 4 => some (a.ult b)
  | 5 => some (!a.ult b)
  | _ => none

/-- TEST: branch by OFF if A COND B holds; a word with another COND is undefined and crashes the core (R257, R258). -/
def execTest (t : ThreadRef) (cond : BitVec 4) (a b : Fin 16) (off : BitVec 12) (s : State) : Out :=
  .next (s.issue t fun s =>
    match condHolds cond (s.thread t).regs[a] (s.thread t).regs[b] with
    | none => s.crashAt t
    | some true => s.modThread t fun x => { x with pc := jumpBy x.pc off.toInt }
    | some false => s.modThread t Thread.step)

/-- CALL: D = index of the next word; then a jump by IMM20 words from this word (R258). -/
def execCall (t : ThreadRef) (d : Fin 16) (imm : BitVec 20) (s : State) : Out :=
  .next (s.issueThread t fun x =>
    { x with regs := x.regs.set d (BitVec.ofNat 64 (nextPc x.pc)), pc := jumpBy x.pc imm.toInt })

/-- CODE_WORDS of the image a core runs. -/
def Bay.codeWords (y : Bay) : Nat := y.banks[y.activeBank].length

/-- GOTO: a jump to the index held in A; one at or beyond CODE_WORDS crashes the core (R257, R258). -/
def execGoto (t : ThreadRef) (a : Fin 16) (s : State) : Out :=
  .next (s.issue t fun s =>
    let target := (s.thread t).regs[a].toNat
    if target < (s.bay t.bay).codeWords then s.modThread t fun x => { x with pc := target } else s.crashAt t)

/-! ## Queues, counters and time -/

/-- The queue of a number; 6 to 15 are undefined (R258). -/
def queueOfNo (n : BitVec 4) : Option QueueIx := allQueues[n.toNat]?

/-- The present attempt is abandoned: threads halt at their next push or wait (R297). -/
def State.abandoning (s : State) : Bool := s.job.abandoned && s.kp.state = .running

/-- A push of a record by the queue's producer: DISABLED at once where the function is off (R90), STALL where the queue is
full (R76), else one more command in the queue. -/
def State.pushRecord (s : State) (t : ThreadRef) (q : QueueIx) (c : QueuedCmd) : State :=
  if (s.bay t.bay).queueState q ≠ .enabled then
    (s.modThread t Thread.step).finishCmd t.bay q c.ctr .disabled (cmdTag c.cmd)
  else if ((s.bay t.bay).queue q).waiting.length < 64 then
    State.flushBad 64
      ((s.modThread t Thread.step).modQueue t.bay q fun x => { x with waiting := x.waiting ++ [c] }) t.bay q
  else
    (s.countRing t.bay.die (0x31 + t.bay.bay.val)).modThread t fun x =>
      { x.step with mode := .stall q c.ctr c.unusedClear c.cmd }

/-- PUSH (R76, R257, R258): a bad address, an undefined queue and a wrong producer crash the core; under a disable of the bay
or an abandoned attempt the thread halts instead (R90, R297). -/
def execPush (t : ThreadRef) (queue : BitVec 4) (a : Fin 16) (imm : BitVec 16) (s : State) : Out :=
  .next (s.issue t fun s =>
    if s.abandoning || (s.bay t.bay).func .bay ≠ .enabled then s.modThread t fun x => { x with mode := .halted }
    else
      match queueOfNo queue with
      | none => s.crashAt t
      | some q =>
        let addr := (s.thread t).regs[a] + imm.signExtend 64
        if addr.toNat % 64 ≠ 0 ∨ inDmem addr.toNat 64 = false then s.crashAt t
        else if ((s.bay t.bay).queue q).producer ≠ t.thread then s.crashAt t
        else s.pushRecord t q (readRecord q ((s.bay t.bay).dmem.read addr.toNat 64)))

/-- WAIT (R77, R258): until the counter reaches the value in A. -/
def execWait (t : ThreadRef) (ctr : CtrIx) (a : Fin 16) (s : State) : Out :=
  .next (s.issue t fun s =>
    if s.abandoning then s.modThread t fun x => { x with mode := .halted }
    else
      let target : Word := (s.thread t).regs[a].extractLsb' 0 32
      if reached (s.bay t.bay).counters[ctr].value target then s.modThread t Thread.step
      else s.modThread t fun x => { x.step with mode := .wait ctr target })

/-- READC (R258). -/
def execReadc (t : ThreadRef) (d : Fin 16) (ctr : CtrIx) (s : State) : Out :=
  .next (s.issueThread t fun x => x.put d (s.bay t.bay).counters[ctr].readc)

/-- CLOCK: D = board time in ns (R258). -/
def execClock (t : ThreadRef) (d : Fin 16) (s : State) : Out := .next (s.issueThread t fun x => x.put d s.now)

/-- STOP: the thread ends, HALTED until the next program start (R258). -/
def execStop (t : ThreadRef) (s : State) : Out := .next (s.issueThread t fun x => { x with mode := .halted })

end Sys2Proof.Machine
end

