-- ==== Sys2Proof/Machine/Pldm.lean ====
section
/-! DEFINITION. The PLDM terminus on MCTP over I3C (R338): sensor readings, descriptor records, the event receiver, and base
control. A response is kept as its completion code and the values that R338 names; PLDM's own framing and numbers are from
outside the spec (log entry 29). -/

namespace Sys2Proof.Machine

/-- The numeric sensors of R338. -/
def pldmSensors : List (BitVec 16) :=
  [0x0101, 0x0102, 0x0103, 0x0104, 0x0105, 0x0106] ++ (List.range 15).map fun i => BitVec.ofNat 16 (0x0111 + i)

/-- The forecast AMIN of the k-th minute after the present one, in W (R338). -/
def State.forecast (s : State) (k : Nat) : Nat :=
  let l := s.limitsAt (s.minuteNow + k)
  if s.kp.state = .idle then max (100 * l.floor) 1100 else max (100 * l.floor) (min s.pwr.amin (100 * l.ceiling))

/-- A sensor's reading in W (R338). -/
def State.sensorReading (s : State) (x : BitVec 16) : Option Nat :=
  match x.toNat with
  | 0x0101 => some s.pwr.a10
  | 0x0102 => some s.pwr.a100
  | 0x0103 => some s.pwr.amin
  | 0x0104 => some (100 * s.limits.ceiling)
  | 0x0105 => some (100 * s.limits.floor)
  | 0x0106 => some s.pwr.husk
  | n => if 0x0111 ≤ n ∧ n ≤ 0x011F then some (s.forecast (n - 0x0110)) else none

/-- A PLDM response; while AUX is off or the power core restarts none is given (R289, R290). -/
def State.pldmSay (s : State) (bytes : List Byte) : State :=
  if s.pkg.aux && s.powerRuns then { s with io := { s.io with pldm := bytes } } else s

/-- GET_SENSOR_READING (R338). -/
def execGetSensorReading (sensor : BitVec 16) (s : State) : Out :=
  .next (s.pldmSay (match s.sensorReading sensor with
    | some w => 0x00 :: leBytes 2 (min w 65535)
    | none => [0x80]))

/-- GET_PDR (R338): record handles run from 1 in the order of R338's table, and 0 asks for the first. -/
def execGetPdr (record : Word) (s : State) : Out :=
  .next (s.pldmSay (match pldmSensors[record.toNat - 1]? with
    | some x => 0x00 :: leBytes 4 (max record.toNat 1) ++ leBytes 2 x.toNat ++ [0]
    | none => [0x82]))

/-- GET_PDR_REPOSITORY_INFO (R338). -/
def execGetPdrRepositoryInfo (s : State) : Out := .next (s.pldmSay (0x00 :: leBytes 4 pldmSensors.length))

/-- SET_EVENT_RECEIVER (R338). -/
def execSetEventReceiver (eid : Byte) (enabled : Bool) (s : State) : Out :=
  .next (if s.pkg.aux && s.powerRuns then
      ({ s with pwr := { s.pwr with receiver := if enabled then some eid else none } } : State).pldmSay [0x00]
    else s)

/-- GET_TID (R338). -/
def execGetTid (s : State) : Out := .next (s.pldmSay [0x00, Config.pldmTid])

/-- GET_PLDM_TYPES (R338): base control and platform monitoring, types 0 and 2. -/
def execGetPldmTypes (s : State) : Out := .next (s.pldmSay (0x00 :: leBytes 8 0x05))

/-- A PLDM type the module implements. -/
def pldmType (type : Byte) : Bool := type = 0 || type = 2

/-- GET_PLDM_VERSION (R338). -/
def execGetPldmVersion (type : Byte) (s : State) : Out :=
  .next (s.pldmSay (if pldmType type then 0x00 :: leBytes 4 (Config.pldmVersion type).toNat else [0x83]))

/-- The commands of a type, a bit each: GetTID, GetPLDMVersion, GetPLDMTypes, GetPLDMCommands; SetEventReceiver, GetSensorReading,
GetPDRRepositoryInfo, GetPDR (R338). -/
def pldmCommands (type : Byte) : Nat :=
  if type = 0 then 2 ^ 2 + 2 ^ 3 + 2 ^ 4 + 2 ^ 5 else 2 ^ 0x04 + 2 ^ 0x11 + 2 ^ 0x50 + 2 ^ 0x51

/-- GET_PLDM_COMMANDS (R338). -/
def execGetPldmCommands (type : Byte) (s : State) : Out :=
  .next (s.pldmSay (if pldmType type then 0x00 :: leBytes 32 (pldmCommands type) else [0x83]))

end Sys2Proof.Machine
end

