-- ==== Sys2Proof/Machine/Ring.lean ====
section
/-! DEFINITION. The ring of bents and the crossbar: PASS, MOVE and WAKE (R47 to R73, R313, R436), the segments and slots of a
die (R79 to R88), and the events of its bents and routers. -/

namespace Sys2Proof.Machine

/-! ## Operand pairs (R50) -/

/-- Stationary and streamed block formats of a PAIR code and the columns of a block sum; none for H16 (R50). -/
def pairFormats (pair : Nat) : Option (BlockFmt × BlockFmt × Nat) :=
  match pair with
  | 0 => some (.a8, .a8, 32)
  | 1 => some (.a8, .g8, 32)
  | 2 => some (.g8, .a8, 32)
  | 3 => some (.a8, .a4, 16)
  | 4 => some (.a4, .a8, 16)
  | _ => none

/-- The A4 pair covers 512 elements along K (R50). -/
def pairWide (pair : Nat) : Bool := pair = 3

/-- FORMAT codes of the stationary and the streamed planks of a PAIR code (R50, R126). -/
def pairCodes (pair : Nat) : BitVec 4 × BitVec 4 :=
  match pair with
  | 0 => (0, 0)
  | 1 => (0, 1)
  | 2 => (1, 0)
  | 3 => (0, 2)
  | 4 => (2, 0)
  | _ => (3, 3)

/-! ## Loads (R51 to R55) -/

/-- Emitted rows of a train plank that hold tensor elements: its rows, or its columns where it is read turned (R55, R73). -/
def PlankRec.emitted (p : PlankRec) : Nat := if p.across then p.validCols else p.validRows

/-- Lanes of a stationary plank that hold tensor elements: its rows, or its columns where it is loaded turned (R53). -/
def PlankRec.lanes (p : PlankRec) (turned : Bool) : Nat := if turned then p.validCols else p.validRows

/-- Lines that one load cycle of 1,024 bytes carries (R52, R53). -/
def PlankRec.linesPerCycle (p : PlankRec) : Nat :=
  match p.fmt with
  | some .a4 => 8
  | some _ => 4
  | none => 2

/-- A run of `count` set bits from bit `first`. -/
def bitRun (first count : Nat) : BitVec 544 := BitVec.ofNat 544 ((2 ^ count - 1) * 2 ^ first)

/-- Lines `first` to `first + count - 1` of a plank loaded: element line l fills the cells (r, c) with (r + c) mod 256 = l, a plain
load with element (r, c), a turned one with element (c, r); line 256 + g fills scale register g of every row; `high` fills the
upper bytes of the cells and the upper registers over what the bank holds (R47, R50, R53). -/
def BankImage.load (b : BankImage) (p : PlankView) (m : Memory) (turned high : Bool) (first count : Nat) : BankImage :=
  let taken (l : Nat) : Bool := decide (first ≤ l) && decide (l < first + count)
  let cell (j : Nat) : BitVec 16 :=
    let r := j / 256
    let c := j % 256
    let old := Sparse.get (0 : BitVec 16) b.cells j
    if taken ((r + c) % 256) then
      let v := if turned then p.code m c r else p.code m r c
      if high then BitVec.ofNat 16 (old.toNat % 256 + 256 * v) else BitVec.ofNat 16 v
    else old
  let scale (j : Nat) : Byte :=
    let g := j % 32
    let k := if high then g - 16 else g
    if decide (high = decide (16 ≤ g)) && decide (k < p.plank.groups) && taken (256 + k) then
      BitVec.ofNat 8 (p.scale m k (j / 32))
    else Sparse.get (0 : Byte) b.scales j
  let rows := p.plank.lanes turned
  { cells := Sparse.entries (0 : BitVec 16) 0 ((List.range 65536).map cell)
    scales := Sparse.entries (0 : Byte) 0 ((List.range 8192).map scale)
    lines := b.lines ||| bitRun (first + if high then 272 else 0) count
    across := p.plank.across
    valid := if high then (b.valid.1, rows) else (rows, b.valid.2)
    groups := p.plank.groups }

/-- A bank is ready: every line of its plank is loaded, and of the upper plank where one has begun (R55, R57). -/
def BankImage.ready (b : BankImage) : Bool :=
  let whole := 2 ^ (256 + b.groups) - 1
  let low := b.lines.toNat % 2 ^ 272
  let high := b.lines.toNat / 2 ^ 272
  decide (low = whole) && (decide (high = 0) || decide (high = whole))

/-- A bank that is to be loaded anew: what it holds stays until lines replace it. -/
def BankImage.spent (b : BankImage) : BankImage := { b with lines := 0, valid := (0, 0) }

/-- Lines of a plank loaded into an enabled bent's load bank, at most one cycle's worth where `whole` is not said (R53, R70); a
plank that no buffer holds loads nothing. -/
def State.loadBent (s : State) (d : DieId) (bent : BentIx) (turned high : Bool) (stream : BitVec 12) (seq : Nat)
    (half : Bool) (first count : Nat) : State :=
  match (s.die d).plank stream seq half with
  | none => s
  | some p =>
    if (s.die d).bentOn bent then
      s.modBent d bent fun x => { x with loadBank := x.loadBank.load p (s.die d).loft turned high first count }
    else s

/-- Lines of a plank loaded into a feed stage's load bank, turned where its record says ACROSS (R54, R55). -/
def State.loadFeed (s : State) (b : BayId) (high : Bool) (stream : BitVec 12) (seq : Nat) (half : Bool)
    (first count : Nat) : State :=
  match (s.die b.die).plank stream seq half with
  | none => s
  | some p => s.modBay b fun y => { y with feed := { y.feed with
      loadBank := y.feed.loadBank.load p (s.die b.die).loft p.plank.across high first count } }

/-- A load of a slot brings at most 1,024 bytes of lines (R53, R55). -/
def RingDie.cycleLines (r : RingDie) (stream : BitVec 12) (seq : Nat) (half : Bool) (count : Nat) : Nat :=
  match r.plank stream seq half with
  | some p => min count p.plank.linesPerCycle
  | none => 0

/-- A bent swaps its banks; the bank that stood is to be loaded anew (R57). -/
def Bent.swap (x : Bent) : Bent := { x with live := x.loadBank, loadBank := x.live.spent }

/-- A feed stage swaps its banks (R55). -/
def FeedStage.swap (x : FeedStage) : FeedStage := { live := x.loadBank, loadBank := x.live.spent }

/-! ## Beats (R48, R61 to R64) -/

/-- A row of the train as a bent sees it: code and scale by column (R50, R55). -/
structure TrainRow where
  code  : Nat → Nat
  scale : Nat → Nat

/-- The row that a train beat carries. -/
def TrainBeat.row (x : TrainBeat) : TrainRow := { code := fun c => x.codes.getD c 0, scale := fun g => x.scales.getD g 0 }

/-- The stationary element of a lane and column, and its scale byte; columns 256 to 511 lie in the upper bytes (R47, R50, R53). -/
def BankImage.element (b : BankImage) (k : BlockFmt) (lane col : Nat) : Dyad :=
  let cell := (Sparse.get (0 : BitVec 16) b.cells (lane * 256 + col % 256)).toNat
  let group := if col < 256 then col / k.size else 16 + (col - 256) / k.size
  k.decode (Sparse.get (0 : Byte) b.scales (lane * 32 + group)).toNat (if col < 256 then cell % 256 else cell / 256)

/-- One block result: products and their sum formed exactly, scaled exactly; a zero result is +0 (R61, R62, R64). -/
def blockResult (b : BankImage) (ks kt : BlockFmt) (row : TrainRow) (lane first span : Nat) : Dyad :=
  let sum := (List.range span).foldl
    (fun acc j =>
      let c := first + j
      acc.add ((b.element ks lane c).mul (kt.decode (row.scale (c / kt.size)) (row.code c)))) Dyad.zero
  if sum.isZero then Dyad.zero else sum

/-- The blocks of a beat added into a lane's entry in ascending order, one rounding each; the count is of non-finite block
results (R62, R73). -/
def laneBlocks (b : BankImage) (ks kt : BlockFmt) (row : TrainRow) (lane span blocks : Nat) (acc : Dyad) : Dyad × Nat :=
  (List.range blocks).foldl
    (fun p j =>
      let r := blockResult b ks kt row lane (j * span) span
      (rndF32 (p.1.add r), if r.isFinite then p.2 else p.2 + 1)) (acc, 0)

/-- The H16 pair: products added one at a time in ascending K (R63). -/
def laneH16 (b : BankImage) (row : TrainRow) (lane : Nat) (acc : Dyad) : Dyad :=
  (List.range 256).foldl
    (fun acc c => fAdd acc ((decH16 (Sparse.get (0 : BitVec 16) b.cells (lane * 256 + c))).mul
      (decH16 (BitVec.ofNat 16 (row.code c))))) acc

/-- A lane's entry after a beat. -/
def laneBeat (pair : Nat) (b : BankImage) (row : TrainRow) (lane : Nat) (acc : Dyad) : Dyad × Nat :=
  match pairFormats pair with
  | some (ks, kt, span) => laneBlocks b ks kt row lane span ((if pairWide pair then 512 else 256) / span) acc
  | none => (laneH16 b row lane acc, 0)

/-- Accumulator value of a lane and entry. -/
def Bent.entryAt (x : Bent) (entry lane : Nat) : Word := Sparse.get (0 : Word) x.acc (entry * 256 + lane)

/-- A beat in a bent: one entry of all 256 lanes; the first pass over K starts at +0.0 (R48, R58). The count is of non-finite
block results. -/
def Bent.beat (x : Bent) (pair : Nat) (row : TrainRow) (entry : Nat) (firstK : Bool) : Bent × Nat :=
  let results := (List.range 256).map fun lane =>
    laneBeat pair x.live row lane (if firstK then Dyad.zero else decF32 (x.entryAt entry lane))
  ({ x with acc := Sparse.setRange (0 : Word) x.acc (entry * 256) (results.map fun r => encF32 r.1) },
   (results.map fun r => r.2).sum)

/-- Entries of a bent hold +0.0, for a product with K = 0 (R66). -/
def Bent.zeroEntries (x : Bent) (first count : Nat) : Bent :=
  { x with acc := Sparse.setRange (0 : Word) x.acc (first * 256) (List.replicate (256 * count) 0) }

/-! ## The train on the operand half (R55, R56, R70, R71) -/

/-- Stations of a ring: 16, or the 4 of a bay in QUARTER (R71). -/
def ringLength (quarter : Bool) : Nat := if quarter then 4 else 16

/-- The station after a bent in ring order, within its bay in QUARTER (R56, R71). -/
def nextStation (quarter : Bool) (b : BentIx) : BentIx :=
  if quarter then ⟨b.val / 4 * 4 + (b.val + 1) % 4, by omega⟩ else ⟨(b.val + 1) % 16, Nat.mod_lt _ (by omega)⟩

/-- The row that a feed stage's live bank puts on the ring: row `row` of its array, both planks side by side in the A4 pair (R50,
R55). -/
def BankImage.emit (b : BankImage) (pair row entry : Nat) (firstK swap : Bool) (station : BentIx) : TrainBeat :=
  let cell (c : Nat) : Nat := (Sparse.get (0 : BitVec 16) b.cells (row * 256 + c % 256)).toNat
  let wide := pairWide pair
  { pair := pair
    codes := (List.range (if wide then 512 else 256)).map fun c =>
      if wide then (if c < 256 then cell c % 256 else cell c / 256) else cell c
    scales := (List.range 32).map fun g => (Sparse.get (0 : Byte) b.scales (row * 32 + g)).toNat
    entry := entry, firstK := firstK, swap := swap, station := station, hop := 1 }

/-- A train row is used by the bent it has reached: an enabled one swaps its banks on the first row of a pass and takes the beat; a
pass-through station only forwards it (R56, R57, R70). -/
def State.useBeat (s : State) (d : DieId) (x : TrainBeat) : State :=
  if (s.die d).bentOn x.station then
    let s := if x.swap then s.modBent d x.station Bent.swap else s
    let (y, bad) := (s.bent d x.station).beat x.pair x.row x.entry x.firstK
    (s.modBent d x.station fun _ => y).countRing d 0x14 bad
  else s

/-- Rows of the train after one beat: each goes on to the next station; a row that has reached the last one has retired. -/
def movedTrain (quarter : Bool) (l : List TrainBeat) : List TrainBeat :=
  (l.filter fun x => decide (x.hop < ringLength quarter)).map fun x =>
    { x with station := nextStation quarter x.station, hop := x.hop + 1 }

/-- The operand half moves one beat, and every row is used where it arrives (R56). The first row of a run on its way to the last
station is ring fill (R73). -/
def State.hopTrain (s : State) (d : DieId) (quarter : Bool) : State :=
  let moved := movedTrain quarter (s.die d).train
  let s := s.modDie d fun r => { r with train := moved }
  moved.foldl (fun s x => s.useBeat d x) s

/-- Train beats of an emitted row, and those whose row lies at or beyond the valid rows of its plank (R50, R73). -/
def BankImage.beatCounts (b : BankImage) (pair row : Nat) : Nat × Nat :=
  let low := if b.valid.1 ≤ row then 1 else 0
  if pairWide pair then (2, low + (if b.valid.2 ≤ row then 1 else 0)) else (1, low)

/-- A feed stage emits a row at an entry bent, which is hop 1 (R55, R56, R73). -/
def State.emitRow (s : State) (b : BayId) (entryBent : BentIx) (pair row entry : Nat) (firstK swap : Bool) : State :=
  let bank := (s.bay b).feed.live
  let x := bank.emit pair row entry firstK swap entryBent
  let (beats, padding) := bank.beatCounts pair row
  let s := s.modDie b.die fun r => { ((r.count 0x10 beats).count 0x15 padding) with train := r.train ++ [x] }
  s.useBeat b.die x

/-! ## The reduction half (R60) -/

/-- The stations of a reduction in ring order from its head: the whole ring, or the head's bay (R60, R71). -/
def chainFrom (head : BentIx) (quarter : Bool) : List BentIx :=
  if quarter then (List.range 4).map fun i => ⟨head.val / 4 * 4 + (head.val % 4 + i) % 4, by omega⟩
  else (List.range 16).map fun i => ⟨(head.val + i) % 16, Nat.mod_lt _ (by omega)⟩

/-- The tail: the bent before the head in ring order (R60). -/
def tailOf (head : BentIx) (quarter : Bool) : BentIx := (chainFrom head quarter).getLastD head

/-- A lane's total along the chain: the head's partial in W40, then one rounding at each enabled bent (R60). A chain with no
enabled bent sends +0: the spec gives no total for it (DESIGN CHOICE, log entry 122). -/
def RingDie.chainTotal (r : RingDie) (head : BentIx) (quarter : Bool) (entry lane : Nat) : W40 :=
  let parts := ((chainFrom head quarter).filter fun b => r.bentOn b).map fun b =>
    encW40 (decF32 (r.bents[b].entryAt entry lane))
  match parts with
  | [] => 0
  | p :: rest => rest.foldl addW40 p

/-- The reduction of one entry into a row segment of a region at the tail's bay (R60, R102). -/
def State.reduceEntry (s : State) (d : DieId) (head : BentIx) (quarter : Bool) (entry : Nat) (region : BitVec 6)
    (row cg : Nat) : State :=
  let totals := (List.range 256).map fun lane => (s.die d).chainTotal head quarter entry lane
  let tail := tailOf head quarter
  (s.countRing d 0x13).kilnAdd ⟨d, ⟨tail.val / 4, by omega⟩⟩ (regionIx region) row cg totals

/-! ## The epilogue (R48, R67, R436) -/

/-- Values of a block whose last elements are fill: +0 from element `valid` on (R28, R68). -/
def filled (valid : Nat) (vals : List Dyad) : List Dyad := vals.zipIdx.map fun x => if x.2 < valid then x.1 else Dyad.zero

/-- One output block of 32 values: H16 values, or a block encoded through an entry (delayed) or in its FORMAT (exact), its fill
stored as +0 (R28, R39, R67, R68, R436). -/
def State.writeLane (s : State) (d : DieId) (mode : BitVec 2) (entry elem scale valid : Nat) (vals : List Dyad) : State × Bool :=
  let r := s.die d
  if mode = 3 then (s.writeLoft d elem (floatArea true [vals.take valid]), false)
  else if mode = 0 then (s, false)
  else
    match ledgerFmt (LedgerEntry.ofWord (r.ledgerAt entry)).format with
    | none => (s, false)
    | some k =>
      let (codes, flagged, r) := if mode = 1 then
          let (c, fl, r) := r.encodeDelayed entry k (filled valid vals)
          ([c], fl, r)
        else
          let (c, r) := r.encodeExactAll k [filled valid vals]
          (c, false, r)
      let c := codes.headD ⟨0, []⟩
      let s := s.modDie d fun _ => r
      ((s.writeLoft d elem (k.packCodes c.codes)).writeLoft d scale [BitVec.ofNat 8 c.scale], flagged)

/-- The 32 values that an epilogue reads from a lane of a bent. -/
def State.entryBlock (s : State) (d : DieId) (bent : BentIx) (first lane : Nat) : List Dyad :=
  (List.range 32).map fun j => decF32 ((s.bent d bent).entryAt (first + j) lane)

/-- The epilogue of one block column of a bent: one block for each valid lane; a column of padding alone is not written (R67). -/
def State.epilogueColumn (s : State) (d : DieId) (bent : BentIx) (mode : BitVec 2) (first entry : Nat) (out : EpilogueOut)
    (lanes features : Nat) : State × Bool :=
  if features = 0 ∨ !(s.die d).bentOn bent then (s, false)
  else
    (List.range lanes).foldl
      (fun p lane =>
        let (s, fl) := p.1.writeLane d mode entry (out.elem + lane * out.elemStep) (out.scale + lane * out.scaleStep)
          (min 32 features) (p.1.entryBlock d bent first lane)
        (s, p.2 || fl)) (s, false)

/-! ## Power of the bents in a segment (R22, R23, R25) -/

/-- The domain of a bent (R305). -/
def bentDomain (bent : BentIx) : Fin 17 := ⟨bent.val, by omega⟩

/-- A bent's clock stopped or running. -/
def State.setStopped (s : State) (d : DieId) (bent : BentIx) (v : Bool) : State :=
  s.modDie d fun r => r.modDomain (bentDomain bent) fun x => { x with stopped := v }

/-- A bent powered up or restarted: a gated one counts a gated wake, and a late one where a claimed beat already waits (R312, R313,
R326). -/
def State.wakeBent (s : State) (d : DieId) (bent : BentIx) (late : Bool) : State :=
  let x := s.bent d bent
  if x.power = .awake then s
  else
    let s := if x.power = .gated then s.countRing d 0xB3 else s
    let s := if late && x.power = .gated then s.countRing d 0xB4 else s
    (s.modBent d bent fun x => { x with power := .awake, deadline := none }).setStopped d bent false

/-- The bents of a mask. -/
def bentsOf (mask : BitVec 16) : List BentIx := (List.finRange 16).filter fun b => mask.getLsbD b.val

/-- A bent of a pass meets its first claimed beat: a clock-stopped one has restarted in time (R312); a gated one is late, which is
one event of the wake-late counter (R23, R313). -/
def State.meetBeat (s : State) (d : DieId) (bent : BentIx) : State :=
  if (s.bent d bent).power = .gated then (s.countRing d 0x16).wakeBent d bent true else s.wakeBent d bent false

/-- Claims on the bents of a mask: husk load stops in them (R25). -/
def RingDie.claimBents (r : RingDie) (mask : BitVec 16) : RingDie :=
  { r with bents := Vector.ofFn fun b : Fin 16 =>
      if mask.getLsbD b.val then { r.bents[b] with husk := false } else r.bents[b] }

/-- The next segment of a die begins, with the bents that its beats claim (R22, R25, R81, R100). -/
def RingDie.beginSegment (r : RingDie) (bays : List BayIx) (claimed : BitVec 16) (quarter : Bool) (slots : List SwitchSlot) :
    RingDie :=
  { (r.claimBents claimed) with
    segment := some { bays := bays, claimed := claimed, number := r.nextSegment, issued := 0, quarter := quarter, slots := slots }
    quarter := quarter
    nextSegment := (r.nextSegment + 1) % 65536 }

/-- The bents whose ring stops a train passes: the whole ring, or a bay's four in QUARTER (R49, R71). -/
def ringMask (quarter : Bool) (b : BayIx) : BitVec 16 := if quarter then 0xF#16 <<< (4 * b.val) else 0xFFFF

/-! ## What a slot of a die moves for the outside (R80, R84 to R88) -/

/-- Carrying slots before a hold slot, by level (R88). -/
def derateLimit (level : Nat) : Nat := if level = 1 then 4 else if level = 2 then 2 else 1

/-- Routers that owe a hold slot (R88). Carrying slots are counted at every level, level 0 among them, and the count stays across a
change of level; routers that owe one at the same time share the hold slot (DESIGN CHOICE, log entry 123). -/
def RingDie.owesHold (r : RingDie) : List (Fin 4) :=
  (List.finRange 4).filter fun i =>
    decide (0 < r.routers[i].level) && decide (derateLimit r.routers[i].level ≤ r.routers[i].carried)

/-- Outside beats that a router moves in a slot: as many as it offers in each direction and as wait (R80, R85). -/
def Router.moves (x : Router) (inN outN : Nat) : Nat := min x.waitIn inN + min x.waitOut outN

/-- The offered and reserved beats of one cycle: outside traffic that waits moves, at the routers outside `held`; a reserved loft
beat carries sill-side data that waits, or passes empty (R80, R84, R85, R96). -/
def RingDie.moveOutside (r : RingDie) (offerIn offerOut : List (Fin 4 × Nat)) (held : List (Fin 4)) : RingDie :=
  let n (i : Fin 4) : Nat :=
    if held.contains i then 0 else r.routers[i].moves (offeredAt offerIn i) (offeredAt offerOut i)
  let used := min 4 r.sillBeats
  let r := (List.finRange 4).foldl (fun r i => r.count (0x29 + i.val) (n i)) r
  let r := (r.count 0x27 used).count 0x28 (4 - used)
  { r with
    sillBeats := r.sillBeats - used
    routers := Vector.ofFn fun i : Fin 4 =>
      let x := r.routers[i]
      if held.contains i then x
      else { x with
        waitIn := x.waitIn - offeredAt offerIn i
        waitOut := x.waitOut - offeredAt offerOut i
        carried := x.carried + (if 0 < n i then 1 else 0) } }

/-- A held cycle: offered beats still move, but not at a router that holds; each cause counts (R82, R88, R96). -/
def RingDie.holdCycle (r : RingDie) (offerIn offerOut : List (Fin 4 × Nat)) (causes : List HoldCause) : RingDie :=
  let owed := causes.filterMap fun h => match h with
    | .derating i => some i
    | _ => none
  let r := r.moveOutside offerIn offerOut owed
  let r := causes.foldl (fun r h => match h with
    | .producer => r.count 0x21
    | .noCredit => r.count 0x22
    | .bentAsleep => r.count 0x16
    | .loadBank => r.count 0x12
    | .derating i => r.count (0x23 + i.val)) r
  { r with routers := Vector.ofFn fun i : Fin 4 =>
      if owed.contains i then { r.routers[i] with carried := 0 } else r.routers[i] }

/-- A slot issues: counted, with its offered beats; a router that a claimed beat uses carries (R82, R88, R96). -/
def RingDie.issueCycle (r : RingDie) (offerIn offerOut : List (Fin 4 × Nat)) (claimed : List (Fin 4)) : RingDie :=
  let before := r.routers
  let r := (r.count 0x20).moveOutside offerIn offerOut []
  { r with routers := Vector.ofFn fun i : Fin 4 =>
      if claimed.contains i && decide (r.routers[i].carried = before[i].carried) then
        { r.routers[i] with carried := r.routers[i].carried + 1 }
      else r.routers[i] }

/-- The offers of slot `t` of a segment that the translator builds: each router's minimum of R87, spread over 4 slots (R260; log
entry 124). -/
def builtOffers (d : DieId) (t : Nat) : List (Fin 4 × Nat) :=
  (List.finRange 4).map fun i => (i, (offeredMinimum d i + 3 - t % 4) / 4)

/-- One slot of a segment that the translator built: a hold slot first where a router owes one (R88, R260). -/
def RingDie.builtSlot (r : RingDie) (d : DieId) (t : Nat) (claimed : List (Fin 4)) : RingDie :=
  let o := builtOffers d t
  let owed := r.owesHold
  (if owed = [] then r else r.holdCycle o o (owed.map .derating)).issueCycle o o claimed

/-- Slots `t`, `t + 1` and so on of a segment that the translator built, none with a claimed router beat. -/
def RingDie.builtSlots (d : DieId) : Nat → Nat → RingDie → RingDie
  | 0, _, r => r
  | n + 1, t, r => RingDie.builtSlots d n (t + 1) (r.builtSlot d t [])

/-! ## PASS (R57, R259, R436) -/

/-- The bents of a pass: the enabled ones of the ring, or of the issuing bay in QUARTER, in ring order (log entry 16). -/
def RingDie.passBents (r : RingDie) (b : BayIx) (quarter : Bool) : List BentIx :=
  (List.finRange 16).filter fun x => r.bentOn x && (!quarter || decide (x.val / 4 = b.val))

/-- Sequence number and half of the stationary plank of the i-th bent of a pass (R123; log entry 16). -/
def statPlank (pair seq i : Nat) : Nat × Bool :=
  if pair = 3 ∨ pair = 5 then (seq + 2 * i, false)
  else if pair = 4 then (seq + i / 2, i % 2 = 1)
  else (seq + i, false)

/-- Sequence number of the buffer of the p-th train plank (R123). In the A4 pair the two halves of one buffer travel side by side,
PLANKS counts buffers, and a second half that the buffer lacks reads as +0 with scale 0x00 (DESIGN CHOICE, log entry 125). -/
def trainSeqOf (pair seq p : Nat) : Nat := if pair = 5 then seq + 2 * p else seq + p

/-- Buffers of the stationary stream that a pass reads (R123). -/
def statBuffers (pair seq n : Nat) : List Nat :=
  (List.range (if pair = 3 ∨ pair = 5 then 2 * n else if pair = 4 then ceilDiv n 2 else n)).map fun i => seq + i

/-- Buffers of the train stream that a pass reads. -/
def trainBuffers (pair seq n : Nat) : List Nat := (List.range (if pair = 5 then 2 * n else n)).map fun i => seq + i

/-- The buffers of a stream with these numbers are filled. -/
def Stream.allFilled (t : Stream) (scale : Bool) (seqs : List Nat) : Bool :=
  seqs.all fun q => match t.held scale q with
    | some b => b.filled
    | none => false

/-- A stream a command names, on its own die. -/
def State.namedStream (s : State) (d : DieId) (n : BitVec 12) : Stream :=
  let (b, k) := (s.die d).physStream n
  s.stream ⟨d, b⟩ k

/-- The scale buffers that the planks of some buffers use. -/
def Stream.scalesFor (t : Stream) (seqs : List Nat) : List Nat :=
  seqs.flatMap fun q => match t.held false q with
    | some b => b.planks.filterMap fun p => if p.groups = 0 then none else some p.scaleSeq
    | none => []

/-- Named buffers of a stream are read by a started consumer (R140). -/
def Stream.useBuffers (t : Stream) (scale : Bool) (seqs : List Nat) : Stream :=
  { t with buffers := t.buffers.map fun x => if x.scale = scale && seqs.contains x.seqNo then { x with inUse := true } else x }

/-- Element buffers of a stream are read by a started consumer, and with them the scale buffers of their planks (R140, R435). -/
def Stream.usePlanks (t : Stream) (seqs : List Nat) : Stream := (t.useBuffers false seqs).useBuffers true (t.scalesFor seqs)

/-- The buffers a pass reads are filled and no segment of the die is in progress (R81, R125). -/
def State.passReady (s : State) (b : BayId) (f : PassFields) : Bool :=
  let r := s.die b.die
  let pair := f.pair.toNat
  r.segment.isNone &&
    (s.namedStream b.die f.statStream).allFilled false
      (statBuffers pair f.statSeq.toNat (r.passBents b.bay f.quarter).length) &&
    (s.namedStream b.die f.trainStream).allFilled false (trainBuffers pair f.trainSeq.toNat f.planks.toNat)

/-- Every plank of a list has a format and the axis that its use requires (R50, R54). -/
def planksGood (l : List (Option PlankView)) (code : BitVec 4) (across : Option Bool) : Bool :=
  l.all fun p => match p with
    | none => false
    | some v => decide (v.plank.format = code) && (match across with
      | some a => v.plank.across == a
      | none => true)

/-- Rows and columns of a pass's output: 256 lanes of each bent, 256 entries of each train plank (log entry 16). -/
def RingDie.passShape (r : RingDie) (b : BayIx) (f : PassFields) : Nat × Nat :=
  (256 * (r.passBents b f.quarter).length, 256 * f.planks.toNat)

/-- The epilogue's checks (R437): entries in range and usable, and the output within the loft. -/
def State.epilogueGood (s : State) (b : BayId) (f : PassFields) : Bool :=
  let r := s.die b.die
  let (rows, cols) := r.passShape b.bay f
  let fmtOf (e : Nat) : Option BlockFmt := ledgerFmt (LedgerEntry.ofWord (r.ledgerAt e)).format
  match f.epilogue.toNat with
  | 0 => true
  | 1 => ((List.range (cols / 32)).all fun g =>
      match fmtOf (f.ledger.toNat + g) with
      | some k => s.delayedGood b.die (f.ledger.toNat + g) k
      | none => false) && inLoft f.out.toNat (rows * cols + rows * (cols / 32))
  | 2 => (fmtOf f.ledger.toNat).isSome && inLoft f.out.toNat (rows * cols + rows * (cols / 32))
  | _ => inLoft f.out.toNat (2 * rows * cols)

/-- The checks of R437 and R71 on the fields of PASS, made when the engine takes it. -/
def State.passGood (s : State) (b : BayId) (f : PassFields) : Bool :=
  let r := s.die b.die
  let n := f.planks.toNat
  let home (x : BitVec 12) : Bool := decide (x.toNat / 256 = b.die.val)
  decide (f.pair.toNat ≤ 5) && decide (1 ≤ n ∧ n ≤ 8) && home f.statStream && home f.trainStream &&
    decide (r.physBay (f.entryBent.toNat / 4) = b.bay) &&
    (f.headBent = 0x1F || (decide (f.headBent.toNat < 16) &&
      (!f.quarter || decide (r.physBay (f.headBent.toNat / 4) = b.bay)))) &&
    decide (f.firstEntry.toNat + 256 * n ≤ 2048) && s.epilogueGood b f

/-- The planks of a pass whose buffers are filled fit its PAIR and LOAD (R50, R54). A plank that has no record, or whose axis or
format does not fit, ends the PASS with BAD_DESCRIPTOR, which R437 does not list (DESIGN CHOICE, log entry 126). -/
def State.passFits (s : State) (b : BayId) (f : PassFields) : Bool :=
  let r := s.die b.die
  let pair := f.pair.toNat
  let (sc, tc) := pairCodes pair
  let stats := (List.range (r.passBents b.bay f.quarter).length).flatMap fun i =>
    let (q, h) := statPlank pair f.statSeq.toNat i
    r.plank f.statStream q h :: (if pairWide pair then [r.plank f.statStream (q + 1) false] else [])
  let trains := (List.range f.planks.toNat).map fun p => r.plank f.trainStream (trainSeqOf pair f.trainSeq.toNat p) false
  planksGood stats sc (some f.turned) && planksGood trains tc none

/-- Every stationary plank of a pass loaded whole into its bent's load bank (R53). -/
def State.passLoads (s : State) (b : BayId) (f : PassFields) : State :=
  let pair := f.pair.toNat
  (((s.die b.die).passBents b.bay f.quarter).zipIdx).foldl
    (fun s x =>
      let (q, h) := statPlank pair f.statSeq.toNat x.2
      let s := s.loadBent b.die x.1 f.turned false f.statStream q h 0 272
      if pairWide pair then s.loadBent b.die x.1 f.turned true f.statStream (q + 1) false 0 272 else s) s

/-- The p-th plank of a pass's train loaded whole into the issuing bay's feed stage, which swaps it in (R55). -/
def State.passFeed (s : State) (b : BayId) (f : PassFields) (p : Nat) : State :=
  let pair := f.pair.toNat
  let q := trainSeqOf pair f.trainSeq.toNat p
  let s := s.loadFeed b false f.trainStream q false 0 272
  let s := if pairWide pair then s.loadFeed b true f.trainStream q true 0 272 else s
  s.modBay b fun y => { y with feed := y.feed.swap }

/-- Beat `g` of a pass: the train moves on, and while planks last the feed stage emits row g at the entry bent, the first row with
the bank swap (R56, R57). -/
def State.passBeat (s : State) (b : BayId) (f : PassFields) (g : Nat) : State :=
  let s := s.hopTrain b.die f.quarter
  if g < 256 * f.planks.toNat then
    let s := if g % 256 = 0 then s.passFeed b f (g / 256) else s
    s.emitRow b ((s.die b.die).physStation f.entryBent.toNat) f.pair.toNat (g % 256) (f.firstEntry.toNat + g) f.firstK (g = 0)
  else s

/-- Every beat of a pass, to the hop after which its last row retires (R56, R69). -/
def State.passBeats (s : State) (b : BayId) (f : PassFields) : State :=
  (List.range (256 * f.planks.toNat + ringLength f.quarter)).foldl (fun s g => s.passBeat b f g) s

/-- Valid features of output block `g` of a pass: emitted rows of its train plank (R67). -/
def State.validFeatures (s : State) (b : BayId) (f : PassFields) (g : Nat) : Nat :=
  match (s.die b.die).plank f.trainStream (trainSeqOf f.pair.toNat f.trainSeq.toNat (g / 8)) false with
  | some p => min 32 (p.plank.emitted - g % 8 * 32)
  | none => 0

/-- Valid lanes of the i-th bent of a pass (R67). -/
def State.validLanes (s : State) (b : BayId) (f : PassFields) (i : Nat) : Nat :=
  let (q, h) := statPlank f.pair.toNat f.statSeq.toNat i
  match (s.die b.die).plank f.statStream q h with
  | some p => p.plank.lanes f.turned
  | none => 0

/-- Where block column `g` of the i-th bent of a pass is written: rows of `cols` elements at OUT, the scales behind them (R436; log
entry 16). -/
def passOut (f : PassFields) (rows cols i g : Nat) : EpilogueOut :=
  let base := f.out.toNat
  let row := 256 * i
  if f.epilogue = 3 then { elem := base + 2 * (row * cols + 32 * g), scale := 0, elemStep := 2 * cols, scaleStep := 0 }
  else { elem := base + row * cols + 32 * g, scale := base + rows * cols + row * (cols / 32) + g,
         elemStep := cols, scaleStep := cols / 32 }

/-- The epilogue of a pass, bent by bent and block column by block column (R436). -/
def State.epilogue (s : State) (b : BayId) (f : PassFields) : State × Bool :=
  let (rows, cols) := (s.die b.die).passShape b.bay f
  if f.epilogue = 0 then (s, false)
  else
    ((s.die b.die).passBents b.bay f.quarter).zipIdx.foldl
      (fun p x =>
        (List.range (cols / 32)).foldl
          (fun p g =>
            let (s, fl) := p.1.epilogueColumn b.die x.1 f.epilogue (f.firstEntry.toNat + 32 * g)
              (f.ledger.toNat + (if f.epilogue = 1 then g else 0)) (passOut f rows cols x.2 g)
              (p.1.validLanes b f x.2) (p.1.validFeatures b f g)
            (s, p.2 || fl)) p) (s, false)

/-- The reduction of a pass: every entry to its row of the region, in column group 0 (R60, R436; log entry 16, and DESIGN CHOICE,
log entry 127, for the column group, which PASS does not name). -/
def State.passReduce (s : State) (b : BayId) (f : PassFields) : State :=
  if f.headBent = 0x1F then s
  else
    let head := (s.die b.die).physStation f.headBent.toNat
    (List.range (256 * f.planks.toNat)).foldl
      (fun s g => s.reduceEntry b.die head f.quarter (f.firstEntry.toNat + g) f.region (f.firstEntry.toNat + g) 0) s

/-- Cycles in which stations wait on ring fill and on the feed stage's first load (R55, R69, R73). -/
def passFill (f : PassFields) : Nat := ringLength f.quarter - 1 + 66

/-- Slots of a pass's segment: the cycles of R69 for one pass (R260). -/
def passSlots (f : PassFields) : Nat := (if f.pair = 5 then 4 else 1) * 256 * f.planks.toNat + passFill f

/-- The effect of PASS: its segment begins with the bents its train passes claimed, and they wake; then loads, beats, epilogue and
reduction. -/
def State.runPass (s : State) (b : BayId) (f : PassFields) : State × Status :=
  let pair := f.pair.toNat
  let n := ((s.die b.die).passBents b.bay f.quarter).length
  let (sb, sk) := (s.die b.die).physStream f.statStream
  let (tb, tk) := (s.die b.die).physStream f.trainStream
  let mask := ringMask f.quarter b.bay
  let s := s.modDie b.die fun r => r.beginSegment [b.bay] mask f.quarter []
  let s := ((bentsOf mask).filter fun x => (s.die b.die).bentOn x).foldl (fun s x => s.meetBeat b.die x) s
  let s := s.modDie b.die fun r => (RingDie.builtSlots b.die (passSlots f) 0 r).count 0x11 (passFill f)
  let s := s.modStream ⟨b.die, sb⟩ sk fun t => t.usePlanks (statBuffers pair f.statSeq.toNat n)
  let s := s.modStream ⟨b.die, tb⟩ tk fun t => t.usePlanks (trainBuffers pair f.trainSeq.toNat f.planks.toNat)
  let s := (s.passLoads b f).passBeats b f
  let (s, flagged) := s.epilogue b f
  (s.passReduce b f, if flagged then .doneFlagged else .done)

/-- PASS (R57, R436, R437): its fields are checked as it is taken; it waits for its buffers and for the segment before it. -/
def execPass (c : CmdHead) (f : PassFields) (s : State) : Out :=
  .next (s.takeCmd c .ring (.pass f) (s.passReady c.bay f) (s.passGood c.bay f) (fun s => s.runPass c.bay f)
    (s.passFits c.bay f))

/-! ## MOVE (R259, R436) -/

/-- Bytes of a loft slice. -/
def sliceBytes : Nat := 2 ^ 26

/-- One end of a move: 0 to 15 a slice, 16 to 19 a router, 20 to 23 a logical bay; its range lies in its place (R436, R437). -/
def State.moveEndGood (d : DieId) (e off n : Nat) : Bool :=
  if e < 16 then decide (off / sliceBytes = e) && decide (off + n ≤ (e + 1) * sliceBytes)
  else if e < 20 then (acrossRouter d ⟨(e - 16) % 4, Nat.mod_lt _ (by omega)⟩).isSome && inLoft off n
  else if e < 24 then inDmem off n
  else false

/-- The bytes at the source of a move. -/
def State.moveRead (s : State) (d : DieId) (e off n : Nat) : List Byte :=
  if e < 16 then s.readLoft d off n
  else if e < 20 then
    match acrossRouter d ⟨(e - 16) % 4, Nat.mod_lt _ (by omega)⟩ with
    | some x => s.readLoft x off n
    | none => []
  else (s.bay ⟨d, (s.die d).physBay (e - 20)⟩).dmem.read off n

/-- The bytes written at the destination of a move. -/
def State.moveWrite (s : State) (d : DieId) (e off : Nat) (bytes : List Byte) : State :=
  if e < 16 then s.writeLoft d off bytes
  else if e < 20 then
    match acrossRouter d ⟨(e - 16) % 4, Nat.mod_lt _ (by omega)⟩ with
    | some x => s.writeLoft x off bytes
    | none => s
  else s.modBay ⟨d, (s.die d).physBay (e - 20)⟩ fun y => { y with dmem := y.dmem.write off bytes }

/-- The routers among the ends of a move. -/
def moveRouters (f : MoveFields) : List (Fin 4) :=
  [f.src5.toNat, f.dst5.toNat].filterMap fun e =>
    if 16 ≤ e ∧ e < 20 then some ⟨(e - 16) % 4, Nat.mod_lt _ (by omega)⟩ else none

/-- The beat of slot `t` of a move may be claimed: neither end is a slice whose beat is reserved in it (R83, R84, R260). -/
def moveSlotOpen (f : MoveFields) (t : Nat) : Bool :=
  [f.src5.toNat, f.dst5.toNat].all fun e => decide (16 ≤ e) || decide (t % 4 ≠ e % 4)

/-- The slots of a move from slot `t`: one claimed beat of at most 1,024 bytes in each slot that is open to it, until `left` beats
have moved; its routers carry and may owe hold slots (R88; log entry 124). -/
def RingDie.moveSlots (d : DieId) (f : MoveFields) : Nat → Nat → Nat → RingDie → RingDie
  | 0, _, _, r => r
  | _, _, 0, r => r
  | fuel + 1, t, left + 1, r =>
    if moveSlotOpen f t then RingDie.moveSlots d f fuel (t + 1) left (r.builtSlot d t (moveRouters f))
    else RingDie.moveSlots d f fuel (t + 1) (left + 1) (r.builtSlot d t [])

/-- The effect of MOVE: one segment of one slot for each beat of 1,024 bytes. -/
def State.runMove (s : State) (b : BayId) (f : MoveFields) : State :=
  let n := f.bytes.toNat
  let beats := ceilDiv n 1024
  let s := s.modDie b.die fun r => RingDie.moveSlots b.die f (4 * beats + 4) 0 beats (r.beginSegment [b.bay] 0 r.quarter [])
  s.moveWrite b.die f.dst5.toNat f.dst.toNat (s.moveRead b.die f.src5.toNat f.src.toNat n)

/-- MOVE (R259, R436, R437). -/
def execMove (c : CmdHead) (f : MoveFields) (s : State) : Out :=
  let n := f.bytes.toNat
  .next (s.takeCmd c .ring (.move f) (s.die c.bay.die).segment.isNone
    (State.moveEndGood c.bay.die f.src5.toNat f.src.toNat n && State.moveEndGood c.bay.die f.dst5.toNat f.dst.toNat n)
    (fun s => (s.runMove c.bay f, .done)))

/-! ## WAKE and the sleep of bents (R22, R312, R313) -/

/-- A bent power-gated: its banks are lost, its accumulators kept (R22). -/
def Bent.gate (x : Bent) (deadline : DWord) (n unit : Nat) : Bent :=
  { x with power := .gated, live := lostBank n (2 * unit), loadBank := lostBank n (2 * unit + 1), deadline := some deadline }

/-- CYCLES at the FABRIC target in nanoseconds: a target code counts 25 MHz (R306, R313). -/
def RingDie.cyclesNs (r : RingDie) (cycles : Nat) : Nat := cycles * 40 / r.domains[16].target.toNat

/-- The bents a WAKE names, its bits logical stations (R247, R313). -/
def RingDie.wakeBents (r : RingDie) (mask : BitVec 16) : List BentIx :=
  ((List.range 16).filter fun i => mask.getLsbD i).map fun i => r.physStation i

/-- A bent that a WAKE names: one that carries husk load stays ungated and keeps the deadline (R333); else gated until the
deadline, or clock-stopped where CYCLES is below 2.2 us; a gated bent's deadline is replaced (R313). -/
def Bent.hint (x : Bent) (deadline : DWord) (short : Bool) (n unit : Nat) : Bent :=
  if x.husk then { x with deadline := some deadline }
  else if x.power = .gated then { x with deadline := some deadline }
  else if short then { x with power := .stopped }
  else x.gate deadline n unit

/-- The effect of WAKE (R313). -/
def State.runWake (s : State) (b : BayId) (f : WakeFields) : State :=
  let ns := (s.die b.die).cyclesNs f.cycles.toNat
  let deadline := s.now + BitVec.ofNat 64 ns
  let n := s.free
  let s : State := { s with free := n + 1 }
  let s := s.modDie b.die fun r => (r.beginSegment [b.bay] 0 r.quarter []).builtSlot b.die 0 []
  ((s.die b.die).wakeBents f.bentMask).foldl
    (fun s i => (s.modBent b.die i fun x => x.hint deadline (decide (ns < 2200)) n i.val).setStopped b.die i
      (decide (((s.bent b.die i).hint deadline (decide (ns < 2200)) n i.val).power ≠ .awake))) s

/-- WAKE (R313). -/
def execWake (c : CmdHead) (f : WakeFields) (s : State) : Out :=
  .next (s.takeCmd c .ring (.wake f) (s.die c.bay.die).segment.isNone true (fun s => (s.runWake c.bay f, .done)))

/-- A bent is in the claims of the segment in progress. -/
def RingDie.claims (r : RingDie) (bent : BentIx) : Bool :=
  match r.segment with
  | some g => g.claimed.getLsbD bent.val
  | none => false

/-- BENT_CLOCK_STOP (R22): an awake bent with no claimed beat. -/
def execBentClockStop (die : DieId) (bent : BentIx) (s : State) : Out :=
  .next (if (s.bent die bent).power = .awake && !(s.die die).claims bent then
    (s.modBent die bent fun x => { x with power := .stopped }).setStopped die bent true else s)

/-! ## What a slot needs (R23, R57, R82) -/

/-- The train rows that arrive at a station in a slot, with their station: those that move on and those that are emitted. -/
def RingDie.arrivals (r : RingDie) (quarter : Bool) (acts : List RingAct) : List (BentIx × Bool) :=
  (if acts.contains .hop then (movedTrain quarter r.train).map fun x => (x.station, x.swap) else []) ++
  acts.filterMap fun a => match a with
    | .emit _ e _ _ _ _ swap => some (e, swap)
    | _ => none

/-- The enabled bents that a slot uses. -/
def RingDie.bentsFor (r : RingDie) (quarter : Bool) (acts : List RingAct) : List BentIx :=
  (((r.arrivals quarter acts).map Prod.fst) ++ acts.flatMap fun a => match a with
    | .load b _ _ _ _ _ _ _ _ => [b]
    | .zero b _ _ => [b]
    | .reduce h _ _ _ _ => chainFrom h quarter
    | .epilogue b _ _ _ _ _ _ => [b]
    | _ => []).filter fun b => r.bentOn b

/-- The slot of a segment that is next to issue. -/
def RingDie.nextSlot (r : RingDie) : Option (Segment × SwitchSlot) :=
  r.segment.bind fun g => (g.slots[g.issued]?).map fun x => (g, x)

/-- A claimed beat of the next slot waits for the bent (R23). -/
def RingDie.slotWants (r : RingDie) (bent : BentIx) : Bool :=
  match r.nextSlot with
  | some (g, x) => (r.bentsFor g.quarter x.acts).contains bent
  | none => false

/-- Places of an elastic FIFO (R310). -/
def fifoPlaces : Nat := 8

/-- The claimed beats of a slot that a router delivers, or that leave by it. -/
def claimedAt (x : SwitchSlot) (r : Fin 4) (inward : Bool) : Nat :=
  x.claimed.countP fun b => isRouter r (if inward then b.src else b.dst)

/-- What the neighbour across a router still holds for this die's beats (R310). -/
def State.farInbox (s : State) (d : DieId) (r : Fin 4) : Nat :=
  match acrossRouter d r with
  | some n => (s.die n).routers[facing r].inbox.length
  | none => 0

/-- The STORE stream whose next buffer a claimed beat is the first to fill: the producer takes the buffer with that beat (R120,
R128, R135; log entry 114). -/
def State.storeTake (s : State) (d : DieId) (x : ClaimedBeat) : Option (BayId × SlotIx) :=
  match x.dst with
  | .slice _ (.buffer stream false seq _) =>
    let (b, k) := (s.die d).physStream stream
    let t := s.stream ⟨d, b⟩ k
    if t.isOpen ∧ t.conf.mode = 1 ∧ seq = t.nextElem then some (⟨d, b⟩, k) else none
  | _ => none

/-- The STORE streams that a slot's beats must take a buffer from and that cannot have one, with the slice that lacks it (R121). -/
def State.storeLacks (s : State) (d : DieId) (x : SwitchSlot) : List (BayId × SlotIx × Nat) :=
  x.claimed.filterMap fun c => match s.storeTake d c with
    | some (b, k) =>
      let slice := (s.stream b k).sliceFor (s.stream b k).nextElem
      if (s.die d).canTake b.bay k slice then none else some (b, k, slice)
    | none => none

/-- The causes for which a slot is held (R82): a producer without data, a bridge beat that has not arrived and a plank that a feed
stage has not wholly loaded among them (R55); a consumer's FIFO without room, or no buffer for a STORE stream's producer (R135); a
bent that is not awake; a load bank that is not ready at a bank swap; a router that owes a hold slot. -/
def State.slotHolds (s : State) (d : DieId) (quarter : Bool) (x : SwitchSlot) : List HoldCause :=
  let r := s.die d
  let unready := x.acts.any fun a => match a with
    | .emit b _ _ _ _ _ _ => !(r.bays[b].feed.live.ready)
    | _ => false
  (if unready || (List.finRange 4).any (fun i => decide (r.routers[i].inbox.length < claimedAt x i true)) then
    [.producer] else []) ++
  (if !(s.storeLacks d x).isEmpty || ((List.finRange 4).any fun i =>
      decide (0 < claimedAt x i false) && decide (fifoPlaces < s.farInbox d i + claimedAt x i false)) then [.noCredit] else []) ++
  (if (r.bentsFor quarter x.acts).any fun b => decide (r.bents[b].power ≠ .awake) then [.bentAsleep] else []) ++
  (if (r.arrivals quarter x.acts).any fun a => a.2 && r.bentOn a.1 && !r.bents[a.1].loadBank.ready then [.loadBank] else []) ++
  r.owesHold.map .derating

/-- BENT_WAKE (R312, R313): a stopped or gated bent meets a claimed beat. A gated one is late where the next slot already waits for
it (R23, R326). A clock-stopped one whose restart a pause of R307 holds is not awake yet. -/
def execBentWake (die : DieId) (bent : BentIx) (held : Bool) (s : State) : Out :=
  .next (if held && (s.bent die bent).power = .stopped then s else s.wakeBent die bent ((s.die die).slotWants bent))

/-- WAKE_DEADLINE (R313): the sequencer powers a gated bent up 2.2 us before its deadline; it is late where the next slot already
waits for it (R23, R326). -/
def execWakeDeadline (die : DieId) (bent : BentIx) (s : State) : Out :=
  .next (
    let x := s.bent die bent
    match x.power, x.deadline with
    | .gated, some _ => s.wakeBent die bent ((s.die die).slotWants bent)
    | _, _ => s)

/-! ## Segments and slots (R80 to R82, R88, R92, R143) -/

/-- A start command that a private-form thread pushes to its RING queue (R76, R81, R90): DISABLED where its function is off, into
the queue where there is room; where there is none the producer thread stalls. -/
def State.pushStart (s : State) (d : DieId) (x : StartPush) : State :=
  s.enqueue ⟨d, x.bay⟩ .ring ⟨x.ctr, true, .segmentStart x.segment⟩

/-- The segment that a die is to start next: the segments of the active half in program order, from the first again after the
last (R81; log entry 128). -/
def RingDie.nextProgram (r : RingDie) : Option (Nat × SwitchSegment) :=
  let l := r.switchHalves[r.activeHalf]
  let n := r.nextSegment % l.length
  (l[n]?).map fun g => (n, g)

/-- The head of a bay's RING queue is the start command of a segment (R81). -/
def State.startAt (s : State) (b : BayId) (n : Nat) : Option QueuedCmd :=
  let q := (s.bay b).queue .ring
  match q.running, q.waiting with
  | none, c :: _ => if c.cmd = .segmentStart n then some c else none
  | _, _ => none

/-- A named completion has arrived (R81). -/
def State.arrived (s : State) (d : DieId) (c : BayIx × CtrIx × Word) : Bool :=
  reached (s.bay ⟨d, c.1⟩).counters[c.2.1].value c.2.2

/-- A named completion arrived as CANCELLED (R143): the count that the start command waits for. -/
def State.arrivedCancelled (s : State) (d : DieId) (c : BayIx × CtrIx × Word) : Bool :=
  (s.bay ⟨d, c.1⟩).counters[c.2.1].cancelledAt.contains c.2.2

/-- The start command of a segment leaves a bay's queue and completes with a status. -/
def State.endStart (s : State) (b : BayId) (n : Nat) (st : Status) : State :=
  match s.startAt b n with
  | none => s
  | some c => ((s.modQueue b .ring fun x => { x with waiting := x.waiting.drop 1 }).finishCmd b .ring c.ctr st).settleFuncs b

/-- A segment that runs no slot: its start command completes in every named bay, and the segment counts as ended (R92, R100, R143,
R297; log entry 128). -/
def State.refuseSegment (s : State) (d : DieId) (n : Nat) (bays : List BayIx) (st : Status) : State :=
  let s := bays.foldl (fun s b => s.endStart ⟨d, b⟩ n st) s
  s.modDie d fun r => { r with lastEnded := some r.nextSegment, nextSegment := (r.nextSegment + 1) % 65536 }

/-- A bay in state DISABLED or ABORTED (R92). -/
def Bay.gone (y : Bay) : Bool := y.func .bay = .disabled || y.func .bay = .aborted

/-- In an abandoned attempt a named bay will push no matching start: its threads are all HALTED, and the head of its RING queue is
not the start (R297). -/
def State.startLost (s : State) (b : BayId) (n : Nat) : Bool :=
  let y := s.bay b
  s.job.abandoned && (y.threads.toList.all fun t => decide (t.mode = .halted)) && (y.queue .ring).running.isNone &&
    (s.startAt b n).isNone

/-- The buffers that a segment reads, each with its stream. -/
def segmentReads (g : SwitchSegment) : List (BitVec 12 × Bool × Nat) := g.slots.flatMap buffersRead

/-- Every buffer that a segment reads is filled (R125). -/
def State.readsFilled (s : State) (d : DieId) (g : SwitchSegment) : Bool :=
  (segmentReads g).all fun x => (s.namedStream d x.1).allFilled x.2.1 [x.2.2]

/-- The buffers that a segment reads are its own from its first slot on (R140). -/
def State.useReads (s : State) (d : DieId) (g : SwitchSegment) : State :=
  (segmentReads g).foldl (fun s x =>
    let (b, k) := (s.die d).physStream x.1
    s.modStream ⟨d, b⟩ k fun t => if x.2.1 then t.useBuffers true [x.2.2] else t.usePlanks [x.2.2]) s

/-- The start command of a segment taken by its bay's RING engine (R81). -/
def State.takeStart (s : State) (b : BayId) (n : Nat) : State :=
  match s.startAt b n with
  | none => s
  | some c => s.modQueue b .ring fun x => { x with waiting := x.waiting.drop 1, running := some ⟨c.ctr, c.cmd, .done⟩ }

/-- A cycle in which start commands at RING queue heads wait (R96). -/
def State.startWaits (s : State) (d : DieId) (n : Nat) (bays : List BayIx) : State :=
  bays.foldl (fun s b => if (s.startAt ⟨d, b⟩ n).isSome then s.countRing d (0x35 + b.val) else s) s

/-- The next segment of a die starts if it may (R81): where every named bay has its start command at its RING queue's head, or is
gone, it runs no slot if a bay is off, with DISABLED (R92), or if a bay can push no start in an abandoned attempt or a completion
arrived as CANCELLED, with CANCELLED (R143, R297); else it starts once every named completion has arrived and every buffer it
reads is filled (R125). -/
def State.startSegment (s : State) (d : DieId) : State :=
  match (s.die d).segment, (s.die d).nextProgram with
  | none, some (n, g) =>
    let gone := g.bays.any fun b => (s.bay ⟨d, b⟩).gone
    let lost := g.bays.any fun b => s.startLost ⟨d, b⟩ n
    let here := g.bays.all fun b => (s.bay ⟨d, b⟩).gone || s.startLost ⟨d, b⟩ n || (s.startAt ⟨d, b⟩ n).isSome
    if !here then s.startWaits d n g.bays
    else if gone then s.refuseSegment d n g.bays .disabled
    else if lost then s.refuseSegment d n g.bays .cancelled
    else if g.completions.any fun c => s.arrived d c && s.arrivedCancelled d c then s.refuseSegment d n g.bays .cancelled
    else if (g.completions.all fun c => s.arrived d c) && s.readsFilled d g &&
        ((s.die d).train.isEmpty || (s.die d).quarter == g.quarter) then
      let s := g.bays.foldl (fun s b => s.takeStart ⟨d, b⟩ n) s
      (s.useReads d g).modDie d fun r => r.beginSegment g.bays g.mask g.quarter g.slots
    else s.startWaits d n g.bays
  | _, _ => s

/-- SEGMENT_START (R81): start commands pushed by private-form threads, then the die's next segment starts if it may. -/
def execSegmentStart (die : DieId) (starts : List StartPush) (s : State) : Out :=
  .next ((starts.foldl (fun s x => s.pushStart die x) s).startSegment die)

/-- The loft offset of a place in a slice; none for a buffer that the stream does not hold (R122). -/
def State.placeAt (s : State) (d : DieId) (p : SlicePlace) : Option Nat :=
  match p with
  | .offset o => some o
  | .buffer stream scale seq byte => ((s.namedStream d stream).held scale seq).map fun u => u.base + byte

/-- The bytes at the producer of a claimed beat (R79); what a router delivers is the oldest beat of its FIFO. -/
def State.beatSource (s : State) (d : DieId) (x : ClaimedBeat) : List Byte :=
  let n := min x.bytes 1024
  match x.src with
  | .slice _ p => (s.placeAt d p).elim [] fun o => s.readLoft d o n
  | .bay b (some o) => (s.bay ⟨d, b⟩).dmem.read o n
  | .bay _ none => []
  | .router i => (((s.die d).routers[i].inbox).headD []).take n

/-- A router of a die changed. -/
def State.modRouter (s : State) (d : DieId) (i : Fin 4) (f : Router → Router) : State :=
  s.modDie d fun r => { r with routers := updAt r.routers i f }

/-- What a beat into a STORE stream's buffer fills of it, from its first byte on (R128). -/
def State.fillStore (s : State) (d : DieId) (p : SlicePlace) (n : Nat) : State :=
  match p with
  | .buffer stream false seq byte =>
    let (b, k) := (s.die d).physStream stream
    if (s.stream ⟨d, b⟩ k).conf.mode = 1 then
      s.modStream ⟨d, b⟩ k fun t => t.modBuffer false seq fun u => { u with bytes := max u.bytes (byte + n) }
    else s
  | _ => s

/-- A claimed beat moves (R79, R80): into a slice, a bay's data memory, or the FIFO of the die across a router. -/
def State.moveBeat (s : State) (d : DieId) (x : ClaimedBeat) : State :=
  let bytes := s.beatSource d x
  let s := (s.storeTake d x).elim s fun y => (s.takeBuffer y.1 y.2 false 0).getD s
  let s := match x.src with
    | .router i => s.modRouter d i fun y => { y with inbox := y.inbox.drop 1 }
    | _ => s
  match x.dst with
  | .slice _ p => (s.placeAt d p).elim s fun o => (s.writeLoft d o bytes).fillStore d p bytes.length
  | .bay b (some o) => s.modBay ⟨d, b⟩ fun y => { y with dmem := y.dmem.write o bytes }
  | .bay _ none => s
  | .router i =>
    match acrossRouter d i with
    | some n => s.modRouter n (facing i) fun y => { y with inbox := y.inbox ++ [bytes] }
    | none => s

/-- What a slot's ring schedule does (R53 to R60, R66, R124). -/
def State.runAct (s : State) (d : DieId) (quarter : Bool) (a : RingAct) : State :=
  match a with
  | .load bent turned high _ stream seq half first count =>
    s.loadBent d bent turned high stream seq half first ((s.die d).cycleLines stream seq half count)
  | .feedLoad bay high stream seq half first count =>
    s.loadFeed ⟨d, bay⟩ high stream seq half first ((s.die d).cycleLines stream seq half count)
  | .feedSwap bay => s.modBay ⟨d, bay⟩ fun y => { y with feed := y.feed.swap }
  | .hop => s.hopTrain d quarter
  | .emit bay entryBent pair row entry firstK swap => s.emitRow ⟨d, bay⟩ entryBent pair.toNat row.val entry.toNat firstK swap
  | .zero bent first count => if (s.die d).bentOn bent then s.modBent d bent fun x => x.zeroEntries first count else s
  | .reduce head entry region rowIx cg => s.reduceEntry d head quarter entry.toNat region rowIx cg
  | .epilogue bent mode first ledger out lanes features =>
    (s.epilogueColumn d bent mode first.toNat ledger.toNat out lanes features).1
  | .release stream scale n =>
    let (b, k) := (s.die d).physStream stream
    if (s.stream ⟨d, b⟩ k).canRelease scale n then s.release ⟨d, b⟩ k scale n else s

/-- A slot is a cycle of ring fill (R73): its beat finds the first row of a run still on its way to the last station, or the feed
stage loads while no train is on the ring. -/
def RingDie.fillSlot (r : RingDie) (quarter : Bool) (acts : List RingAct) : Bool :=
  (acts.contains .hop && decide (0 < r.train.length) && decide (r.train.length < ringLength quarter)) ||
  (r.train.isEmpty && acts.any fun a => match a with
    | .feedLoad _ _ _ _ _ _ _ => true
    | _ => false)

/-- The clock counters of one cycle: stretches, pauses, gated senders (R326). -/
def RingDie.countCycle (r : RingDie) (x : SlotCycle) : RingDie :=
  let r := x.stretched.foldl (fun r d => r.count (0x60 + d.val)) r
  let r := x.paused.foldl (fun r d => r.count (0x80 + d.val)) r
  x.gatedSenders.foldl (fun r d => r.count (0xA0 + d.val)) r

/-- The routers that a slot's claimed beats use (R88). -/
def claimedRouters (x : SwitchSlot) : List (Fin 4) :=
  (List.finRange 4).filter fun i => decide (0 < claimedAt x i true + claimedAt x i false)

/-- SLOT_ISSUE (R80, R82, R88): the next slot of the segment in progress; held, it moves none of its claimed beats and issues later;
otherwise it issues whole. -/
def execSlotIssue (die : DieId) (cycle : SlotCycle) (s : State) : Out :=
  .next (
    match (s.die die).nextSlot with
    | none => s
    | some (g, x) =>
      let s := s.modDie die fun r => r.countCycle cycle
      let holds := s.slotHolds die g.quarter x
      if holds ≠ [] then
        let s := (s.storeLacks die x).foldl (fun s y => s.modStream y.1 y.2.1 fun t => t.lack y.2.2 1) s
        s.modDie die fun r => r.holdCycle x.offerIn x.offerOut holds
      else
        let s := s.modDie die fun r =>
          let r := if r.fillSlot g.quarter x.acts then r.count 0x11 else r
          { (r.issueCycle x.offerIn x.offerOut (claimedRouters x)) with segment := some { g with issued := g.issued + 1 } }
        let s := x.claimed.foldl (fun s b => s.moveBeat die b) s
        let s := x.acts.foldl (fun s a => s.runAct die g.quarter a) s
        cycle.corrected.foldl (fun s o => s.correctedLoft die o) s)

/-- SEGMENT_END (R81): the last slot has issued, and the start command of each named bay completes. -/
def execSegmentEnd (die : DieId) (s : State) : Out :=
  .next (
    match (s.die die).segment with
    | none => s
    | some g =>
      if g.issued ≠ g.slots.length then s
      else
        let s := g.bays.foldl
          (fun s b =>
            match ((s.bay ⟨die, b⟩).queue .ring).running with
            | some r => s.finishRunning ⟨die, b⟩ .ring r
            | none => s) s
        s.modDie die RingDie.endSegment)

/-! ## Routers (R88) -/

/-- The level a router takes at a temperature: up at a threshold, down at HYST below the level's own (R88, R408). -/
def routerLevel (derate : Word) (level t : Nat) : Nat :=
  let th (k : Nat) : Nat := (derate.toNat / 256 ^ (k - 1)) % 256
  let hyst := (derate.extractLsb' 24 4).toNat
  let up := if t ≥ th 3 then 3 else if t ≥ th 2 then 2 else if t ≥ th 1 then 1 else 0
  if up ≥ level then up
  else if level = 3 ∧ t + hyst > th 3 then 3
  else if level ≥ 2 ∧ t + hyst > th 2 then 2
  else if t + hyst > th 1 then 1
  else 0

/-- ROUTER_DERATE_LEVEL (R88): entering level 3 writes a thermal record. -/
def execRouterDerateLevel (die : DieId) (router : Fin 4) (celsius : Byte) (s : State) : Out :=
  let r := s.die die
  let old := r.routers[router].level
  let new := routerLevel r.derate old celsius.toNat
  let s := s.modDie die fun r => { r with
    routers := updAt r.routers router fun x => { x with level := new, temp := celsius } }
  .next (if new = 3 ∧ old ≠ 3 then
    s.report { cls := .environment, code := 0x5805, subject := idDie die (0x28 + router.val),
               reporter := idDie die (0x28 + router.val), detail := BitVec.ofNat 64 router.val }
  else s)

end Sys2Proof.Machine
end

