-- ==== Sys2Proof/Machine/ScribeCmds.lean ====
section
/-! DEFINITION. The scribe log's own commands: a record closes (R344), a slot is copied to the SPI NOR (R348), and the I3C readers of
the two kingposts (R350). -/

namespace Sys2Proof.Machine

/-- RECORD_CLOSE (R344): the open record of a subject closes and is rewritten in place. -/
def execRecordClose (subject : Word) (s : State) : Out :=
  .next (match s.scribe.opens.find? fun o => o.record.subject = subject with
    | some o => { s with scribe := s.scribe.close o false }
    | none => s)

/-- A slot copied to the SPI NOR image (R348). -/
def Scribe.copySlot (c : Scribe) (slot : Nat) : Scribe :=
  let c := { c with mirror := c.mirror.erase slot }
  match c.slots.find? fun x => x.1 = slot with
  | some x => { c with nor := putSlot c.nor slot x.2 }
  | none => { c with nor := c.nor.filter fun x => x.1 ≠ slot }

/-- SCRIBE_MIRROR (R348): one waiting record write is copied. -/
def execScribeMirror (slot : Nat) (s : State) : Out :=
  .next (if s.scribe.mirror.contains slot then { s with scribe := s.scribe.copySlot slot } else s)

/-- The reader is the one of KP-B: the standby's while KP-A is active, the active one's after a takeover (R301, R350). -/
def State.readerB (s : State) (standby : Bool) : Bool := standby != s.fw.activeB

/-- The index of a reader. -/
def State.readerIndex (s : State) (standby : Bool) : Nat := if s.readerB standby then s.scribe.i3c.2 else s.scribe.i3c.1

/-- The index of a reader set. -/
def State.setReader (s : State) (standby : Bool) (i : Nat) : State :=
  { s with scribe := { s.scribe with
      i3c := if s.readerB standby then (s.scribe.i3c.1, i) else (i, s.scribe.i3c.2) } }

/-- I3C_WRITE_INDEX (R350): 0x01 and a 32-bit index; an index above 1,048,575 is ignored. -/
def execI3cWriteIndex (standby : Bool) (bytes : List Byte) (s : State) : Out :=
  let i := fieldAt bytes 1 4
  .next (if s.pkg.aux && decide (bytes.length = 5) && decide (bytes.take 1 = [0x01]) && decide (i ≤ 1048575) then
      s.setReader standby i
    else s)

/-- The bytes of a slot of a log image; slot 0 is its header (R347). -/
def LogImage.slotBytes (x : LogImage) (slot : Nat) : List Byte :=
  if slot = 0 then
    let body := leBytes 8 x.nextSeq ++ leBytes 8 x.oldest ++ leBytes 8 x.pinned ++ leBytes 8 x.bootCount ++ List.replicate 28 0
    body ++ leBytes 4 (crc32c body).toNat
  else
    match x.slots.find? fun y => y.1 = slot with
    | some y => recordBytes y.2
    | none => List.replicate 64 0

/-- A slot as the reader's own kingpost holds it (R302, R350). -/
def State.readerSlot (s : State) (standby : Bool) (slot : Nat) : List Byte :=
  match s.scribe.standby with
  | some x => if standby then x.slotBytes slot else s.slotBytes slot
  | none => s.slotBytes slot

/-- I3C_READ (R350): the slot at the index, and the index advances. -/
def execI3cRead (standby : Bool) (s : State) : Out :=
  .next (if s.pkg.aux then
      let i := s.readerIndex standby
      ({ s with io := { s.io with i3c := s.readerSlot standby i } } : State).setReader standby ((i + 1) % 1048576)
    else s)

end Sys2Proof.Machine
end

