-- ==== Sys2Proof/Machine/Security.lean ====
section
/-! DEFINITION. The SPDM 1.3 responder on DOE and on MCTP (R394, R396): what each request does to the connection and its
sessions. The bytes of the responses are SPDM's own, and the spec does not give them (log entry 10). -/

namespace Sys2Proof.Machine

/-- The connection of a transport. -/
def State.conn (s : State) : Transport → SpdmConn
  | .doe => s.sec.doe
  | .mctp => s.sec.mctp

/-- The connection of a transport changed. -/
def State.modConn (s : State) (tr : Transport) (f : SpdmConn → SpdmConn) : State :=
  match tr with
  | .doe => { s with sec := { s.sec with doe := f s.sec.doe } }
  | .mctp => { s with sec := { s.sec with mctp := f s.sec.mctp } }

/-- The responder answers: AUX stands and the security core runs (R289, R290). -/
def State.spdmUp (s : State) : Bool := s.pkg.aux && s.coreRuns .security

/-- A response given, whose bytes are also what CHUNK_GET reads on. -/
def State.spdmSay (s : State) (tr : Transport) (bytes : List Byte) : State :=
  ({ s with io := { s.io with spdm := bytes }, free := s.free + 1 } : State).modConn tr fun c => { c with chunksOut := bytes }

/-- The response of a kind: 0 an ERROR, and otherwise the request's own number in R396's list. -/
def State.spdmReply (s : State) (tr : Transport) (kind : Nat) : State := s.spdmSay tr (Config.spdmBody kind s.free)

/-- A request that the responder serves when its condition holds, and answers with ERROR otherwise. -/
def State.spdmServe (s : State) (tr : Transport) (kind : Nat) (good : Bool) (f : SpdmConn → SpdmConn) : State :=
  if !s.spdmUp then s
  else if good then (s.modConn tr f).spdmReply tr kind
  else s.spdmReply tr 0

/-- The algorithms are negotiated (R396). -/
def State.negotiated (s : State) (tr : Transport) : Bool := (s.conn tr).stage = 3

/-- An established session of a connection. -/
def SpdmConn.inSession (c : SpdmConn) (n : Nat) : Bool := c.sessions.any fun x => x.id = n && x.established

/-- GET_VERSION (R396): the connection starts anew. -/
def execGetVersion (tr : Transport) (s : State) : Out :=
  .next (s.spdmServe tr 1 true fun c => { c with stage := 1, sessions := [], chunksIn := none })

/-- GET_CAPABILITIES (R396). -/
def execGetCapabilities (tr : Transport) (flags : Word) (s : State) : Out :=
  .next (s.spdmServe tr 2 (decide (1 ≤ (s.conn tr).stage)) fun c => { c with stage := 2, flags := flags })

/-- NEGOTIATE_ALGORITHMS (R396). -/
def execNegotiateAlgorithms (tr : Transport) (offered : Word) (s : State) : Out :=
  let _ := offered
  .next (s.spdmServe tr 3 (decide (2 ≤ (s.conn tr).stage)) fun c => { c with stage := 3 })

/-- GET_DIGESTS (R396). -/
def execGetDigests (tr : Transport) (s : State) : Out := .next (s.spdmServe tr 4 (s.negotiated tr) id)

/-- GET_CERTIFICATE (R396): slot 0 holds the device identity chain. -/
def execGetCertificate (tr : Transport) (slot : Byte) (offset length : Nat) (s : State) : Out :=
  let _ := (offset, length)
  .next (s.spdmServe tr 5 (s.negotiated tr && decide (slot = 0)) id)

/-- CHALLENGE (R396). -/
def execChallenge (tr : Transport) (nonce : BitVec 256) (s : State) : Out :=
  let _ := nonce
  .next (s.spdmServe tr 6 (s.negotiated tr) id)

/-- The measurement blocks of R394. -/
def State.measurement (s : State) (index : Nat) : BitVec 384 :=
  match index with
  | 8 => Config.sha384 (configBytes s.cfg.active.format 0 s.cfg.base)
  | 9 => match s.loader.inEffect with
    | some b => b.digest
    | none => 0
  | 10 => Config.sha384 [BitVec.ofNat 8 (s.sec.debug).toNat, BitVec.ofNat 8 (bit s.sec.owner.isSome)]
  | _ => Config.componentDigest s.cfg.active.digest index

/-- GET_MEASUREMENTS (R394, R396): one block, their number (0), or all (0xFF). -/
def execGetMeasurements (tr : Transport) (index : Byte) (nonce : BitVec 256) (s : State) : Out :=
  let i := index.toNat
  let blocks := if index = 0xFF then (List.range 10).map (· + 1) else if i = 0 then [] else [i]
  .next (if !s.spdmUp then s
    else if s.negotiated tr && (decide (i ≤ 10) || decide (index = 0xFF)) then
      s.spdmSay tr (blocks.flatMap fun k => Config.spdmMeasurement k (s.measurement k) nonce)
    else s.spdmReply tr 0)

/-- KEY_EXCHANGE (R396): a new session, up to four on the transport. -/
def execKeyExchange (tr : Transport) (exchange : List Byte) (s : State) : Out :=
  let _ := exchange
  .next (s.spdmServe tr 8 (s.negotiated tr && decide ((s.conn tr).sessions.length < 4)) fun c =>
    { c with sessions := c.sessions ++ [⟨c.nextId, false, 0⟩], nextId := c.nextId + 1 })

/-- FINISH (R396): the session is established, or ends where the requester's proof fails. -/
def execFinish (tr : Transport) (session : Nat) (verify : List Byte) (s : State) : Out :=
  let known := (s.conn tr).sessions.any fun x => x.id = session && !x.established
  let good := Config.spdmFinishGood session verify
  .next (if !s.spdmUp then s
    else if known && good then
      (s.modConn tr fun c => { c with sessions := c.sessions.map fun x =>
        if x.id = session then { x with established := true } else x }).spdmReply tr 9
    else if known then
      (s.modConn tr fun c => { c with sessions := c.sessions.filter fun x => x.id ≠ session }).spdmReply tr 0
    else s.spdmReply tr 0)

/-- HEARTBEAT (R396). -/
def execSpdmHeartbeat (tr : Transport) (session : Nat) (s : State) : Out :=
  .next (s.spdmServe tr 10 ((s.conn tr).inSession session) id)

/-- KEY_UPDATE (R396): operations 1 and 2 update keys, 3 verifies one (log entry 10). -/
def execKeyUpdate (tr : Transport) (session : Nat) (op : Byte) (s : State) : Out :=
  let updates := decide (op = 1) || decide (op = 2)
  .next (s.spdmServe tr 11 ((s.conn tr).inSession session && (updates || decide (op = 3))) fun c =>
    { c with sessions := c.sessions.map fun x =>
        if x.id = session && updates then { x with updates := x.updates + 1 } else x })

/-- END_SESSION (R396). -/
def execEndSession (tr : Transport) (session : Nat) (s : State) : Out :=
  .next (s.spdmServe tr 12 ((s.conn tr).inSession session) fun c =>
    { c with sessions := c.sessions.filter fun x => x.id ≠ session })

/-- What CHUNK_SEND has received once this chunk is there; none where it is out of order. -/
def SpdmConn.chunk (c : SpdmConn) (seqNo : Nat) (data : List Byte) : Option (Nat × List Byte) :=
  match c.chunksIn with
  | none => if seqNo = 0 then some (1, data) else none
  | some (n, b) => if seqNo = n then some (n + 1, b ++ data) else none

/-- CHUNK_SEND (R396): chunks in order; the last ends the transfer. -/
def execChunkSend (tr : Transport) (seqNo : Nat) (last : Bool) (data : List Byte) (s : State) : Out :=
  .next (if !s.spdmUp then s
    else
      match (s.conn tr).chunk seqNo data with
      | some x => (s.modConn tr fun c => { c with chunksIn := if last then none else some x }).spdmReply tr 13
      | none => (s.modConn tr fun c => { c with chunksIn := none }).spdmReply tr 0)

/-- CHUNK_GET (R396): a further chunk of the last response. -/
def execChunkGet (tr : Transport) (handle seqNo : Nat) (s : State) : Out :=
  let _ := (handle, seqNo)
  .next (if !s.spdmUp then s
    else if (s.conn tr).chunksOut = [] then s.spdmReply tr 0
    else { s with io := { s.io with spdm := Config.spdmBody 14 s.free }, free := s.free + 1 })

/-- RESPOND_IF_READY (R396): no response is outstanding, since every request is answered at once. -/
def execRespondIfReady (tr : Transport) (token : Nat) (s : State) : Out :=
  let _ := token
  .next (s.spdmServe tr 15 false id)

end Sys2Proof.Machine
end

