-- ==== Sys2Proof/Machine/Dispatch.lean ====
section
/-! DEFINITION. One arm for each command of spec/opcode_table.json. -/

namespace Sys2Proof.Machine

def exec (i : Instr) (s : State) : Host.Outcome State Fault Refusal :=
  match i with
  | .step ring h stepNo lrFactor => Sys2Proof.Machine.execStep ring h stepNo lrFactor s
  | .copyToModule ring h hostAddr moduleAddr data => Sys2Proof.Machine.execCopyToModule ring h hostAddr moduleAddr data s
  | .copyFromModule ring h hostAddr moduleAddr bytes => Sys2Proof.Machine.execCopyFromModule ring h hostAddr moduleAddr bytes s
  | .quiesce ring h => Sys2Proof.Machine.execQuiesce ring h s
  | .resume ring h => Sys2Proof.Machine.execResume ring h s
  | .checkpointSnapshot ring h f => Sys2Proof.Machine.execCheckpointSnapshot ring h f s
  | .checkpointDirect ring h f => Sys2Proof.Machine.execCheckpointDirect ring h f s
  | .restoreHost ring h f image => Sys2Proof.Machine.execRestoreHost ring h f image s
  | .restoreSnapshot ring h f => Sys2Proof.Machine.execRestoreSnapshot ring h f s
  | .marker ring h => Sys2Proof.Machine.execMarker ring h s
  | .doorbellRead produced heartbeat found => Sys2Proof.Machine.execDoorbellRead produced heartbeat found s
  | .kpNudgeWrite value enables => Sys2Proof.Machine.execKpNudgeWrite value enables s
  | .kpPegWrite value enables => Sys2Proof.Machine.execKpPegWrite value enables s
  | .pegCheck => Sys2Proof.Machine.execPegCheck s
  | .clkLoadGo value enables => Sys2Proof.Machine.execClkLoadGo value enables s
  | .ringLedgerDataWrite die value enables => Sys2Proof.Machine.execRingLedgerDataWrite die value enables s
  | .ringLedgerDataRead die => Sys2Proof.Machine.execRingLedgerDataRead die s
  | .scribeSlotDataRead word => Sys2Proof.Machine.execScribeSlotDataRead word s
  | .latchingLoRead r => Sys2Proof.Machine.execLatchingLoRead r s
  | .counterClear offset value enables => Sys2Proof.Machine.execCounterClear offset value enables s
  | .registerWrite offset value enables => Sys2Proof.Machine.execRegisterWrite offset value enables s
  | .apertureWrite offset data => Sys2Proof.Machine.execApertureWrite offset data s
  | .apertureRead offset bytes found => Sys2Proof.Machine.execApertureRead offset bytes found s
  | .attach h features heartbeat => Sys2Proof.Machine.execAttach h features heartbeat s
  | .detach h => Sys2Proof.Machine.execDetach h s
  | .adopt h f => Sys2Proof.Machine.execAdopt h f s
  | .reset h => Sys2Proof.Machine.execReset h s
  | .load h addr length => Sys2Proof.Machine.execLoad h addr length s
  | .arm h timeout jobId => Sys2Proof.Machine.execArm h timeout jobId s
  | .disarm h => Sys2Proof.Machine.execDisarm h s
  | .functionDisableQuiesce h die bay func => Sys2Proof.Machine.execFunctionDisableQuiesce h die bay func s
  | .functionDisableForce h die bay func => Sys2Proof.Machine.execFunctionDisableForce h die bay func s
  | .functionReenable h die bay func => Sys2Proof.Machine.execFunctionReenable h die bay func s
  | .routeWrite h first count scratch => Sys2Proof.Machine.execRouteWrite h first count scratch s
  | .verdictTree h parent root childCount children => Sys2Proof.Machine.execVerdictTree h parent root childCount children s
  | .retiredPages h scratch => Sys2Proof.Machine.execRetiredPages h scratch s
  | .laneClear h link lane => Sys2Proof.Machine.execLaneClear h link lane s
  | .linkRetrain h link => Sys2Proof.Machine.execLinkRetrain h link s
  | .updateStage h addr length => Sys2Proof.Machine.execUpdateStage h addr length s
  | .acornWrite h offset length scratch last => Sys2Proof.Machine.execAcornWrite h offset length scratch last s
  | .updateSchedule h mode tAct actStep => Sys2Proof.Machine.execUpdateSchedule h mode tAct actStep s
  | .updateConfirm h => Sys2Proof.Machine.execUpdateConfirm h s
  | .updateRevert h => Sys2Proof.Machine.execUpdateRevert h s
  | .planWrite h scratch length => Sys2Proof.Machine.execPlanWrite h scratch length s
  | .planRead h scratch => Sys2Proof.Machine.execPlanRead h scratch s
  | .modeSet h mode => Sys2Proof.Machine.execModeSet h mode s
  | .configWriteRecord h scratch length => Sys2Proof.Machine.execConfigWriteRecord h scratch length s
  | .configWriteRestore h kind => Sys2Proof.Machine.execConfigWriteRestore h kind s
  | .configRead h scratch => Sys2Proof.Machine.execConfigRead h scratch s
  | .scribeRead h first count scratch => Sys2Proof.Machine.execScribeRead h first count scratch s
  | .scribeClearPinned h => Sys2Proof.Machine.execScribeClearPinned h s
  | .selftest h item mask => Sys2Proof.Machine.execSelftest h item mask s
  | .partsRead h scratch => Sys2Proof.Machine.execPartsRead h scratch s
  | .ownerLockSet h key => Sys2Proof.Machine.execOwnerLockSet h key s
  | .ownerLockGetNonce h => Sys2Proof.Machine.execOwnerLockGetNonce h s
  | .ownerLockClear h signature => Sys2Proof.Machine.execOwnerLockClear h signature s
  | .debugUnlockGetNonce h => Sys2Proof.Machine.execDebugUnlockGetNonce h s
  | .debugUnlockPresent h token => Sys2Proof.Machine.execDebugUnlockPresent h token s
  | .debugUnlockRelock h => Sys2Proof.Machine.execDebugUnlockRelock h s
  | .nonceExpiry => Sys2Proof.Machine.execNonceExpiry s
  | .heartbeatTimeout => Sys2Proof.Machine.execHeartbeatTimeout s
  | .portReset kind => Sys2Proof.Machine.execPortReset kind s
  | .busMasterDisable => Sys2Proof.Machine.execBusMasterDisable s
  | .hostReadFailure kind => Sys2Proof.Machine.execHostReadFailure kind s
  | .holdoffExpiry ring => Sys2Proof.Machine.execHoldoffExpiry ring s
  | .bootComplete r => Sys2Proof.Machine.execBootComplete r s
  | .hold t => Sys2Proof.Machine.execHold t s
  | .sum t d a b => Sys2Proof.Machine.execSum t d a b s
  | .diff t d a b => Sys2Proof.Machine.execDiff t d a b s
  | .prod t d a b => Sys2Proof.Machine.execProd t d a b s
  | .band t d a b => Sys2Proof.Machine.execBand t d a b s
  | .bor t d a b => Sys2Proof.Machine.execBor t d a b s
  | .bxor t d a b => Sys2Proof.Machine.execBxor t d a b s
  | .lsh t d a b => Sys2Proof.Machine.execLsh t d a b s
  | .rsh t d a b => Sys2Proof.Machine.execRsh t d a b s
  | .rshs t d a b => Sys2Proof.Machine.execRshs t d a b s
  | .cmps t d a b => Sys2Proof.Machine.execCmps t d a b s
  | .cmpu t d a b => Sys2Proof.Machine.execCmpu t d a b s
  | .copy t d a => Sys2Proof.Machine.execCopy t d a s
  | .sumi t d a imm => Sys2Proof.Machine.execSumi t d a imm s
  | .bandi t d a imm => Sys2Proof.Machine.execBandi t d a imm s
  | .bori t d a imm => Sys2Proof.Machine.execBori t d a imm s
  | .lshi t d a imm => Sys2Proof.Machine.execLshi t d a imm s
  | .place t d a imm => Sys2Proof.Machine.execPlace t d a imm s
  | .set t d imm => Sys2Proof.Machine.execSet t d imm s
  | .load8 t d a imm => Sys2Proof.Machine.execLoad8 t d a imm s
  | .store8 t d a imm => Sys2Proof.Machine.execStore8 t d a imm s
  | .load4 t d a imm => Sys2Proof.Machine.execLoad4 t d a imm s
  | .store4 t d a imm => Sys2Proof.Machine.execStore4 t d a imm s
  | .test t cond a b off => Sys2Proof.Machine.execTest t cond a b off s
  | .call t d imm => Sys2Proof.Machine.execCall t d imm s
  | .goto t a => Sys2Proof.Machine.execGoto t a s
  | .push t queue a imm => Sys2Proof.Machine.execPush t queue a imm s
  | .queueSlotFree b q => Sys2Proof.Machine.execQueueSlotFree b q s
  | .wait t ctr a => Sys2Proof.Machine.execWait t ctr a s
  | .readc t d ctr => Sys2Proof.Machine.execReadc t d ctr s
  | .clock t d => Sys2Proof.Machine.execClock t d s
  | .stop t => Sys2Proof.Machine.execStop t s
  | .fetchOpen c f => Sys2Proof.Machine.execFetchOpen c f s
  | .fetchPost c stream count => Sys2Proof.Machine.execFetchPost c stream count s
  | .fetchStart c stream delay => Sys2Proof.Machine.execFetchStart c stream delay s
  | .fetchRelease c stream scaleSeq count => Sys2Proof.Machine.execFetchRelease c stream scaleSeq count s
  | .fetchCancel c stream => Sys2Proof.Machine.execFetchCancel c stream s
  | .fetchClose c stream => Sys2Proof.Machine.execFetchClose c stream s
  | .store c f => Sys2Proof.Machine.execStore c f s
  | .kilnOpen c f => Sys2Proof.Machine.execKilnOpen c f s
  | .kilnReadout c f => Sys2Proof.Machine.execKilnReadout c f s
  | .reduce c f => Sys2Proof.Machine.execReduce c f s
  | .gather c f => Sys2Proof.Machine.execGather c f s
  | .vote c f => Sys2Proof.Machine.execVote c f s
  | .dispatch c f => Sys2Proof.Machine.execDispatch c f s
  | .combine c f => Sys2Proof.Machine.execCombine c f s
  | .send c f => Sys2Proof.Machine.execSend c f s
  | .sign c f => Sys2Proof.Machine.execSign c f s
  | .elementwise c f => Sys2Proof.Machine.execElementwise c f s
  | .row c f => Sys2Proof.Machine.execRow c f s
  | .mask c f tile => Sys2Proof.Machine.execMask c f tile s
  | .pass c f => Sys2Proof.Machine.execPass c f s
  | .move c f => Sys2Proof.Machine.execMove c f s
  | .wake c f => Sys2Proof.Machine.execWake c f s
  | .commandComplete b q => Sys2Proof.Machine.execCommandComplete b q s
  | .segmentStart die starts => Sys2Proof.Machine.execSegmentStart die starts s
  | .slotIssue die cycle => Sys2Proof.Machine.execSlotIssue die cycle s
  | .segmentEnd die => Sys2Proof.Machine.execSegmentEnd die s
  | .reductionBeat b region rowIx colGroup totals => Sys2Proof.Machine.execReductionBeat b region rowIx colGroup totals s
  | .bentClockStop die bent => Sys2Proof.Machine.execBentClockStop die bent s
  | .bentWake die bent held => Sys2Proof.Machine.execBentWake die bent held s
  | .wakeDeadline die bent => Sys2Proof.Machine.execWakeDeadline die bent s
  | .bentResidueFault die bent inScan => Sys2Proof.Machine.execBentResidueFault die bent inScan s
  | .loftUncorrectable die offset => Sys2Proof.Machine.execLoftUncorrectable die offset s
  | .routerDerateLevel die router celsius => Sys2Proof.Machine.execRouterDerateLevel die router celsius s
  | .descriptorBatch b slot => Sys2Proof.Machine.execDescriptorBatch b slot s
  | .transferIssue b slot => Sys2Proof.Machine.execTransferIssue b slot s
  | .sillTransferStart sill found => Sys2Proof.Machine.execSillTransferStart sill found s
  | .transferLand b slot order => Sys2Proof.Machine.execTransferLand b slot order s
  | .storeSectorWritten b slot => Sys2Proof.Machine.execStoreSectorWritten b slot s
  | .multicastReserve target source slot buffers => Sys2Proof.Machine.execMulticastReserve target source slot buffers s
  | .multicastGrant source slot die dry => Sys2Proof.Machine.execMulticastGrant source slot die dry s
  | .multicastCommit target slot => Sys2Proof.Machine.execMulticastCommit target slot s
  | .multicastAbort target slot => Sys2Proof.Machine.execMulticastAbort target slot s
  | .multicastTimeout source slot => Sys2Proof.Machine.execMulticastTimeout source slot s
  | .multicastLanded target slot => Sys2Proof.Machine.execMulticastLanded target slot s
  | .refreshDue sill channel bank management waited => Sys2Proof.Machine.execRefreshDue sill channel bank management waited s
  | .calibrationWindow sill eyeBad => Sys2Proof.Machine.execCalibrationWindow sill eyeBad s
  | .patrolScrubRead sill result onDie => Sys2Proof.Machine.execPatrolScrubRead sill result onDie s
  | .stackTempRead sill celsius => Sys2Proof.Machine.execStackTempRead sill celsius s
  | .stepRecord => Sys2Proof.Machine.execStepRecord s
  | .moduleFence found => Sys2Proof.Machine.execModuleFence found s
  | .verdictUp src context found => Sys2Proof.Machine.execVerdictUp src context found s
  | .verdictDown src context found => Sys2Proof.Machine.execVerdictDown src context found s
  | .verdictTimeout => Sys2Proof.Machine.execVerdictTimeout s
  | .stepEnd => Sys2Proof.Machine.execStepEnd s
  | .deferLimitExpiry => Sys2Proof.Machine.execDeferLimitExpiry s
  | .autoBentScan => Sys2Proof.Machine.execAutoBentScan s
  | .stepAbandon die bay => Sys2Proof.Machine.execStepAbandon die bay s
  | .drainTimeout => Sys2Proof.Machine.execDrainTimeout s
  | .stallWatchdog b => Sys2Proof.Machine.execStallWatchdog b s
  | .securityWatchdog => Sys2Proof.Machine.execSecurityWatchdog s
  | .powerWatchdog => Sys2Proof.Machine.execPowerWatchdog s
  | .schedulerWatchdog => Sys2Proof.Machine.execSchedulerWatchdog s
  | .kingpostCoreTrap core => Sys2Proof.Machine.execKingpostCoreTrap core s
  | .pairAliveTimeout cause => Sys2Proof.Machine.execPairAliveTimeout cause s
  | .standbyFailure => Sys2Proof.Machine.execStandbyFailure s
  | .edgeKingpostTimer => Sys2Proof.Machine.execEdgeKingpostTimer s
  | .rollingActivation => Sys2Proof.Machine.execRollingActivation s
  | .rollingSwitch declined => Sys2Proof.Machine.execRollingSwitch declined s
  | .checkpointStopEnd => Sys2Proof.Machine.execCheckpointStopEnd s
  | .snapshotDrainEnd => Sys2Proof.Machine.execSnapshotDrainEnd s
  | .tenonSend link => Sys2Proof.Machine.execTenonSend link s
  | .tenonReceive link t => Sys2Proof.Machine.execTenonReceive link t s
  | .creditAck link blk => Sys2Proof.Machine.execCreditAck link blk s
  | .replayTimer link => Sys2Proof.Machine.execReplayTimer link s
  | .creditAckTimeout link => Sys2Proof.Machine.execCreditAckTimeout link s
  | .linkRetraining link usable far => Sys2Proof.Machine.execLinkRetraining link usable far s
  | .linkBringUp link usable far => Sys2Proof.Machine.execLinkBringUp link usable far s
  | .hello link f => Sys2Proof.Machine.execHello link f s
  | .laneFailure link lane why => Sys2Proof.Machine.execLaneFailure link lane why s
  | .laneMap link lane replacement farFrame => Sys2Proof.Machine.execLaneMap link lane replacement farFrame s
  | .laneMapAck link farFrame => Sys2Proof.Machine.execLaneMapAck link farFrame s
  | .laneSwitchFrame link => Sys2Proof.Machine.execLaneSwitchFrame link s
  | .creditHoldTimeout link vc => Sys2Proof.Machine.execCreditHoldTimeout link vc s
  | .reduceData src context payload => Sys2Proof.Machine.execReduceData src context payload s
  | .gatherData src context payload => Sys2Proof.Machine.execGatherData src context payload s
  | .voteSigns src context payload => Sys2Proof.Machine.execVoteSigns src context payload s
  | .voteResult src context payload => Sys2Proof.Machine.execVoteResult src context payload s
  | .dispatchCount src context payload => Sys2Proof.Machine.execDispatchCount src context payload s
  | .dispatchGrant src context payload => Sys2Proof.Machine.execDispatchGrant src context payload s
  | .dispatchRows src context payload => Sys2Proof.Machine.execDispatchRows src context payload s
  | .combineRows src context payload => Sys2Proof.Machine.execCombineRows src context payload s
  | .sendData src context payload => Sys2Proof.Machine.execSendData src context payload s
  | .aonSample cycles => Sys2Proof.Machine.execAonSample cycles s
  | .marginReading die dom code => Sys2Proof.Machine.execMarginReading die dom code s
  | .timeMarkSend => Sys2Proof.Machine.execTimeMarkSend s
  | .timeMark w offsetPs => Sys2Proof.Machine.execTimeMark w offsetPs s
  | .markLoss => Sys2Proof.Machine.execMarkLoss s
  | .drawSample watts draw => Sys2Proof.Machine.execDrawSample watts draw s
  | .limiterShare need => Sys2Proof.Machine.execLimiterShare need s
  | .planMinuteBoundary => Sys2Proof.Machine.execPlanMinuteBoundary s
  | .powerReserveRise => Sys2Proof.Machine.execPowerReserveRise s
  | .powerReserveFall => Sys2Proof.Machine.execPowerReserveFall s
  | .thermalSensorRead stepNo celsius => Sys2Proof.Machine.execThermalSensorRead stepNo celsius s
  | .thermalTrip stepNo => Sys2Proof.Machine.execThermalTrip stepNo s
  | .supply48vLoss => Sys2Proof.Machine.execSupply48vLoss s
  | .supply48vReturn => Sys2Proof.Machine.execSupply48vReturn s
  | .auxLoss => Sys2Proof.Machine.execAuxLoss s
  | .moduleReset p => Sys2Proof.Machine.execModuleReset p s
  | .recordClose subject => Sys2Proof.Machine.execRecordClose subject s
  | .scribeMirror slot => Sys2Proof.Machine.execScribeMirror slot s
  | .i3cWriteIndex standby bytes => Sys2Proof.Machine.execI3cWriteIndex standby bytes s
  | .i3cRead standby => Sys2Proof.Machine.execI3cRead standby s
  | .i3cAcornWrite bytes => Sys2Proof.Machine.execI3cAcornWrite bytes s
  | .getSensorReading sensor => Sys2Proof.Machine.execGetSensorReading sensor s
  | .getPdr record => Sys2Proof.Machine.execGetPdr record s
  | .getPdrRepositoryInfo => Sys2Proof.Machine.execGetPdrRepositoryInfo s
  | .setEventReceiver eid enabled => Sys2Proof.Machine.execSetEventReceiver eid enabled s
  | .getTid => Sys2Proof.Machine.execGetTid s
  | .getPldmTypes => Sys2Proof.Machine.execGetPldmTypes s
  | .getPldmVersion type => Sys2Proof.Machine.execGetPldmVersion type s
  | .getPldmCommands type => Sys2Proof.Machine.execGetPldmCommands type s
  | .getVersion tr => Sys2Proof.Machine.execGetVersion tr s
  | .getCapabilities tr flags => Sys2Proof.Machine.execGetCapabilities tr flags s
  | .negotiateAlgorithms tr offered => Sys2Proof.Machine.execNegotiateAlgorithms tr offered s
  | .getDigests tr => Sys2Proof.Machine.execGetDigests tr s
  | .getCertificate tr slot offset length => Sys2Proof.Machine.execGetCertificate tr slot offset length s
  | .challenge tr nonce => Sys2Proof.Machine.execChallenge tr nonce s
  | .getMeasurements tr index nonce => Sys2Proof.Machine.execGetMeasurements tr index nonce s
  | .keyExchange tr exchange => Sys2Proof.Machine.execKeyExchange tr exchange s
  | .finish tr session verify => Sys2Proof.Machine.execFinish tr session verify s
  | .spdmHeartbeat tr session => Sys2Proof.Machine.execSpdmHeartbeat tr session s
  | .keyUpdate tr session op => Sys2Proof.Machine.execKeyUpdate tr session op s
  | .endSession tr session => Sys2Proof.Machine.execEndSession tr session s
  | .chunkSend tr seqNo last data => Sys2Proof.Machine.execChunkSend tr seqNo last data s
  | .chunkGet tr handle seqNo => Sys2Proof.Machine.execChunkGet tr handle seqNo s
  | .respondIfReady tr token => Sys2Proof.Machine.execRespondIfReady tr token s
  | .auxReturn => Sys2Proof.Machine.execAuxReturn s
  | .copyCompletion ring => Sys2Proof.Machine.execCopyCompletion ring s
  | .stagingComplete => Sys2Proof.Machine.execStagingComplete s
  | .kingpostCoreReturn core => Sys2Proof.Machine.execKingpostCoreReturn core s
  | .evtConsumedWrite value => Sys2Proof.Machine.execEvtConsumedWrite value s
  | .selftestItemEnd => Sys2Proof.Machine.execSelftestItemEnd s

end Sys2Proof.Machine
end

