-- ==== Sys2Proof/WellFormed.lean ====
section
/-! DEFINITION. Which commands are well formed: the bounds of an operand's length or range that its type does not carry. Every
command has a meaning; these are the ones a sender of R261 to R437 can produce. -/

namespace Sys2Proof

/-- The descriptor data the host holds has the length the descriptor names (R273, R362). -/
def JobWork.wf : JobWork → Bool
  | .restoreHost f image => decide (image.length = f.bytes.toNat)
  | _ => true

/-- A token of 192 bytes (R397). -/
def tokenWf (token : List Byte) : Bool := decide (token.length = 192)

/-- Sectors of a stack: 64 x 10^9 bytes in sectors of 64 (R146, R148). -/
def SectorEvent.wf (e : SectorEvent) : Bool := decide (e.sector < 1000000000)

/-- A link has nine physical lanes (R188). -/
def LaneErrors.wf (e : LaneErrors) : Bool := decide (e.corrected.length = 9) && decide (e.uncorrectable.length = 9)

/-- The well-formedness of a command. -/
def Instr.wf : Instr → Bool
  | .restoreHost _ _ f image => (JobWork.restoreHost f image).wf
  | .doorbellRead produced _ found => decide (produced.length = 16) && found.all fun x => x.2.work.wf
  | .apertureWrite offset data => decide (offset.toNat + data.length ≤ 2 ^ 36) && decide (0 < data.length)
  | .apertureRead offset bytes found =>
    decide (offset.toNat + bytes ≤ 2 ^ 36) && decide (0 < bytes) && found.all SectorEvent.wf
  | .debugUnlockPresent _ token => tokenWf token
  | .verdictTree _ _ _ _ children => decide (children.length = 8)
  | .adopt _ _ => true
  | .reductionBeat _ _ _ _ totals => decide (totals.length = 256)
  | .sillTransferStart _ found => found.all SectorEvent.wf
  | .drawSample watts _ => decide (watts.length = 16)
  | .limiterShare need => decide (need.length = 16)
  | .i3cAcornWrite bytes => decide (bytes.length ≤ 261)
  | .creditAck _ blk => decide (blk.returns.length = 4) && blk.lanes.wf
  | .hello _ f => decide (f.credits.length = 4)
  | .tenonReceive _ t => decide (t.tenon.payload.length ≤ 16384) && t.lanes.wf
  | _ => true

end Sys2Proof
end

