-- ==== Sys2Proof/Safety.lean ====
section
/-! DEFINITION. What a good state is, and the words in which statements speak: the conditions under which a command has its own
effect, and the states that the spec names after it. -/

namespace Sys2Proof

open Sys2Proof.Machine

/-! ## Good states -/

/-- Every byte memory of the module is in canonical form. -/
def memoriesWf (s : Machine.State) : Bool :=
  s.host.memory.wf && s.host.msixTable.wf && s.mgmt.scratch.wf && s.mgmt.reqRing.wf && s.cfg.acorn.wf &&
  (s.sills.toList.all fun m => m.dram.wf) &&
  (s.dies.toList.all fun r => r.loft.wf && r.bays.toList.all fun b => b.dmem.wf)

/-- The invariant of the model: every byte memory in canonical form, and a debug level that is not the reserved one (R398). -/
def Good (s : Machine.State) : Prop := memoriesWf s = true ∧ s.sec.debug ≠ 3

/-- A step answers a next state: no command faults and none is refused. -/
def safeStep (s : Machine.State) : Prop := ∃ t, Machine.step s = .next t

/-! ## Requests (R283, R286, R290) -/

/-- The state with one more request posted and taken from the ring. -/
def requestTaken (s : Machine.State) : Machine.State :=
  { s with mgmt := { s.mgmt with reqProduced := s.mgmt.reqProduced + 1, reqConsumed := s.mgmt.reqConsumed + 1 } }

/-- A request is taken and served at once: reserved bytes 0, the module out of BOOT and ACORN, the scheduler and security cores
running (R283, R286, R290, R391). -/
def servesNow (s : Machine.State) (h : ReqHead) : Bool :=
  h.reservedClear && s.kp.state ≠ .boot && s.kp.state ≠ .acorn && s.coreRuns .scheduler && !s.fw.restarting[0]

/-! ## Steps and descriptors (R93, R255, R268 to R274, R361) -/

/-- Nothing waits for the module to come to rest: no failed bent, no maintenance item, no pending load, no FUNCTION request. -/
def atRest (s : Machine.State) : Prop :=
  s.job.failedBents = [] ∧ s.job.items = [] ∧ s.loader.pending = none ∧ ∀ b : BayId, (s.bay b).funcWaiting = []

/-- The module reads its job rings, ring `n` is enabled, and no descriptor is held on any. -/
def ringsEmpty (s : Machine.State) (n : RingIx) : Prop :=
  s.polls = true ∧ (s.ring n).enabled = true ∧ s.host.orphanDue = false ∧ ∀ k : RingIx, (s.ring k).held = []

/-- The state in which a descriptor has been read from a ring and its execution is in progress. -/
def startedOn (s : Machine.State) (n : RingIx) (d : JobDesc) : Machine.State :=
  (s.readJobDesc n d).markStarted n

/-! ## Threads of a control core (R75, R257) -/

/-- It is the thread's turn to issue: it is the next ready one after the thread that issued last (R75). -/
def threadReady (s : Machine.State) (t : ThreadRef) : Prop := (s.bay t.bay).nextReady = some t.thread

/-- The state in which a thread has issued and become `x`; nothing else differs. -/
def issued (s : Machine.State) (t : ThreadRef) (x : Thread) : Machine.State :=
  s.modBay t.bay fun y => { y with threads := y.threads.set t.thread x, lastIssued := t.thread }

/-- The thread with a register written, at its next word. -/
def wrote (x : Thread) (d : Fin 16) (v : DWord) : Thread :=
  { x with regs := x.regs.set d v, pc := (x.pc + 1) % 65536 }

/-! ## Engines of a bay (R76, R90, R437) -/

/-- The engine takes this record at once: its function is enabled, it runs nothing, nothing waits before it, and the unused bits
are 0. -/
def engineFree (s : Machine.State) (h : CmdHead) (q : QueueIx) : Prop :=
  (s.bay h.bay).queueState q = .enabled ∧ ((s.bay h.bay).queue q).running = none ∧
    ((s.bay h.bay).queue q).waiting = [] ∧ h.unusedClear = true

/-- The state in which the engine runs the command and will report a status. -/
def running (s : Machine.State) (h : CmdHead) (q : QueueIx) (cmd : EngineCmd) (st : Status) : Machine.State :=
  s.modQueue h.bay q fun x => { x with running := some ⟨h.ctr, cmd, st⟩ }

end Sys2Proof
end

