-- ==== Sys2Proof/Certificates/Slice0/Obligations.lean ====
section
/-! DEFINITION. The statements for the provers, in the order of OBLIGATIONS.json. Each docstring names the rules it rests on. -/

open Sys2Proof Sys2Proof.Machine

/-! ## Management requests (R197, R251, R252, R279 to R290, R329, R330, R347 to R353, R373 to R397) -/

/-- A request is answered with a RESPONSE event: while the ring has room the event is the newest entry, with KIND 1, the status,
the module state, the tag and board time; while it has none the event waits, and none is lost (R283, R287).
No request but the code of ACORN_WRITE and RESET has an effect in ACORN: every other one is answered DISABLED (R391), and one
with a reserved byte that is not 0 is answered BAD_DESCRIPTOR (R286). -/
def Obligations.RequestsAreAnswered : Prop :=
  (∀ (s : Machine.State) (tag : Word) (st : Status) (data : BitVec 384),
    let e : Event := ⟨0x01, st, stateCode s.kp.state, tag, s.clk.boardTime, data⟩
    (s.eventRoom = true → s.mgmt.waiting = [] →
      (s.respond tag st data).mgmt.events.getLast? = some e ∧
      (s.respond tag st data).mgmt.evtProduced = s.mgmt.evtProduced + 1 ∧
      (s.respond tag st data).mgmt.waiting = []) ∧
    (s.eventRoom = false ∨ s.mgmt.waiting ≠ [] →
      (s.respond tag st data).mgmt.events = s.mgmt.events ∧
      (s.respond tag st data).mgmt.waiting = s.mgmt.waiting ++ [e]) ∧
    { s.respond tag st data with mgmt := s.mgmt, host := s.host } = s) ∧
  (∀ (s : Machine.State) (h : ReqHead) (r : Request), s.kp.state ≠ .boot → s.coreRuns .scheduler = true →
    (h.reservedClear = false → s.takeRequest h r = (requestTaken s).respond h.tag .badDescriptor) ∧
    (h.reservedClear = true → s.kp.state = .acorn → acornTakes r = false →
      s.takeRequest h r = (requestTaken s).respond h.tag .disabled))

/-- ATTACH, DETACH, ADOPT and RESET (R279, R281, R282, R285, R286). Where `progress` stands, the descriptors held on the job rings
go on afterwards. -/
def Obligations.DriverRequestsTakeEffect : Prop :=
  ∀ (s : Machine.State) (h : ReqHead), servesNow s h = true →
    (∀ (features : BitVec 256) (heartbeat : Word),
      (s.kp.state = .idle ∨ s.kp.state = .armed ∨ s.kp.state = .quiesced ∨ s.kp.state = .faulted) → s.kp.peg = true →
      s.attachedNow = false → heartbeat.toNat ≤ 3600 →
      ∃ x : Machine.State, Machine.exec (.attach h features heartbeat) s = .next x.progress ∧
        x.mgmt.accepted = (s.mgmt.offer &&& features) ∧ x.host.attached = true ∧ x.host.driverLost = false ∧
        x.host.heartbeatTimeout = (if heartbeat = 0 then 30 else heartbeat.toNat) ∧
        { x with mgmt := s.mgmt, host := s.host } = s) ∧
    (s.attachedNow = true →
      ∃ x : Machine.State, Machine.exec (.detach h) s = .next (x.respond h.tag .done) ∧ x = (requestTaken s).loseDriver 1) ∧
    (∀ f : AdoptFields, s.kp.state = .orphaned → atRest s → s.job.saves = [] → s.hasFeature 8 = true → f.heartbeat.toNat ≤ 3600 →
      scratchGood f.resultOffset.toNat 64 = true → scratchGood f.ringTable.toNat 512 = true →
      ∃ x : Machine.State, Machine.exec (.adopt h f) s = .next (x.respond h.tag .done 64).progress ∧
        x.mgmt.scratch.read f.resultOffset.toNat 64 = s.consumedTable ∧ x.kp.state = .quiesced ∧ x.host.attached = true ∧
        x.host.adopted = true ∧ x.mgmt.accepted = (s.mgmt.offer &&& f.features) ∧ x.mgmt.journal = []) ∧
    (∃ t : Machine.State, Machine.exec (.reset h) s = .next t ∧ t.kp.state = .boot ∧ t.kp.peg = false ∧
      t.host.attached = false ∧ t.mgmt.events = [] ∧ t.kp.bootCount = s.kp.bootCount + 1 ∧
      t.scribe.slots = s.scribe.slots ∧ t.cfg.base = s.cfg.base)

/-- LOAD, ARM and DISARM in the states that take them (R251, R252, R285, R288).
The three FUNCTION requests: each is put at the end of its bay's list with its tag, and the list is worked through (R89 to R93,
R286).
A FORCE of a bay whose functions are all enabled and quiet: BAY is ABORTED, every thread HALTED, and the request answered with
DONE; a re-enable in IDLE makes it ENABLED again (R91, R93, R95). -/
def Obligations.JobAndFunctionRequestsTakeEffect : Prop :=
  (∀ (s : Machine.State) (h : ReqHead), servesNow s h = true →
    (∀ (addr length : DWord) (b : Bundle), s.loadState = true → length ≠ 0 → addr.toNat + length.toNat ≤ 2 ^ 40 →
      s.inMemory addr.toNat length.toNat = true →
      let image : List Byte := ((requestTaken s).readThrough addr.toNat length.toNat).1
      let x : Machine.State := ((requestTaken s).readThrough addr.toNat length.toNat).2.1
      x.checkBundle image addr.toNat = .ok b →
      Machine.exec (.load h addr length) s = .next (x.takeBundle b (fieldAt image 12 4) (secEntries image) h.tag)) ∧
    (∀ (timeout : Word) (jobId : DWord), s.kp.state = .idle → atRest s → s.canArm = true → timeout.toNat ≤ 3600 →
      ∃ x : Machine.State, Machine.exec (.arm h timeout jobId) s = .next (x.respond h.tag .done).progress ∧
        x.kp.state = .armed ∧ x.job.id = jobId ∧ x.job.verdictTimeout = (if timeout = 0 then 10 else timeout.toNat) ∧
        x.job.previous = none ∧ x.job.replays = 0) ∧
    (s.kp.state = .armed ∨ s.kp.state = .quiesced → atRest s →
      ∃ x : Machine.State, Machine.exec (.disarm h) s = .next (x.respond h.tag .done).progress ∧ x.kp.state = .idle)) ∧
  (∀ (s : Machine.State) (h : ReqHead) (die : DieId) (bay : BayIx) (k : FuncKind), servesNow s h = true →
    let code : Byte := match k with | .bay => 1 | .vector => 2 | .fetch => 3 | .store => 4
    let b : BayId := ⟨die, bay⟩
    let queued (a : FuncAction) : Machine.State :=
      (requestTaken s).modBay b fun y => { y with funcWaiting := y.funcWaiting ++ [(k, a, h.tag)] }
    let d : Byte := BitVec.ofNat 8 die.val
    let c : Byte := BitVec.ofNat 8 bay.val
    Machine.exec (.functionDisableQuiesce h d c code) s = .next (((queued .quiesce).nextFuncs b false).settleFuncs b) ∧
    Machine.exec (.functionDisableForce h d c code) s = .next (((queued .force).nextFuncs b false).settleFuncs b) ∧
    Machine.exec (.functionReenable h d c code) s = .next (((queued .reenable).nextFuncs b false).settleFuncs b)) ∧
  (∀ (s : Machine.State) (b : BayId) (tag : Word), (s.bay b).funcActive = [] →
    ((s.bay b).func .bay = .enabled →
      ∃ t : Machine.State, s.startFunc b .bay .force tag false = some t ∧ (t.bay b).func .bay = .aborted ∧
        ∀ i : ThreadIx, ((t.bay b).threads[i]).mode = .halted) ∧
    ((s.bay b).func .bay = .aborted → s.kp.state = .idle →
      ∃ t : Machine.State, s.startFunc b .bay .reenable tag false = some t ∧ (t.bay b).func .bay = .enabled ∧
        (∀ i : ThreadIx, ((t.bay b).threads[i]).mode = .halted) ∧
        ∀ q : QueueIx, ((t.bay b).queue q).waiting = []))

/-- ROUTE_WRITE, VERDICT_TREE, RETIRED_PAGES, LANE_CLEAR and LINK_RETRAIN (R159, R196, R202, R209, R231, R286). -/
def Obligations.TableRequestsTakeEffect : Prop :=
  ∀ (s : Machine.State) (h : ReqHead), servesNow s h = true →
    (∀ (first count : BitVec 16) (scratch : Word), s.tableState = true → 0 < count.toNat → first.toNat + count.toNat ≤ 32768 →
      scratchGood scratch.toNat count.toNat = true →
      ∃ x : Machine.State, Machine.exec (.routeWrite h first count scratch) s = .next (x.respond h.tag .done) ∧
        ∀ k : Nat, Sparse.get (0 : Byte) x.coll.routes k =
          if first.toNat ≤ k ∧ k < first.toNat + count.toNat then
            s.mgmt.scratch.get (scratch.toNat + (k - first.toNat)) &&& 0x3F
          else Sparse.get (0 : Byte) s.coll.routes k) ∧
    (∀ (parent : BitVec 15) (root : Bool) (kids : List (BitVec 15)), s.tableState = true → kids.length ≤ 8 →
      Machine.exec (.verdictTree h parent root (BitVec.ofNat 8 kids.length)
          (kids.map (fun c => c.zeroExtend 16) ++ List.replicate (8 - kids.length) 0)) s =
        .next (({ requestTaken s with coll := { s.coll with tree := some ⟨parent, root, kids⟩ } } : Machine.State).respond
          h.tag .done)) ∧
    (∀ scratch : Word, s.attachedNow = true → scratchGood scratch.toNat s.retiredBytes.length = true →
      ∃ x : Machine.State, Machine.exec (.retiredPages h scratch) s =
          .next (x.respond h.tag .done (BitVec.ofNat 384 s.retiredBytes.length)) ∧
        x.mgmt.scratch.read scratch.toNat s.retiredBytes.length = s.retiredBytes) ∧
    (∀ (link : LinkId) (lane : Byte), s.tableState = true → (lane.toNat ≤ 8 ∨ lane = 0xFF) →
      ∃ x : Machine.State, Machine.exec (.laneClear h (BitVec.ofNat 8 link.val) lane) s = .next (x.respond h.tag .done) ∧
        (∀ i : Nat, i < 9 → (x.link link).laneRecords.getLsbD i =
          ((s.link link).laneRecords.getLsbD i && !(lane = 0xFF || lane.toNat == i))) ∧
        ∀ k : LinkId, k ≠ link → x.link k = s.link k) ∧
    (∀ link : LinkId, s.attachedNow = true → ((s.link link).state = .down ∨ (s.link link).state = .refused) →
      ∃ x : Machine.State, Machine.exec (.linkRetrain h (BitVec.ofNat 8 link.val)) s = .next (x.respond h.tag .done) ∧
        x = (requestTaken s).retrain link)

/-- PLAN_WRITE, PLAN_READ, SCRIBE_READ, SCRIBE_CLEAR_PINNED, SELFTEST and PARTS_READ (R329, R330, R347, R349, R353). -/
def Obligations.PlanAndLogRequestsTakeEffect : Prop :=
  ∀ (s : Machine.State) (h : ReqHead), servesNow s h = true → s.attachedNow = true →
    (∀ (scratch length : Word) (first : Nat) (entries : List PlanEntry), s.hasFeature 4 = true → s.clk.valid = true →
      scratchGood scratch.toNat length.toNat = true →
      parsePlan (s.readScratch scratch.toNat length.toNat) = some (first, entries) → s.minuteNow < first →
      Machine.exec (.planWrite h scratch length) s =
        .next (({ requestTaken s with pwr := { s.pwr with plan := replacePlan s.pwr.plan first entries } } :
          Machine.State).respond h.tag .done)) ∧
    (∀ scratch : Word, scratchGood scratch.toNat s.planBytes.length = true →
      ∃ x : Machine.State, Machine.exec (.planRead h scratch) s =
          .next (x.respond h.tag .done (BitVec.ofNat 384 s.planBytes.length)) ∧
        x.mgmt.scratch.read scratch.toNat s.planBytes.length = s.planBytes) ∧
    (∀ (first : DWord) (count scratch : Word), 0 < count.toNat → count.toNat ≤ 16384 →
      scratchGood scratch.toNat (64 * count.toNat) = true →
      ∃ (x : Machine.State) (l : List Record), x.mgmt.scratch.read scratch.toNat (64 * l.length) = l.flatMap recordBytes ∧
        l.length ≤ count.toNat ∧ (∀ r ∈ l, first.toNat ≤ r.seqNo ∧ ∃ k, (k, r) ∈ s.scribe.slots) ∧
        Machine.exec (.scribeRead h first count scratch) s = .next (x.respond h.tag .done
          (BitVec.ofNat 384 (l.length + 2 ^ 64 * (s.scribe.bySeq.map Record.seqNo).headD 0)))) ∧
    (∃ x : Machine.State, Machine.exec (.scribeClearPinned h) s = .next (x.respond h.tag .done) ∧ x.scribe.pinned = 0 ∧
      (∀ k r, (k, r) ∈ x.scribe.slots ↔ (k, r) ∈ s.scribe.slots ∧ 65 ≤ k)) ∧
    (∀ (item : Byte) (mask : Word), itemScan ≤ item.toNat → item.toNat < itemMarch →
      Machine.exec (.selftest h item mask) s =
        .next ((requestTaken s).askItem ⟨item.toNat, mask, some h.tag, s.clk.aonMicros⟩)) ∧
    (∀ scratch : Word, scratchGood scratch.toNat (Config.partsBytes s.partsFacts).length = true →
      ∃ x : Machine.State, Machine.exec (.partsRead h scratch) s =
          .next (x.respond h.tag .done (BitVec.ofNat 384 (Config.partsBytes s.partsFacts).length)) ∧
        x.mgmt.scratch.read scratch.toNat (Config.partsBytes s.partsFacts).length = Config.partsBytes s.partsFacts)

/-- UPDATE_STAGE, ACORN_WRITE, UPDATE_SCHEDULE, UPDATE_CONFIRM and UPDATE_REVERT (R384 to R386, R389, R391, R393). -/
def Obligations.UpdateRequestsTakeEffect : Prop :=
  ∀ (s : Machine.State) (h : ReqHead),
    (∀ (addr length : DWord) (p : Package'), servesNow s h = true → s.updateBar = none → s.updateBusy = false → length ≠ 0 →
      addr.toNat + length.toNat ≤ 2 ^ 40 → s.inMemory addr.toNat length.toNat = true →
      parsePackage ((requestTaken s).readThrough addr.toNat length.toNat).1 = some p →
      (∀ x : Machine.State, x.cfg = s.cfg.emptyOther → x.sec = s.sec →
        x.packageFault ((requestTaken s).readThrough addr.toNat length.toNat).1 p = none) →
      ∃ t : Machine.State, Machine.exec (.updateStage h addr length) s = .next t ∧ t.cfg.other.state = .empty ∧
        t.cfg.staging = some (h.tag, packageSlot p .staged, (digestFault p).map fun r => BitVec.ofNat 8 r.code)) ∧
    (∀ (offset : DWord) (length scratch : Word), h.reservedClear = true → s.kp.state = .acorn →
      s.coreRuns .scheduler = true → s.fw.restarting[0] = false → 0 < length.toNat → length.toNat ≤ 2 ^ 20 →
      scratchGood scratch.toNat length.toNat = true →
      Machine.exec (.acornWrite h offset length scratch false) s =
        .next (({ requestTaken s with cfg := { s.cfg with
            acorn := s.cfg.acorn.write offset.toNat (s.mgmt.scratch.read scratch.toNat length.toNat) } } :
          Machine.State).respond h.tag .done)) ∧
    (∀ (rolling : Bool) (tAct actStep : DWord), servesNow s h = true → s.cfg.other.state = .staged →
      s.scheduleBar rolling tAct actStep = none →
      Machine.exec (.updateSchedule h (if rolling then 2 else 1) tAct actStep) s =
        .next (({ requestTaken s with cfg := { s.cfg with schedule := some ⟨rolling, false, tAct, actStep, h.tag⟩ } } :
          Machine.State).respond h.tag .done)) ∧
    (servesNow s h = true → s.attachedNow = true → s.cfg.active.state = .trial → s.cfg.rolling = none →
      s.cfg.schedule = none →
      ∃ x : Machine.State, Machine.exec (.updateConfirm h) s = .next (x.respond h.tag .done) ∧
        x.cfg.active.state = .active ∧ x.cfg.other.state = .empty ∧ x.sec.svnMin = max s.sec.svnMin s.cfg.active.svn ∧
        x.cfg.activeSlot = s.cfg.activeSlot) ∧
    (servesNow s h = true → s.cfg.rolling = none → s.cfg.other.state = .staged → s.cfg.schedule = none →
      ∃ x : Machine.State, Machine.exec (.updateRevert h) s = .next (x.respond h.tag .done) ∧
        x.cfg.other.state = .empty ∧ x.cfg.active = s.cfg.active)

/-- MODE_SET, the two CONFIG_WRITE requests and CONFIG_READ (R373, R377, R379).
OWNER_LOCK and DEBUG_UNLOCK (R395, R397). -/
def Obligations.ConfigurationAndSecurityRequestsTakeEffect : Prop :=
  (∀ (s : Machine.State) (h : ReqHead), servesNow s h = true →
    (∀ m : OpMode, s.kp.state = .idle → m ≠ s.cfg.mode → (m = .rollout → s.hasFeature 2 = true) →
      ∃ x : Machine.State, Machine.exec (.modeSet h (modeCode m)) s = .next (x.respond h.tag .done) ∧ x.cfg.mode = m ∧
        x.loader.modeChanged = true) ∧
    (∀ (scratch length : Word) (kind : Byte) (entries : List (Word × Word)), s.configState = true → s.sec.owner = none →
      scratchGood scratch.toNat length.toNat = true →
      parseConfig s.cfg.active.format (s.readScratch scratch.toNat length.toNat) = some (kind, entries) →
      s.oldFormatHolds entries = true →
      ∃ x : Machine.State, Machine.exec (.configWriteRecord h scratch length) s = .next (x.respond h.tag .done) ∧
        (kind = 0 → x.cfg.base = entries) ∧ (kind ≠ 0 → x.cfg.overlay kind = entries ∧ x.cfg.base = s.cfg.base)) ∧
    (∀ kind : Byte, s.configState = true → s.sec.owner = none → overlayKind kind = true →
      ∃ x : Machine.State, Machine.exec (.configWriteRestore h kind) s = .next (x.respond h.tag .done) ∧
        x.cfg.overlay kind = shippedOverlay kind ∧ x.cfg.base = s.cfg.base) ∧
    (∀ scratch : Word, s.attachedNow = true → scratchGood scratch.toNat s.configImage.length = true →
      ∃ x : Machine.State, Machine.exec (.configRead h scratch) s =
          .next (x.respond h.tag .done (BitVec.ofNat 384 s.configImage.length)) ∧
        x.mgmt.scratch.read scratch.toNat s.configImage.length = s.configImage)) ∧
  (∀ (s : Machine.State) (h : ReqHead), servesNow s h = true →
    (∀ key : BitVec 768, s.kp.state = .idle →
      ∃ x : Machine.State, Machine.exec (.ownerLockSet h key) s = .next (x.respond h.tag .done) ∧ x.sec.owner = some key) ∧
    (∃ (x : Machine.State) (n : BitVec 384), Machine.exec (.ownerLockGetNonce h) s = .next (x.respond h.tag .done n) ∧
      x.sec = { s.sec with ownerNonce := some n }) ∧
    (∀ signature : BitVec 768, s.ownerClears signature = true →
      ∃ x : Machine.State, Machine.exec (.ownerLockClear h signature) s = .next (x.respond h.tag .done) ∧
        x.sec = { s.sec with owner := none, ownerNonce := none }) ∧
    (∃ (x : Machine.State) (n : BitVec 384), Machine.exec (.debugUnlockGetNonce h) s = .next (x.respond h.tag .done n) ∧
      x.sec = { s.sec with debugNonce := some (n, s.clk.aonMicros) }) ∧
    (∀ token : List Byte, s.tokenGood token = true → (s.kp.state = .idle ∨ fieldAt token 4 1 ≠ 2) →
      ∃ x : Machine.State, Machine.exec (.debugUnlockPresent h token) s = .next (x.respond h.tag .done) ∧
        x.sec = { s.sec with debug := BitVec.ofNat 2 (fieldAt token 4 1), debugNonce := none }) ∧
    (∃ x : Machine.State, Machine.exec (.debugUnlockRelock h) s = .next (x.respond h.tag .done) ∧
      x.sec = { s.sec with debug := 0 }))

/-! ## Onesk instructions (R75, R76, R257, R258, R301) -/

/-- The register instructions: each writes its result to D and goes on to the next word, and changes nothing else. Arithmetic wraps
modulo 2^64; shifts take B[5:0] or IMM[5:0] (R258).
PLACE writes its 16 bits into the quarter of D that the A field names and leaves the other bits of D (R258). -/
def Obligations.OneskRegisterInstructions : Prop :=
  (∀ (s : Machine.State) (t : ThreadRef) (d a b : Fin 16), threadReady s t →
    let x := s.thread t
    let A := x.regs[a]
    let B := x.regs[b]
    let gives (i : Instr) (v : DWord) : Prop := Machine.exec i s = .next (issued s t (wrote x d v))
    gives (.sum t d a b) (BitVec.ofNat 64 (A.toNat + B.toNat)) ∧
    gives (.diff t d a b) (BitVec.ofInt 64 (A.toInt - B.toInt)) ∧
    gives (.prod t d a b) (BitVec.ofNat 64 (A.toNat * B.toNat)) ∧
    gives (.band t d a b) (A &&& B) ∧ gives (.bor t d a b) (A ||| B) ∧ gives (.bxor t d a b) (A ^^^ B) ∧
    gives (.lsh t d a b) (BitVec.ofNat 64 (A.toNat * 2 ^ (B.toNat % 64))) ∧
    gives (.rsh t d a b) (BitVec.ofNat 64 (A.toNat / 2 ^ (B.toNat % 64))) ∧
    gives (.rshs t d a b) (BitVec.ofInt 64 (A.toInt / 2 ^ (B.toNat % 64))) ∧
    gives (.cmps t d a b) (if A.toInt < B.toInt then -1 else if A.toInt = B.toInt then 0 else 1) ∧
    gives (.cmpu t d a b) (if A.toNat < B.toNat then -1 else if A.toNat = B.toNat then 0 else 1) ∧
    gives (.copy t d a) A ∧
    (∀ imm : BitVec 16,
      gives (.sumi t d a imm) (BitVec.ofInt 64 (A.toInt + imm.toInt)) ∧
      gives (.bandi t d a imm) (A &&& BitVec.ofNat 64 imm.toNat) ∧
      gives (.bori t d a imm) (A ||| BitVec.ofNat 64 imm.toNat) ∧
      gives (.lshi t d a imm) (BitVec.ofNat 64 (A.toNat * 2 ^ (imm.toNat % 64)))) ∧
    (∀ imm : BitVec 20, gives (.set t d imm) (BitVec.ofInt 64 imm.toInt)) ∧
    (∀ c : CtrIx, gives (.readc t d c)
      (let k := (s.bay t.bay).counters[c]
       BitVec.ofNat 64 (k.value.toNat + 2 ^ 55 * k.last.toNat + 2 ^ 63 * (if k.error then 1 else 0)))) ∧
    gives (.clock t d) s.clk.boardTime) ∧
  (∀ (s : Machine.State) (t : ThreadRef) (d : Fin 16) (a : BitVec 4) (imm : BitVec 16), threadReady s t →
    ∃ v : DWord, Machine.exec (.place t d a imm) s = .next (issued s t (wrote (s.thread t) d v)) ∧
      ∀ i : Nat, i < 64 → v.getLsbD i =
        if i / 16 = a.toNat % 4 then imm.getLsbD (i % 16) else ((s.thread t).regs[d]).getLsbD i)

/-- HOLD only goes on; STOP halts its thread; TEST branches by OFF words from its own word where the condition holds and goes on
where it does not; CALL saves the index of the next word and jumps; GOTO jumps to a held index below CODE_WORDS. Nothing else
changes (R258).
WAIT goes on where the counter, compared as a signed 32-bit difference, has reached the value in A, and else leaves the thread
waiting for it at its next word (R77, R258).
The ready thread that comes first after the one that issued last, in ascending number and wrapping, has the turn; an instruction
of any other thread of the core issues nothing (R75). -/
def Obligations.OneskControlFlow : Prop :=
  (∀ (s : Machine.State) (t : ThreadRef) (a b d : Fin 16), threadReady s t →
    let x := s.thread t
    let A := x.regs[a]
    let B := x.regs[b]
    Machine.exec (.hold t) s = .next (issued s t { x with pc := (x.pc + 1) % 65536 }) ∧
    Machine.exec (.stop t) s = .next (issued s t { x with mode := .halted }) ∧
    (∀ (off : BitVec 12) (cond : Fin 6),
      let holds : Bool := match cond with
        | 0 => decide (A = B)
        | 1 => decide (A ≠ B)
        | 2 => decide (A.toInt < B.toInt)
        | 3 => decide (B.toInt ≤ A.toInt)
        | 4 => decide (A.toNat < B.toNat)
        | 5 => decide (B.toNat ≤ A.toNat)
      Machine.exec (.test t (BitVec.ofNat 4 cond.val) a b off) s = .next (issued s t { x with
        pc := if holds then ((x.pc + off.toInt) % 65536).toNat else (x.pc + 1) % 65536 })) ∧
    (∀ imm : BitVec 20, Machine.exec (.call t d imm) s = .next (issued s t { x with
      regs := x.regs.set d (BitVec.ofNat 64 ((x.pc + 1) % 65536)), pc := ((x.pc + imm.toInt) % 65536).toNat })) ∧
    (A.toNat < (s.bay t.bay).codeWords → Machine.exec (.goto t a) s = .next (issued s t { x with pc := A.toNat }))) ∧
  (∀ (s : Machine.State) (t : ThreadRef) (c : CtrIx) (a : Fin 16), threadReady s t → s.abandoning = false →
    let x := s.thread t
    let target : Word := BitVec.ofNat 32 (x.regs[a]).toNat
    let next := (x.pc + 1) % 65536
    Machine.exec (.wait t c a) s = .next (issued s t (
      if 0 ≤ ((s.bay t.bay).counters[c].value - target).toInt then { x with pc := next }
      else { x with pc := next, mode := .wait c target }))) ∧
  (∀ (s : Machine.State) (b : BayId) (n : Fin 8),
    let y := s.bay b
    (y.threads[y.lastIssued + 1 + n]).mode = .ready →
    (∀ m : Fin 8, m < n → (y.threads[y.lastIssued + 1 + m]).mode ≠ .ready) →
    threadReady s ⟨b, y.lastIssued + 1 + n⟩ ∧
    ∀ k : ThreadIx, k ≠ y.lastIssued + 1 + n → Machine.exec (.hold ⟨b, k⟩) s = .next s)

/-- An aligned load inside data memory puts the bytes, little-endian and zero-extended, into D; an aligned store inside it writes
the low bytes of D and leaves every other byte of data memory. Nothing else changes (R257, R258). -/
def Obligations.OneskLoadsAndStores : Prop :=
  ∀ (s : Machine.State) (t : ThreadRef) (d a : Fin 16) (imm : BitVec 16) (n : Nat), threadReady s t → (n = 4 ∨ n = 8) →
    let x := s.thread t
    let addr := ((x.regs[a]).toInt + n * imm.toInt) % 2 ^ 64
    let at' := addr.toNat
    let before := (s.bay t.bay).dmem
    at' % n = 0 → at' + n ≤ 65536 →
    (∃ v : DWord, Machine.exec (if n = 8 then .load8 t d a imm else .load4 t d a imm) s = .next (issued s t (wrote x d v)) ∧
      ∀ i : Nat, i < 8 → (v.toNat / 256 ^ i) % 256 = if i < n then (before.get (at' + i)).toNat else 0) ∧
    (∃ m : Memory, Machine.exec (if n = 8 then .store8 t d a imm else .store4 t d a imm) s =
        .next (issued (s.modBay t.bay fun y => { y with dmem := m }) t { x with pc := (x.pc + 1) % 65536 }) ∧
      ∀ k : Nat, m.get k =
        if at' ≤ k ∧ k < at' + n then BitVec.ofNat 8 ((x.regs[d]).toNat / 256 ^ (k - at')) else before.get k)

/-- The traps of R257 crash the core: a misaligned or out-of-range access, a GOTO at or beyond CODE_WORDS, a TEST with an unlisted
COND, a PUSH by a thread that is not the queue's producer. Every thread of the bay is HALTED, no register is written, and the
crash is counted (R257, R258, R296, R301).
STALL_WATCHDOG: a control core with a thread ready to issue crashes, as by a trap; one with none is left as it is (R296,
R301). -/
def Obligations.OneskTrapsCrashTheCore : Prop :=
  (∀ (s : Machine.State) (t : ThreadRef) (a b d : Fin 16) (imm : BitVec 16), threadReady s t → s.kp.state ≠ .running →
    let x := s.thread t
    let crashes (i : Instr) : Prop := ∃ u : Machine.State, Machine.exec i s = .next u ∧ (u.bay t.bay).crashed = true ∧
      (∀ k : ThreadIx, ((u.bay t.bay).threads[k]) = { (s.bay t.bay).threads[k] with mode := .halted }) ∧
      u.fw.ccCrashes = min (s.fw.ccCrashes + 1) 511 ∧ (u.bay t.bay).dmem = (s.bay t.bay).dmem
    let addr (n : Nat) : Nat := (((x.regs[a]).toInt + n * imm.toInt) % 2 ^ 64).toNat
    (addr 8 % 8 ≠ 0 ∨ 65536 < addr 8 + 8 → crashes (.load8 t d a imm) ∧ crashes (.store8 t d a imm)) ∧
    (addr 4 % 4 ≠ 0 ∨ 65536 < addr 4 + 4 → crashes (.load4 t d a imm) ∧ crashes (.store4 t d a imm)) ∧
    ((s.bay t.bay).codeWords ≤ (x.regs[a]).toNat → crashes (.goto t a)) ∧
    (∀ (cond : BitVec 4) (off : BitVec 12), 6 ≤ cond.toNat → crashes (.test t cond a b off)) ∧
    (∀ q : QueueIx, (s.bay t.bay).func .bay = .enabled → ((s.bay t.bay).queue q).producer ≠ t.thread →
      crashes (.push t (BitVec.ofNat 4 (queueNo q).val) a imm))) ∧
  (∀ (s : Machine.State) (b : BayId),
    ((∀ t : ThreadIx, ((s.bay b).threads[t]).mode ≠ .ready) → Machine.exec (.stallWatchdog b) s = .next s) ∧
    (∀ t : ThreadIx, ((s.bay b).threads[t]).mode = .ready → s.kp.state ≠ .running →
      ∃ u : Machine.State, Machine.exec (.stallWatchdog b) s = .next u ∧ (u.bay b).crashed = true ∧
        (∀ k : ThreadIx, ((u.bay b).threads[k]) = { (s.bay b).threads[k] with mode := .halted }) ∧
        u.fw.ccCrashes = min (s.fw.ccCrashes + 1) 511 ∧ (u.bay b).dmem = (s.bay b).dmem ∧ u.sills = s.sills))

/-- PUSH puts the record into its queue where there is room, and stalls its thread where there is none; QUEUE_SLOT_FREE lets the
stalled push through (R76, R258). The record here is none that its engine answers at once with BAD_DESCRIPTOR.
QUEUE_SLOT_FREE: the first stalled thread's record enters the queue behind those that wait, and the thread is ready (R76). -/
def Obligations.PushesFillTheirQueues : Prop :=
  (∀ (s : Machine.State) (t : ThreadRef) (q : QueueIx) (a : Fin 16) (imm : BitVec 16), threadReady s t →
    let x := s.thread t
    let at' := (((x.regs[a]).toInt + imm.toInt) % 2 ^ 64).toNat
    let rec' : QueuedCmd := readRecord q ((s.bay t.bay).dmem.read at' 64)
    let old := ((s.bay t.bay).queue q).waiting
    s.abandoning = false → (s.bay t.bay).func .bay = .enabled → (s.bay t.bay).queueState q = .enabled →
    ((s.bay t.bay).queue q).producer = t.thread → at' % 64 = 0 → at' + 64 ≤ 65536 →
    (old.length < 64 → ((s.bay t.bay).queue q).running ≠ none →
      Machine.exec (.push t (BitVec.ofNat 4 (queueNo q).val) a imm) s =
        .next ((issued s t { x with pc := (x.pc + 1) % 65536 }).modQueue t.bay q fun y => { y with waiting := old ++ [rec'] })) ∧
    (64 ≤ old.length →
      ∃ u : Machine.State, Machine.exec (.push t (BitVec.ofNat 4 (queueNo q).val) a imm) s = .next u ∧
        u.thread t = { x with pc := (x.pc + 1) % 65536, mode := .stall q rec'.ctr rec'.unusedClear rec'.cmd } ∧
        ((u.bay t.bay).queue q).waiting = old)) ∧
  (∀ (s : Machine.State) (b : BayId) (q : QueueIx) (i : ThreadIx) (ctr : CtrIx) (clear : Bool) (cmd : EngineCmd),
    ((s.bay b).threads[i]).mode = .stall q ctr clear cmd →
    (∀ j : ThreadIx, j < i → ∀ c u e, ((s.bay b).threads[j]).mode ≠ .stall q c u e) →
    ((s.bay b).queue q).waiting.length < 64 → ((s.bay b).queue q).running ≠ none →
    Machine.exec (.queueSlotFree b q) s = .next ((s.modBay b fun y =>
        { y with threads := y.threads.set i { (s.bay b).threads[i] with mode := .ready } }).modQueue b q fun y =>
      { y with waiting := y.waiting ++ [⟨ctr, clear, cmd⟩] }))

/-! ## Commands of the engine queues (R76, R77, R90, R100 to R118, R124, R128, R140, R259, R437) -/

/-- The commands of the FETCH queue on a stream slot of the bay, each where its own conditions hold: OPEN opens a closed slot with
the fields given and its anchor at board time; POST moves the tail; START sets the anchor; RELEASE frees the oldest buffers;
CANCEL and CLOSE raise the epoch (R117, R118, R124, R134, R140).
A raise of an epoch on a stream with no multicast: the epoch is one higher, no descriptor, posted or appended, and no pending
request of the stream is left, and the buffers that stay are filled and in use (R140). -/
def Obligations.FetchQueueCommandsTakeEffect : Prop :=
  (∀ (s : Machine.State) (c : CmdHead) (k : BitVec 6), engineFree s c .fetch →
    let i : SlotIx := ⟨k.toNat, k.isLt⟩
    (∀ f : OpenFields, f.stream = k → s.openGood c.bay f = true →
      ∃ t : Machine.State, Machine.exec (.fetchOpen c f) s = .next t ∧ (t.stream c.bay i).isOpen = true ∧
        (t.stream c.bay i).conf = f ∧ (t.stream c.bay i).anchor = s.clk.boardTime ∧ (t.stream c.bay i).buffers = [] ∧
        (t.stream c.bay i).epoch = (s.stream c.bay i).epoch ∧
        ((t.bay c.bay).queue .fetch).running = some ⟨c.ctr, .fetchOpen f, .done⟩) ∧
    (∀ n : BitVec 10, (s.stream c.bay i).isOpen = true → (s.stream c.bay i).conf.mode ≠ 2 → 1 ≤ n.toNat → n.toNat ≤ 512 →
      Machine.exec (.fetchPost c k n) s = .next (running (s.modStream c.bay i fun t =>
        { t with posted := t.posted + n.toNat }) c .fetch (.fetchPost k n) .done)) ∧
    (∀ delay : Word, (s.stream c.bay i).isOpen = true →
      Machine.exec (.fetchStart c k delay) s = .next (running (s.modStream c.bay i fun t =>
        { t with anchor := BitVec.ofNat 64 (s.clk.boardTime.toNat + delay.toNat) }) c .fetch (.fetchStart k delay) .done)) ∧
    (∀ (scale : Bool) (n : BitVec 14), (s.stream c.bay i).isOpen = true → n ≠ 0 →
      (s.stream c.bay i).canRelease scale n.toNat = true →
      Machine.exec (.fetchRelease c k scale n) s =
        .next (running (s.release c.bay i scale n.toNat) c .fetch (.fetchRelease k scale n) .done)) ∧
    ((s.stream c.bay i).isOpen = true →
      Machine.exec (.fetchCancel c k) s = .next (running (s.raiseEpoch c.bay i) c .fetch (.fetchCancel k) .done) ∧
      Machine.exec (.fetchClose c k) s = .next (running ((s.raiseEpoch c.bay i).modStream c.bay i fun t =>
        { t with closing := true }) c .fetch (.fetchClose k) .done))) ∧
  (∀ (s : Machine.State) (b : BayId) (k : SlotIx), (s.stream b k).mcasts = [] → (s.stream b k).mcTargets = [] →
    ((s.stream b k).appended = [] ∨ ((s.stream b k).fetched < (s.stream b k).posted ∧
      ∀ x ∈ (s.stream b k).appended, x.1 ≤ (s.stream b k).posted)) →
    ((s.raiseEpoch b k).stream b k).epoch = (s.stream b k).epoch + 1 ∧
    ((s.raiseEpoch b k).stream b k).descs = [] ∧ ((s.raiseEpoch b k).stream b k).appended = [] ∧
    (∀ x ∈ ((s.raiseEpoch b k).stream b k).buffers, x.filled = true ∧ x.inUse = true ∧ x ∈ (s.stream b k).buffers) ∧
    ∀ m : SillId, ∀ q ∈ ((s.raiseEpoch b k).sill m).requests, q.stream ≠ streamNumber b k)

/-- OPEN and READOUT of the KILN queue (R100 to R102, R104).
A READOUT whose segment has not ended waits at the head of its queue, with no other effect; a bad one ends with BAD_DESCRIPTOR
as it is taken (R100, R437).
A reduction beat inside an OPEN resident region: the first one of a row segment stores its totals, a later one adds them in W40,
value by value, and the segment's written bit is set; a beat outside sets REPLAY, is counted and recorded, and writes nothing
(R101, R102, R105). -/
def Obligations.KilnCommandsTakeEffect : Prop :=
  (∀ (s : Machine.State) (c : CmdHead), engineFree s c .kiln →
    (∀ f : KilnOpenFields, s.kilnOpenGood c.bay f = true →
      ∃ t : Machine.State, Machine.exec (.kilnOpen c f) s = .next t ∧
        t.region c.bay ⟨f.region.toNat, f.region.isLt⟩ =
          ⟨.isOpen, f.rows.toNat, f.cols256.toNat, f.spill, f.baseGroup.toNat, f.spillAddr.toNat, []⟩ ∧
        (∀ k : SlotIx, k.val ≠ f.region.toNat → t.region c.bay k = s.region c.bay k)) ∧
    (∀ f : ReadoutFields, (s.die c.bay.die).segmentEnded f.segment = true → s.readoutGood c.bay f = true →
      ∃ t : Machine.State, Machine.exec (.kilnReadout c f) s = .next t ∧
        (t.region c.bay ⟨f.region.toNat, f.region.isLt⟩).state = .isRead ∧
        ((t.bay c.bay).queue .kiln).running = some ⟨c.ctr, .kilnReadout f, .done⟩)) ∧
  (∀ (s : Machine.State) (c : CmdHead) (f : ReadoutFields), engineFree s c .kiln →
    ((s.die c.bay.die).segmentEnded f.segment = false → s.readoutGood c.bay f = true →
      Machine.exec (.kilnReadout c f) s = .next (s.modQueue c.bay .kiln fun x =>
        { x with waiting := [⟨c.ctr, true, .kilnReadout f⟩] })) ∧
    (s.readoutGood c.bay f = false →
      Machine.exec (.kilnReadout c f) s = .next ((s.finishCmd c.bay .kiln c.ctr .badDescriptor).settleFuncs c.bay))) ∧
  (∀ (s : Machine.State) (b : BayId) (region : BitVec 6) (row cg : Nat) (totals : List W40), totals.length = 256 →
    let i : SlotIx := ⟨region.toNat, region.isLt⟩
    let g := s.region b i
    let seg := row * g.cols256 + cg
    (g.state = .isOpen → row < g.rows → cg < g.cols256 → g.spill = false →
      ∃ t : Machine.State, Machine.exec (.reductionBeat b region row cg totals) s = .next t ∧
        (∀ c : Nat, c < 256 → Sparse.get (0 : W40) (t.bay b).kiln (32 * g.baseGroup + 256 * seg + c) =
          addW40 (if g.written.contains seg then Sparse.get (0 : W40) (s.bay b).kiln (32 * g.baseGroup + 256 * seg + c) else 0)
            (totals.getD c 0)) ∧
        (∀ k : Nat, k < 32 * g.baseGroup + 256 * seg ∨ 32 * g.baseGroup + 256 * seg + 256 ≤ k →
          Sparse.get (0 : W40) (t.bay b).kiln k = Sparse.get (0 : W40) (s.bay b).kiln k) ∧
        seg ∈ (t.region b i).written ∧ (t.region b i).state = .isOpen) ∧
    (g.state ≠ .isOpen ∨ g.rows ≤ row ∨ g.cols256 ≤ cg → s.kp.state = .running → s.job.phase = .running →
      ∃ t : Machine.State, Machine.exec (.reductionBeat b region row cg totals) s = .next t ∧ t.job.own.replay = true ∧
        (t.bay b).kiln = (s.bay b).kiln ∧ (t.die b.die).loft = (s.die b.die).loft ∧ (t.bay b).regions = (s.bay b).regions))

/-- ELEMENTWISE, ROW and MASK run when R437 allows their record: the engine is awake and holds the command with its status, and
the area at DST holds the results of R107 to R112, in the format that the record names. `kept` is what the engine keeps of the
bytes that stood at DST, for a cut by FORCE (R91). -/
def Obligations.VectorCommandsWriteTheirResults : Prop :=
  ∀ (s : Machine.State) (c : CmdHead), engineFree s c .vector →
    let m := (s.die c.bay.die).loft
    let begun (release : BitVec 16) (kept : List (List (Nat × List Byte))) (ledger : Option (Nat × List Word)) : Machine.State :=
      ((s.modBay c.bay fun y => { y with vecPower := .awake }).holdRelease c.bay release).modBay c.bay fun y =>
        { y with vecOld := kept, vecLedger := ledger }
    (∀ (f : ElemFields) (i o : VecFmt), s.elemGood c.bay.die f = true → vecFmt f.inFmt = some i → vecFmt f.outFmt = some o →
      let op := f.op.toNat
      let operand (used : Bool) (a : BitVec 30) : List Dyad :=
        if used then (i.readRows m a.toNat 1 f.count.toNat).headD [] else List.replicate f.count.toNat .zero
      let row : List Dyad := ((operand true f.srcA).zip ((operand (usesB op) f.srcB).zip (operand (usesC op) f.srcC))).map
        fun x => elemOp op x.1 x.2.1 x.2.2
      (f.delayed = false → ∃ kept ledger, Machine.exec (.elementwise c f) s = .next
        (running ((begun f.release kept ledger).writeRows c.bay.die o f.dst.toNat [row]) c .vector (.elementwise f) .done)) ∧
      (∀ k : BlockFmt, f.delayed = true → o = .block k → ∃ kept ledger, Machine.exec (.elementwise c f) s = .next
        (let w := (begun f.release kept ledger).writeDelayed c.bay.die f.ledger.toNat k f.dst.toNat row
         running w.1 c .vector (.elementwise f) (if w.2 then .doneFlagged else .done)))) ∧
    (∀ f : ElemFields, f.op = 1 → f.inFmt = 4 → f.outFmt = 4 → f.delayed = false → f.release = 0 → 0 < f.count.toNat →
      f.srcA.toNat + 4 * f.count.toNat ≤ 2 ^ 30 → f.srcB.toNat + 4 * f.count.toNat ≤ 2 ^ 30 →
      f.dst.toNat + 4 * f.count.toNat ≤ 2 ^ 30 →
      ∃ t : Machine.State, Machine.exec (.elementwise c f) s = .next t ∧
        ∀ i : Nat, i < f.count.toNat →
          BitVec.ofNat 32 ((t.die c.bay.die).loft.readNat (f.dst.toNat + 4 * i) 4) =
            addF32 (BitVec.ofNat 32 (m.readNat (f.srcA.toNat + 4 * i) 4)) (BitVec.ofNat 32 (m.readNat (f.srcB.toNat + 4 * i) 4))) ∧
    (∀ (f : RowFields) (i o : VecFmt), rowGood f = true → vecFmt f.inFmt = some i → vecFmt f.outFmt = some o →
      let rows := i.readRows m f.src.toNat f.rows.toNat f.rowLen.toNat
      ∃ kept, Machine.exec (.row c f) s = .next (running
        (if f.op = 5 then (begun f.release kept none).runSoftmax c.bay.die f o rows
         else (begun f.release kept none).writeRows c.bay.die o f.dst.toNat (rowResults m f i rows)) c .vector (.row f) .done)) ∧
    (∀ (f : MaskFields) (tile : MaskTile), maskGood f tile = true →
      ∃ t : Machine.State, Machine.exec (.mask c f tile) s = .next t ∧
        ((t.bay c.bay).queue .vector).running = some ⟨c.ctr, .mask f, .done⟩ ∧
        (∀ a j : Nat, a < tile.rows → j < tile.cols →
          let at' := 4 * (a * tile.cols + j)
          BitVec.ofNat 32 ((t.die c.bay.die).loft.readNat (f.dst.toNat + at') 4) =
            if maskedAt m f a j then (if tile.gradient then 0 else 0xFF800000)
            else encF32 (decF32 (BitVec.ofNat 32 (m.readNat (f.src.toNat + at') 4)))) ∧
        ∀ k : Nat, k < f.dst.toNat ∨ f.dst.toNat + 4 * tile.rows * tile.cols ≤ k → (t.die c.bay.die).loft.get k = m.get k)

/-- A completion adds 1 to the named counter whatever the status, and a status other than DONE and DONE_FLAGGED sets its error bit
and its last-error field; the other counters stay (R77). -/
def Obligations.CompletionsRaiseTheirCounter : Prop :=
  ∀ (s : Machine.State) (b : BayId) (q : QueueIx) (c : CtrIx) (st : Status),
    let t := s.finishCmd b q c st
    ((t.bay b).counters[c]).value = ((s.bay b).counters[c]).value + 1 ∧
    (st = .done ∨ st = .doneFlagged → ((t.bay b).counters[c]).error = ((s.bay b).counters[c]).error ∧
      ((t.bay b).counters[c]).last = ((s.bay b).counters[c]).last) ∧
    (st ≠ .done → st ≠ .doneFlagged → ((t.bay b).counters[c]).error = true ∧ ((t.bay b).counters[c]).last = statusCode st) ∧
    ∀ k : CtrIx, k ≠ c → (t.bay b).counters[k] = (s.bay b).counters[k]

/-- COMMAND_COMPLETE: an engine that runs nothing and holds nothing has nothing to finish; a command that cannot finish yet stays,
with nothing changed; one that can finish ends with its status, and a VECTOR command with no buffers to release is an instance of
which the whole next state is given (R77, R90, R141, R219).
A record that R437 refuses completes with BAD_DESCRIPTOR and leaves the machine else as it was but for what a completion does:
here an ELEMENTWISE record with an undefined OP (R437).
A command under a disabled or aborted function completes at once with DISABLED and is not run: every queue's first command is an
instance, here FETCH_POST, KILN_OPEN and ROW (R90, R91, R94). -/
def Obligations.CommandsCompleteOrAreRefused : Prop :=
  (∀ (s : Machine.State) (b : BayId) (q : QueueIx),
    (((s.bay b).queue q).running = none → ((s.bay b).queue q).waiting = [] →
      Machine.exec (.commandComplete b q) s = .next (s.settleFuncs b)) ∧
    (∀ r : RunningCmd, ((s.bay b).queue q).running = some r →
      (s.canFinish b r.cmd r.status = false → Machine.exec (.commandComplete b q) s = .next s) ∧
      (s.canFinish b r.cmd r.status = true → Machine.exec (.commandComplete b q) s = .next (s.finishRunning b q r))) ∧
    (∀ (r : RunningCmd) (f : RowFields), ((s.bay b).queue .vector).running = some r → r.cmd = .row f → r.status = .done →
      f.release = 0 → ((s.bay b).queue .vector).waiting = [] → (s.bay b).funcWaiting = [] →
      (∀ k : FuncKind, (s.bay b).func k ≠ .quiescing) →
      Machine.exec (.commandComplete b .vector) s =
        .next (((s.modQueue b .vector fun x => { x with running := none }).finishCmd b .vector r.ctr .done).modBay b fun y =>
          { y with vecOld := [], vecLedger := none, vecPower := .stopped }))) ∧
  (∀ (s : Machine.State) (c : CmdHead) (f : ElemFields), (s.bay c.bay).queueState .vector = .enabled →
    ((s.bay c.bay).queue .vector).running = none → ((s.bay c.bay).queue .vector).waiting = [] →
    (f.op = 0 ∨ 0x20 ≤ f.op.toNat ∨ c.unusedClear = false) →
    Machine.exec (.elementwise c f) s = .next ((s.finishCmd c.bay .vector c.ctr .badDescriptor).settleFuncs c.bay)) ∧
  (∀ (s : Machine.State) (c : CmdHead),
    (∀ (k : BitVec 6) (n : BitVec 10), (s.bay c.bay).queueState .fetch = .disabled ∨ (s.bay c.bay).queueState .fetch = .aborted →
      Machine.exec (.fetchPost c k n) s = .next (s.finishCmd c.bay .fetch c.ctr .disabled)) ∧
    (∀ f : KilnOpenFields, (s.bay c.bay).queueState .kiln = .disabled ∨ (s.bay c.bay).queueState .kiln = .aborted →
      Machine.exec (.kilnOpen c f) s = .next (s.finishCmd c.bay .kiln c.ctr .disabled)) ∧
    (∀ f : RowFields, (s.bay c.bay).queueState .vector = .disabled ∨ (s.bay c.bay).queueState .vector = .aborted →
      Machine.exec (.row c f) s = .next (s.finishCmd c.bay .vector c.ctr .disabled)))

/-! ## The ring of bents and the crossbar (R47 to R88, R312, R313, R436) -/

/-- A beat at a bent adds into one entry of all 256 lanes, each lane from its own value or, in the
first pass over K, from +0; the other entries, the banks and the power state stay (R48, R58, R62, R63). -/
def Obligations.BeatAddsIntoOneEntry : Prop :=
  ∀ (x : Bent) (pair : Nat) (row : TrainRow) (entry : Nat) (firstK : Bool),
    let y := (x.beat pair row entry firstK).1
    (∀ lane : Nat, lane < 256 → y.entryAt entry lane =
      encF32 (laneBeat pair x.live row lane (if firstK then Dyad.zero else decF32 (x.entryAt entry lane))).1) ∧
    (∀ k lane : Nat, lane < 256 → k ≠ entry → y.entryAt k lane = x.entryAt k lane) ∧
    y.live = x.live ∧ y.loadBank = x.loadBank ∧ y.power = x.power

/-- PASS, MOVE and WAKE at a free RING engine. A PASS with good fields runs once its buffers are filled and no segment is in
progress, and waits in its queue until then; one with a bad field ends with BAD_DESCRIPTOR as it is taken. A MOVE with good ends
runs, and from slice to slice it copies its bytes and no others. A WAKE gates the bents it names, whose banks are lost and whose
accumulators stay, until its deadline, or stops their clocks where CYCLES is below 2.2 us (R22, R81, R125, R313, R333, R436,
R437). -/
def Obligations.RingQueueCommandsTakeEffect : Prop :=
  ∀ (s : Machine.State) (c : CmdHead), engineFree s c .ring →
    (∀ f : PassFields, s.passGood c.bay f = true →
      (s.passReady c.bay f = true → s.passFits c.bay f = true →
        ∃ (t : Machine.State) (st : Status), s.runPass c.bay f = (t, st) ∧ (st = .done ∨ st = .doneFlagged) ∧
          Machine.exec (.pass c f) s = .next (running t c .ring (.pass f) st)) ∧
      (s.passReady c.bay f = false →
        Machine.exec (.pass c f) s = .next (s.modQueue c.bay .ring fun x =>
          { x with waiting := [⟨c.ctr, true, .pass f⟩] }))) ∧
    (∀ f : PassFields, s.passGood c.bay f = false →
      Machine.exec (.pass c f) s = .next ((s.finishCmd c.bay .ring c.ctr .badDescriptor).settleFuncs c.bay)) ∧
    (∀ f : MoveFields, (s.die c.bay.die).segment = none →
      Machine.State.moveEndGood c.bay.die f.src5.toNat f.src.toNat f.bytes.toNat = true →
      Machine.State.moveEndGood c.bay.die f.dst5.toNat f.dst.toNat f.bytes.toNat = true →
      Machine.exec (.move c f) s = .next (running (s.runMove c.bay f) c .ring (.move f) .done) ∧
      (f.src5.toNat < 16 → f.dst5.toNat < 16 →
        (∀ i : Nat, i < f.bytes.toNat →
          ((s.runMove c.bay f).die c.bay.die).loft.get (f.dst.toNat + i) = (s.die c.bay.die).loft.get (f.src.toNat + i)) ∧
        (∀ a : Nat, a < f.dst.toNat ∨ f.dst.toNat + f.bytes.toNat ≤ a →
          ((s.runMove c.bay f).die c.bay.die).loft.get a = (s.die c.bay.die).loft.get a) ∧
        (∀ d : DieId, d ≠ c.bay.die → (s.runMove c.bay f).die d = s.die d))) ∧
    (∀ f : WakeFields, (s.die c.bay.die).segment = none →
      ∃ t : Machine.State, Machine.exec (.wake c f) s = .next t ∧
        ((t.bay c.bay).queue .ring).running = some ⟨c.ctr, .wake f, .done⟩ ∧
        ∀ i : BentIx, t.bent c.bay.die i =
          let x := s.bent c.bay.die i
          let ns := (s.die c.bay.die).cyclesNs f.cycles.toNat
          let due := s.clk.boardTime + BitVec.ofNat 64 ns
          if i ∉ (s.die c.bay.die).wakeBents f.bentMask then x
          else if x.husk = true ∨ x.power = .gated then { x with deadline := some due }
          else if ns < 2200 then { x with power := .stopped }
          else { x with
            power := .gated, deadline := some due
            live := lostBank s.free (2 * i.val), loadBank := lostBank s.free (2 * i.val + 1) })

/-- SEGMENT_START pushes the start commands it is given first. Then, with no segment in progress and the start of the next segment
at the head of every named bay's RING queue: once every named completion has arrived, none CANCELLED, and every buffer it reads is
filled, the segment is in progress under the next number of 16 bits and each bay's engine runs its start; until then nothing but
counters changes; a completion that arrived as CANCELLED, or a bay that is off, makes it run no slot (R81, R92, R100, R125, R143).
SLOT_ISSUE of the next slot of a segment: with a cause of holding, none of its beats and acts happens and it stays to be issued;
otherwise it issues whole and the one after it is next: a claimed beat from loft to loft copies up to 1,024 bytes, an act of K = 0
leaves +0 in its entries, and an emitted row joins the train (R55, R66, R79, R80, R82). SEGMENT_END before the last slot does
nothing; after it the segment is over, its number the last that has ended, and its start commands complete (R81, R100). Whatever its
acts, a slot answers a next state. -/
def Obligations.SegmentsStartAndSlotsIssue : Prop :=
  (∀ (s : Machine.State) (die : DieId),
    (∀ starts : List StartPush, Machine.exec (.segmentStart die starts) s =
      Machine.exec (.segmentStart die []) (starts.foldl (fun s x => s.pushStart die x) s)) ∧
    (∀ (n : Nat) (g : SwitchSegment), (s.die die).segment = none → (s.die die).nextProgram = some (n, g) →
      (∀ b ∈ g.bays, (s.startAt ⟨die, b⟩ n).isSome = true) →
      let cancelled := g.completions.any fun x => s.arrived die x && s.arrivedCancelled die x
      ((∀ b ∈ g.bays, (s.bay ⟨die, b⟩).gone = false) →
        ((∀ x ∈ g.completions, s.arrived die x = true ∧ s.arrivedCancelled die x = false) →
          s.readsFilled die g = true → (s.die die).train = [] →
          ∃ t : Machine.State, Machine.exec (.segmentStart die []) s = .next t ∧
            (t.die die).segment = some ⟨g.bays, g.mask, (s.die die).nextSegment, 0, g.quarter, g.slots⟩ ∧
            (t.die die).nextSegment = ((s.die die).nextSegment + 1) % 65536 ∧ (t.die die).loft = (s.die die).loft ∧
            (∀ (b : BayIx) (c : QueuedCmd), b ∈ g.bays → s.startAt ⟨die, b⟩ n = some c →
              ((t.bay ⟨die, b⟩).queue .ring).running = some ⟨c.ctr, .segmentStart n, .done⟩ ∧
              ((t.bay ⟨die, b⟩).queue .ring).waiting = ((s.bay ⟨die, b⟩).queue .ring).waiting.tail)) ∧
        (cancelled = false → ((∃ x ∈ g.completions, s.arrived die x = false) ∨ s.readsFilled die g = false) →
          ∃ t : Machine.State, Machine.exec (.segmentStart die []) s = .next t ∧ (t.die die).segment = none ∧ t.job = s.job ∧
            (t.die die).nextSegment = (s.die die).nextSegment ∧ (t.die die).loft = (s.die die).loft ∧
            (t.die die).bays = (s.die die).bays) ∧
        (cancelled = true →
          Machine.exec (.segmentStart die []) s = .next (s.refuseSegment die n g.bays .cancelled))) ∧
      (∀ (b : BayIx) (c : QueuedCmd), g.bays = [b] → (s.bay ⟨die, b⟩).gone = true → s.startAt ⟨die, b⟩ n = some c →
        (s.bay ⟨die, b⟩).funcWaiting = [] → s.kp.state = .running → s.job.phase = .running →
        ∃ t : Machine.State, Machine.exec (.segmentStart die []) s = .next t ∧ (t.die die).segment = none ∧
          t.job.own.replay = true ∧ (t.die die).lastEnded = some (s.die die).nextSegment ∧
          (t.die die).loft = (s.die die).loft ∧
          ((t.bay ⟨die, b⟩).queue .ring).waiting = ((s.bay ⟨die, b⟩).queue .ring).waiting.tail))) ∧
  (∀ (s : Machine.State) (die : DieId) (g : Segment), (s.die die).segment = some g →
    (∀ (cycle : SlotCycle) (x : SwitchSlot), g.slots[g.issued]? = some x →
      (s.slotHolds die g.quarter x ≠ [] →
        ∃ t : Machine.State, Machine.exec (.slotIssue die cycle) s = .next t ∧ (t.die die).segment = some g ∧
          (t.die die).train = (s.die die).train ∧
          (∀ d : DieId, (t.die d).loft = (s.die d).loft ∧ (t.die d).bents = (s.die d).bents) ∧
          (∀ b : BayId, (t.bay b).dmem = (s.bay b).dmem)) ∧
      (s.slotHolds die g.quarter x = [] → cycle.corrected = [] →
        (x.acts = [] →
          ∃ t : Machine.State, Machine.exec (.slotIssue die cycle) s = .next t ∧
            (t.die die).segment = some { g with issued := g.issued + 1 } ∧ (t.die die).bents = (s.die die).bents ∧
            (∀ (a b : Nat) (i k : Fin 16) (n : Nat), x.claimed = [⟨.slice i (.offset a), .slice k (.offset b), n⟩] →
              (∀ j : Nat, j < min n 1024 → (t.die die).loft.get (b + j) = (s.die die).loft.get (a + j)) ∧
              (∀ y : Nat, y < b ∨ b + min n 1024 ≤ y → (t.die die).loft.get y = (s.die die).loft.get y))) ∧
        (∀ (bent : BentIx) (first count : Nat), x.claimed = [] → x.acts = [.zero bent first count] →
          (s.die die).bentOn bent = true →
          ∃ t : Machine.State, Machine.exec (.slotIssue die cycle) s = .next t ∧
            (t.die die).segment = some { g with issued := g.issued + 1 } ∧ (t.die die).loft = (s.die die).loft ∧
            (∀ e lane : Nat, lane < 256 → (t.bent die bent).entryAt e lane =
              if first ≤ e ∧ e < first + count then 0 else (s.bent die bent).entryAt e lane) ∧
            (∀ k : BentIx, k ≠ bent → t.bent die k = s.bent die k)) ∧
        (∀ (bay : BayIx) (e : BentIx) (pair : BitVec 3) (row : Fin 256) (entry : BitVec 11) (firstK swap : Bool),
          x.claimed = [] → x.acts = [.emit bay e pair row entry firstK swap] →
          ∃ t : Machine.State, Machine.exec (.slotIssue die cycle) s = .next t ∧
            (t.die die).segment = some { g with issued := g.issued + 1 } ∧ (t.die die).loft = (s.die die).loft ∧
            (t.die die).train = (s.die die).train ++
              [(s.bay ⟨die, bay⟩).feed.live.emit pair.toNat row.val entry.toNat firstK swap e]))) ∧
    (∀ cycle : SlotCycle, ∃ t : Machine.State, Machine.exec (.slotIssue die cycle) s = .next t) ∧
    (g.issued ≠ g.slots.length → Machine.exec (.segmentEnd die) s = .next s) ∧
    (g.issued = g.slots.length →
      ∃ t : Machine.State, Machine.exec (.segmentEnd die) s = .next t ∧ (t.die die).segment = none) ∧
    (g.issued = g.slots.length → (∀ b ∈ g.bays, ((s.bay ⟨die, b⟩).queue .ring).running = none) →
      Machine.exec (.segmentEnd die) s = .next (s.modDie die fun r =>
        { r with segment := none, lastEnded := some g.number })) ∧
    (∀ (b : BayIx) (r : RunningCmd), g.issued = g.slots.length → g.bays = [b] →
      ((s.bay ⟨die, b⟩).queue .ring).running = some r →
      Machine.exec (.segmentEnd die) s = .next ((s.finishRunning ⟨die, b⟩ .ring r).modDie die RingDie.endSegment)))

/-- The sleep of a bent: an awake bent with no claimed beat has its clock stopped; a sleeping bent that meets a claimed beat wakes,
one whose restart a pause holds waits, and a gated one wakes at its deadline; its accumulators stay, and no other bent changes (R22,
R312, R313).
BENT_RESIDUE_FAULT and LOFT_UNCORRECTABLE while a step runs: REPLAY is set; a bent fails at its second fault within 24 hours
or in a scan, and one in no enabled bent, or in a bent that has failed, does nothing; the bad 32-byte word of the loft reads as
zero, no other byte changes, and its row has failed (R358, R360, R361).
ROUTER_DERATE_LEVEL: at or above the third threshold the level is 3, at or below the first one less HYST it is 0, and at a
temperature between a level's own bounds it stays; nothing else of the die changes (R88). -/
def Obligations.DieEventsTakeEffect : Prop :=
  (∀ (s : Machine.State) (die : DieId) (bent : BentIx),
    let x := s.bent die bent
    let became (t : Machine.State) (y : Bent) (stopped : Bool) : Prop :=
      t.bent die bent = y ∧ ((t.die die).domains[bentDomain bent]).stopped = stopped ∧
        (∀ k : BentIx, k ≠ bent → t.bent die k = s.bent die k) ∧ (t.die die).bays = (s.die die).bays ∧
        (t.die die).loft = (s.die die).loft
    (x.power = .awake → (s.die die).claims bent = false →
      ∃ t : Machine.State, Machine.exec (.bentClockStop die bent) s = .next t ∧
        became t { x with power := .stopped } true) ∧
    ((x.power ≠ .awake ∨ (s.die die).claims bent = true) → Machine.exec (.bentClockStop die bent) s = .next s) ∧
    (∀ held : Bool, x.power ≠ .awake → (held = true → x.power = .gated) →
      ∃ t : Machine.State, Machine.exec (.bentWake die bent held) s = .next t ∧
        became t { x with power := .awake, deadline := none } false) ∧
    (∀ held : Bool, x.power = .awake ∨ (held = true ∧ x.power = .stopped) → Machine.exec (.bentWake die bent held) s = .next s) ∧
    (∀ d : DWord, x.power = .gated → x.deadline = some d →
      ∃ t : Machine.State, Machine.exec (.wakeDeadline die bent) s = .next t ∧
        became t { x with power := .awake, deadline := none } false) ∧
    ((x.power ≠ .gated ∨ x.deadline = none) → Machine.exec (.wakeDeadline die bent) s = .next s)) ∧
  (∀ (s : Machine.State) (die : DieId), s.kp.state = .running → s.job.phase = .running →
    (∀ (bent : BentIx) (inScan : Bool), (s.die die).bentOn bent = true → (die, bent) ∉ s.job.failedBents →
      ∃ t : Machine.State, Machine.exec (.bentResidueFault die bent inScan) s = .next t ∧ t.job.own.replay = true ∧
        (t.bent die bent).faults.getLast? = some s.clk.aonMicros ∧
        t.job.failedBents = s.job.failedBents ++
          (if inScan = true ∨ ∃ x ∈ (s.bent die bent).faults, s.clk.aonMicros < x + 86400000000 then [(die, bent)] else [])) ∧
    (∀ (bent : BentIx) (inScan : Bool), (s.die die).bentOn bent = false ∨ (die, bent) ∈ s.job.failedBents →
      Machine.exec (.bentResidueFault die bent inScan) s = .next s) ∧
    (∀ offset : BitVec 30,
      ∃ t : Machine.State, Machine.exec (.loftUncorrectable die offset) s = .next t ∧ t.job.own.replay = true ∧
        (∀ i : Nat, i < 32 → (t.die die).loft.get (offset.toNat / 32 * 32 + i) = 0) ∧
        (∀ a : Nat, a / 32 ≠ offset.toNat / 32 → (t.die die).loft.get a = (s.die die).loft.get a) ∧
        offset.toNat / 8192 ∈ (t.die die).failedRows)) ∧
  (∀ (s : Machine.State) (die : DieId) (router : Fin 4) (celsius : Byte),
    let w := (s.die die).derate.toNat
    let th (k : Nat) : Nat := w / 256 ^ (k - 1) % 256
    let hyst := w / 2 ^ 24 % 16
    ∃ t : Machine.State, Machine.exec (.routerDerateLevel die router celsius) s = .next t ∧
      ((t.die die).routers[router]).temp = celsius ∧
      (th 1 ≤ th 2 → th 2 ≤ th 3 → ((s.die die).routers[router]).level ≤ 3 →
        (th 3 ≤ celsius.toNat → ((t.die die).routers[router]).level = 3) ∧
        (celsius.toNat < th 1 → celsius.toNat + hyst ≤ th 1 → ((t.die die).routers[router]).level = 0) ∧
        (∀ l : Nat, ((s.die die).routers[router]).level = l → 1 ≤ l → l ≤ 2 → th l ≤ celsius.toNat + hyst →
          th l ≠ celsius.toNat + hyst → celsius.toNat < th (l + 1) → ((t.die die).routers[router]).level = l)) ∧
      (∀ k : Fin 4, k ≠ router → (t.die die).routers[k] = (s.die die).routers[k]) ∧
      (t.die die).bays = (s.die die).bays ∧ (t.die die).bents = (s.die die).bents ∧ (t.die die).segment = (s.die die).segment)

/-! ## Streams, transfers and multicasts (R117 to R145, R152 to R156) -/

/-- DESCRIPTOR_BATCH on an open stream with room reads the next 16 posted descriptors, or all that are posted; a single one is the
64 bytes at its place in the ring, parsed and checked. Without a posted descriptor or without room nothing happens (R126, R129,
R130). `settleStores` then completes what the stream's head allows.
TRANSFER_ISSUE, once the stream's head has settled (`u`): one transfer of the first descriptor that has one to issue; parts of
an index table go out whatever is in flight, and another transfer only where fewer than OUTSTANDING are; a closed gate is counted
and holds the stream; with a transfer pending, or on a stream that is closed or RECEIVE, nothing goes out (R127, R131, R133). -/
def Obligations.DescriptorsAreReadAndIssued : Prop :=
  (∀ (s : Machine.State) (b : BayId) (k : SlotIx),
    let t := s.stream b k
    (t.isOpen = true → t.fetched < t.posted → t.descs.length ≤ 16 →
      ∃ x : Machine.State, Machine.exec (.descriptorBatch b k) s = .next (x.settleStores b k) ∧
        (x.stream b k).fetched = min (t.fetched + 16) t.posted ∧ (x.stream b k).posted = t.posted ∧
        (x.die b.die).loft = (s.die b.die).loft ∧ (x.bay b).dmem = (s.bay b).dmem ∧
        (∀ j : SlotIx, j ≠ k → x.stream b j = s.stream b j) ∧
        (t.posted = t.fetched + 1 → t.appended = [] →
          let d := parseDesc t.nextIdent
            ((s.bay b).dmem.read (t.conf.ringBase.toNat + 64 * (t.fetched % 2 ^ t.conf.ringLog2.toNat)) 64)
          (x.stream b k).descs = t.descs ++ [{ d with wellFormed := s.descGood b k d }])) ∧
    (t.isOpen = false ∨ t.posted ≤ t.fetched ∨ 16 < t.descs.length →
      Machine.exec (.descriptorBatch b k) s = .next s)) ∧
  (∀ (s : Machine.State) (b : BayId) (k : SlotIx),
    let u := s.settleStores b k
    let t := u.stream b k
    let pending := t.flights.any fun f => !f.sills.isEmpty
    let flying := t.flights.countP fun f => !f.isTable
    (∀ d : FetchDesc, t.isOpen = true → t.conf.mode ≠ 2 → pending = false → u.nextDesc t.descs = (some d, false) →
      (d.tableRead < d.tableNeeded d.issued →
        ∃ (x : Machine.State) (f : Transfer), Machine.exec (.transferIssue b k) s = .next x ∧
          (x.stream b k).flights.length = t.flights.length + 1 ∧ (x.stream b k).flights.getLast? = some f ∧
          f.isTable = true ∧ f.ident = d.ident ∧ f.part = d.tableRead ∧ f.epoch = t.epoch) ∧
      (d.tableNeeded d.issued ≤ d.tableRead → t.conf.outstanding.toNat ≤ flying →
        Machine.exec (.transferIssue b k) s = .next u) ∧
      (d.tableNeeded d.issued ≤ d.tableRead → flying < t.conf.outstanding.toNat → d.isStatic = true → d.multicast = false →
        ∃ (x : Machine.State) (f : Transfer), Machine.exec (.transferIssue b k) s = .next x ∧
          (x.stream b k).flights.length = t.flights.length + 1 ∧ (x.stream b k).flights.getLast? = some f ∧
          f.isTable = false ∧ f.ident = d.ident ∧ f.part = d.issued ∧ f.epoch = t.epoch ∧
          f.sills = u.rangeSills (d.partRanges d.issued))) ∧
    (t.isOpen = true → t.conf.mode ≠ 2 → pending = false → u.nextDesc t.descs = (none, true) →
      Machine.exec (.transferIssue b k) s = .next (u.countRing b.die 0x56)) ∧
    (pending = true ∨ t.isOpen = false ∨ t.conf.mode = 2 → Machine.exec (.transferIssue b k) s = .next u))

/-- A sill starts the pending request with the earliest dry time, which leaves its list, and reads its part of the transfer; with
no request only its corrective write-backs go (R136, R152).
TRANSFER_LAND: a static fetch's served transfer, in the order of its arrival, is written to the loft at its destination; a
transfer whose descriptor an epoch raise has dropped is counted as wasted and lands nowhere; with none served, and on a STORE
stream, nothing happens (R119, R131, R140, R144). -/
def Obligations.TransfersAreServedAndLand : Prop :=
  (∀ (s : Machine.State) (m : SillId) (found : List SectorEvent),
    ((s.sill m).requests = [] →
      Machine.exec (.sillTransferStart m found) s = .next (s.modSill m Sill.drainWriteBacks)) ∧
    (∀ (q : SillRequest) (f : Transfer) (d : FetchDesc) (b : BayId) (k : SlotIx), earliestRequest (s.sill m).requests = some q →
      bayOfStream q.stream = (b, k) →
      ((s.stream b k).flights.find? fun f => f.ident = q.ident && f.part = q.part && f.sills.contains m) = some f →
      ((s.stream b k).descs.find? fun d => d.ident = q.ident) = some d →
      ∃ x : Machine.State, Machine.exec (.sillTransferStart m found) s = .next (x.serveTransfer m b k d f found) ∧
        (∀ p : SillRequest, p ∈ (x.sill m).requests ↔ p ∈ (s.sill m).requests ∧ p ≠ q) ∧
        (x.sill m).writeBacks = [] ∧ (x.sill m).dram = (s.sill m).dram ∧ x.dies = s.dies ∧
        (∀ n : SillId, n ≠ m → x.sill n = s.sill n))) ∧
  (∀ (s : Machine.State) (b : BayId) (k : SlotIx),
    let t := s.stream b k
    (∀ n : Nat, t.conf.mode = 1 ∨ t.served.length ≤ n → Machine.exec (.transferLand b k n) s = .next s) ∧
    (∀ (n : Nat) (f : Transfer), t.conf.mode ≠ 1 → t.served[n]? = some f → (∀ d ∈ t.descs, d.ident ≠ f.ident) →
      ∃ x : Machine.State, Machine.exec (.transferLand b k n) s = .next x ∧ (x.stream b k).flights = t.flights.erase f ∧
        (x.die b.die).loft = (s.die b.die).loft ∧ (x.stream b k).buffers = t.buffers) ∧
    (∀ (n : Nat) (f : Transfer) (d : FetchDesc), t.conf.mode ≠ 1 → t.served[n]? = some f →
      (t.descs.find? fun d => d.ident = f.ident) = some d → d.isStatic = true → d.multicast = false →
      ∃ x : Machine.State, Machine.exec (.transferLand b k n) s = .next (x.settleStores b k) ∧
        (x.die b.die).loft =
          (s.die b.die).loft.write (d.dest.toNat + 65536 * f.part) (s.partContent d f.zeroed f.part) ∧
        (x.stream b k).flights = t.flights.erase f))

/-- STORE: a static one within the checks of R129 runs in its queue; any other joins its STORE stream, where its descriptor waits or
settles, and leaves the engine free (R128).
STORE_SECTOR_WRITTEN: the served transfer of a STORE stream is written and its buffer freed; a static store whose gate is closed
waits, and one that failed finishes; with no store there is nothing to do (R128, R132, R133). -/
def Obligations.StoresRunAndAreWritten : Prop :=
  (∀ (s : Machine.State) (c : CmdHead) (f : StoreFields), engineFree s c .store →
    let i : SlotIx := ⟨f.stream.toNat, f.stream.isLt⟩
    (f.isStatic = true → s.staticStoreGood c.bay (storeDesc f 0 c.ctr) = true →
      Machine.exec (.store c f) s = .next (running s c .store (.store f) .done)) ∧
    (f.isStatic = false → (s.stream c.bay i).isOpen = true → (s.stream c.bay i).conf.mode = 1 →
      (s.stream c.bay i).fetched < (s.stream c.bay i).posted → (s.bay c.bay).funcWaiting = [] →
      ∃ t : Machine.State, Machine.exec (.store c f) s = .next t ∧ ((t.bay c.bay).queue .store).running = none ∧
        ∃ d : FetchDesc, (t.stream c.bay i).appended =
            (s.stream c.bay i).appended ++ [((s.stream c.bay i).posted, d)] ∧
          d.counter = c.ctr ∧ d.src = f.dst.zeroExtend 64 ∧ d.dest = f.src.zeroExtend 32 ∧ d.rows = f.rows ∧ d.cols = f.cols)) ∧
  (∀ (s : Machine.State) (b : BayId),
    (∀ (k : SlotIx) (f : Transfer) (d : FetchDesc), (s.stream b k).ready = some f →
      ((s.stream b k).descs.find? fun d => d.ident = f.ident) = some d → (s.stream b k).conf.mode = 1 →
      Machine.exec (.storeSectorWritten b (some k)) s = .next (s.storeWritten b k d f)) ∧
    (∀ k : SlotIx, (s.stream b k).ready = none → Machine.exec (.storeSectorWritten b (some k)) s = .next s) ∧
    (((s.bay b).queue .store).running = none → Machine.exec (.storeSectorWritten b none) s = .next s) ∧
    (∀ (r : RunningCmd) (f : StoreFields), ((s.bay b).queue .store).running = some r → r.cmd = .store f →
      (statusError r.status = true → Machine.exec (.storeSectorWritten b none) s = .next (s.finishRunning b .store r)) ∧
      (statusError r.status = false → s.gateOpen (storeDesc f 0 r.ctr) = false →
        Machine.exec (.storeSectorWritten b none) s = .next (s.countRing b.die 0x56)) ∧
      (statusError r.status = false → s.gateOpen (storeDesc f 0 r.ctr) = true → f.rows = 0 →
        Machine.exec (.storeSectorWritten b none) s =
          .next ((s.modDie b.die fun x => x.moveBytes 1 0).finishRunning b .store r))))

/-- The target's side of a multicast: the RESERVE of a source's multicast in its reserve phase joins the list of a RECEIVE stream
that names the source, with the buffers its descriptor needs, and any other drops it; COMMIT, once the source has committed,
commits the first granted request; ABORT withdraws it, gives its sequence numbers back and counts a MULTICAST_TIMEOUT; the
last landing counts DONE (R138, R139, R142).
The source's side of a multicast: a GRANT counts only from a target that has granted, with the dry time that the target gave and
before the timeout, and the multicast is committed when every target has; a GRANT still missing when the timeout has passed ends
it with MULTICAST_TIMEOUT, and the other multicasts stay (R138, R139, R144). -/
def Obligations.MulticastsFollowTheProtocol : Prop :=
  (∀ (s : Machine.State) (b : BayId) (k : SlotIx),
    let t := s.stream b k
    (∀ (source : BitVec 12) (d : FetchDesc), s.mcSource b source = some d → t.isOpen = true → t.conf.mode = 2 →
      t.conf.source = source → t.mcTargets = [] →
      ∃ (x : Machine.State) (e : McTarget), Machine.exec (.multicastReserve b source k d.mcCount) s =
          .next (x.tryGrant b k) ∧
        (x.stream b k).mcTargets = [e] ∧ e.source = source ∧ e.ident = d.ident ∧ e.count = d.mcCount ∧ e.left = d.mcElems ∧
        e.counter = d.mcCounter ∧ e.granted = false ∧ e.committed = false ∧ { x with dies := s.dies } = s) ∧
    (∀ (source : BitVec 12) (n : Nat), t.isOpen = false ∨ t.conf.mode ≠ 2 ∨ t.conf.source ≠ source ∨
        (∀ d : FetchDesc, s.mcSource b source = some d → d.mcCount ≠ n) →
      Machine.exec (.multicastReserve b source k n) s = .next s) ∧
    (∀ (m : McTarget) (rest : List McTarget), t.mcTargets = m :: rest → m.granted = true → m.committed = false →
      s.sourceCommitted m = true → m ∉ rest →
      ∃ x : Machine.State, Machine.exec (.multicastCommit b k) s = .next (x.tryGrant b k) ∧
        (x.stream b k).mcTargets = { m with committed := true } :: rest ∧ (x.stream b k).buffers = t.buffers) ∧
    ((∀ m ∈ t.mcTargets, m.granted = true → m.committed = false → s.sourceCommitted m = false) →
      Machine.exec (.multicastCommit b k) s = .next s) ∧
    (∀ (m : McTarget) (rest : List McTarget), t.mcTargets = m :: rest → m.aborting = true →
      ∃ x : Machine.State, Machine.exec (.multicastAbort b k) s = .next (x.tryGrants b.die) ∧
        (x.stream b k).mcTargets = rest ∧
        (m.granted = true → m.epoch = t.epoch →
          (x.stream b k).nextElem = m.firstElem ∧ (x.stream b k).nextScale = m.firstScale) ∧
        (m.granted = false → (x.stream b k).nextElem = t.nextElem ∧ (x.stream b k).nextScale = t.nextScale) ∧
        ((x.bay b).counters[m.counter]).value = ((s.bay b).counters[m.counter]).value + 1 ∧
        ((x.bay b).counters[m.counter]).last = statusCode .multicastTimeout) ∧
    (∀ (m : McTarget) (rest : List McTarget), t.mcTargets = m :: rest → m.committed = true → m.left = 0 →
      ∃ (x : Machine.State) (sb : BayId) (sk : SlotIx),
        Machine.exec (.multicastLanded b k) s = .next ((x.settleStores sb sk).tryGrants b.die) ∧
        (sb.die.val = m.source.toNat / 256) ∧ (x.stream b k).mcTargets = rest ∧
        ((x.bay b).counters[m.counter]).value = ((s.bay b).counters[m.counter]).value + 1 ∧
        (∀ y ∈ (x.stream sb sk).mcasts, y.ident = m.ident → y.committed = true → y.landed.getLsbD b.die.val = true))) ∧
  (∀ (s : Machine.State) (b : BayId) (k : SlotIx),
    let t := s.stream b k
    (∀ (m : Multicast) (die : DieId) (dry : DWord), (t.mcasts.find? fun m => !m.committed) = some m →
      m.targets.getLsbD die.val = false ∨ m.granted.getLsbD die.val = true ∨ s.mcastLate b.die m = true →
      Machine.exec (.multicastGrant b k die dry) s = .next s) ∧
    (∀ (m : Multicast) (d : FetchDesc) (die : DieId) (x : McTarget) (dry : DWord), (t.mcasts.find? fun m => !m.committed) = some m →
      (t.descs.find? fun d => d.ident = m.ident) = some d → m.targets.getLsbD die.val = true → m.granted = 0 →
      s.mcastLate b.die m = false →
      ((s.stream (s.mcTarget d die).1 (s.mcTarget d die).2).mcTargets.find? fun x =>
        x.source = s.logicalStream b k && x.ident = m.ident && x.granted && x.dry = dry) = some x →
      ∃ t' : Machine.State, Machine.exec (.multicastGrant b k die dry) s = .next t' ∧
        ∀ y ∈ (t'.stream b k).mcasts, y.ident = m.ident →
          y.earliest = dry ∧ y.granted = BitVec.ofNat 16 (2 ^ die.val) ∧
          (m.targets = BitVec.ofNat 16 (2 ^ die.val) → y.committed = true) ∧
          (m.targets ≠ BitVec.ofNat 16 (2 ^ die.val) → y.committed = false)) ∧
    (∀ m : Multicast, (t.mcasts.find? fun m => !m.committed) = some m → s.mcastLate b.die m = false →
      Machine.exec (.multicastTimeout b k) s = .next s) ∧
    (∀ m : Multicast, (t.mcasts.find? fun m => !m.committed) = some m → s.mcastLate b.die m = true →
      ∃ x : Machine.State, Machine.exec (.multicastTimeout b k) s = .next (x.settleStores b k) ∧
        (∀ y : Multicast, y ∈ (x.stream b k).mcasts ↔ y ∈ t.mcasts ∧ y.ident ≠ m.ident) ∧
        (∀ d ∈ (x.stream b k).descs, d.ident = m.ident → d.status = .multicastTimeout)) ∧
    ((t.mcasts.find? fun m => !m.committed) = none →
      Machine.exec (.multicastTimeout b k) s = .next s ∧
      ∀ (die : DieId) (dry : DWord), Machine.exec (.multicastGrant b k die dry) s = .next s))

/-- Events of a stack: a refresh names its bank and counts what it waited; a calibration window moves to the next channel; a
patrol read, where no stream wants the start, moves to the next sector and, clean, changes no byte; a temperature above 85 C
halves the refresh interval, and a move of more than 10 C from the one trained at asks for a retraining (R152 to R156, R145). -/
def Obligations.StackEventsTakeEffect : Prop :=
  ∀ (s : Machine.State) (m : SillId),
    (∀ (channel bank : BitVec 6) (management : Bool) (waited : Nat),
      ∃ t : Machine.State, Machine.exec (.refreshDue m channel bank management waited) s = .next t ∧
        (channel, bank, management) ∈ (t.sill m).refreshing ∧
        (∀ x ∈ (t.sill m).refreshing, x.1 = channel → x.2.2 = management → x.2.1 = bank) ∧
        (t.sill m).dram = (s.sill m).dram ∧ t.dies = s.dies ∧ (∀ n : SillId, n ≠ m → t.sill n = s.sill n)) ∧
    (∃ t : Machine.State, Machine.exec (.calibrationWindow m false) s = .next t ∧
      (t.sill m).calChannel = (s.sill m).calChannel + 1 ∧ (t.sill m).dram = (s.sill m).dram ∧
      (∀ n : SillId, n ≠ m → t.sill n = s.sill n)) ∧
    (Machine.exec (.calibrationWindow m true) s =
      .next ((s.modSill m fun x => { (x.count 0x09) with calChannel := x.calChannel + 1 }).askRetrain m)) ∧
    (∀ (r : EccResult) (o : OnDieReport), (s.sill m).requests ≠ [] → Machine.exec (.patrolScrubRead m r o) s = .next s) ∧
    ((s.sill m).requests = [] → (s.sill m).poison = [] → (s.sill m).retired = [] → (s.sill m).scrubAt + 1 < stackSectors →
      ∃ t : Machine.State, Machine.exec (.patrolScrubRead m .clean .none) s = .next t ∧
        (t.sill m).scrubAt = (s.sill m).scrubAt + 1 ∧ (t.sill m).dram = (s.sill m).dram ∧ (t.sill m).poison = [] ∧
        t.dies = s.dies ∧ t.job = s.job) ∧
    (∀ celsius : Byte, (s.sill m).trainTemp ≤ celsius.toNat + 10 → celsius.toNat ≤ (s.sill m).trainTemp + 10 →
      ∃ t : Machine.State, Machine.exec (.stackTempRead m celsius) s = .next t ∧
        (t.sill m).halfInterval = decide (85 < celsius.toNat) ∧ (t.sill m).retrainPending = (s.sill m).retrainPending ∧
        (.stack m, celsius.toNat) ∈ t.pkg.temps ∧ (∀ n : SillId, n ≠ m → t.sill n = s.sill n)) ∧
    (∀ celsius : Byte, (s.sill m).trainTemp + 10 < celsius.toNat → s.isIdleKind = false →
      ∃ t : Machine.State, Machine.exec (.stackTempRead m celsius) s = .next t ∧ (t.sill m).retrainPending = true ∧
        ∃ i ∈ t.job.items, i.code = itemRetrain ∧ i.mask.getLsbD m.val = true)

/-! ## The link engines: commands and their tenons (R172, R214, R219 to R240) -/

/-- The commands of the LINK queue at a free engine, each where its record is good. REDUCE, VOTE, DISPATCH and COMBINE run and hold
their status; VOTE waits for its sign passes and COMBINE for its landed rows; a GATHER of a withheld update completes with
STEP_REPLAYED or STEP_WITHHELD; SIGN marks its shard signed; a SEND to this module of up to 16,384 bytes lands there at once (R21,
R172, R219, R222, R224, R226, R235, R237). -/
def Obligations.LinkQueueCommandsTakeEffect : Prop :=
  ∀ (s : Machine.State) (c : CmdHead), engineFree s c .link →
    let queued (cmd : EngineCmd) : Machine.State := s.modQueue c.bay .link fun x => { x with waiting := [⟨c.ctr, true, cmd⟩] }
    let runs (i : Instr) (cmd : EngineCmd) (r : Machine.State × Status) : Prop :=
      ∃ (t : Machine.State) (st : Status), r = (t, st) ∧ Machine.exec i s = .next (running t c .link cmd st)
    (∀ f : ReduceFields, s.reduceGood f = true → runs (.reduce c f) (.reduce f) (s.runReduce c.bay f)) ∧
    (∀ (f : GatherFields) (v : Bits), s.runGood f.coll false f.first f.count = true → s.withheld = some v →
      Machine.exec (.gather c f) s =
        .next (running s c .link (.gather f) (if v.replay then .stepReplayed else .stepWithheld))) ∧
    (∀ f : GatherFields, s.runGood f.coll false f.first f.count = true → s.withheld = none →
      (∀ n ∈ runOf f.first.toNat f.count.toNat, (f.coll.toNat, n) ∈ s.coll.copies) →
      Machine.exec (.gather c f) s = .next (running s c .link (.gather f) .done)) ∧
    (∀ f : VoteFields, s.runGood f.coll true f.first f.count = true →
      (s.signsReady f = true → runs (.vote c f) (.vote f) (s.runVote f)) ∧
      (s.signsReady f = false → Machine.exec (.vote c f) s = .next (queued (.vote f)))) ∧
    (∀ (f : SignFields) (m : SillId) (h : Shard), s.signShard f = some (m, h) →
      ∃ t : Machine.State, Machine.exec (.sign c f) s = .next (running t c .link (.sign f) .done) ∧
        (m.val, f.shard.toNat) ∈ t.coll.signed) ∧
    (∀ f : DispatchFields, s.dispatchGood c.bay f = true →
      runs (.dispatch c f) (.dispatch f) (s.runDispatch c.bay f)) ∧
    (∀ f : CombineFields, s.combineGood f = true →
      (s.combineReady f = true → runs (.combine c f) (.combine f) (s.runCombine c.bay f)) ∧
      (s.combineReady f = false → Machine.exec (.combine c f) s = .next (queued (.combine f)))) ∧
    (∀ f : SendFields, f.dstId = s.moduleId → 0 < f.bytes.toNat → f.bytes.toNat ≤ 16384 →
      inLoft f.src.toNat f.bytes.toNat = true →
      Machine.exec (.send c f) s = .next (running
        (s.landSend f.dst.toNat (s.readLoft c.bay.die f.src.toNat f.bytes.toNat)) c .link (.send f) .done)) ∧
    (∀ (f : SendFields) (st : Status), f.dstId ≠ s.moduleId → s.unreachable f.dstId = some st →
      inLoft f.src.toNat f.bytes.toNat = true →
      Machine.exec (.send c f) s = .next (running (s.lost f.dstId st) c .link (.send f) st))

/-- A tenon of another attempt is discarded and counted; nothing else changes, where no vote waits for a slot (R221, R226).
Contributions at the owner of a chunk: a member's first one is staged, where it meets no poisoned sector in part, and noted,
and a second one is counted, sets REPLAY and changes no memory; with members still missing no sum is formed (R222, R223). -/
def Obligations.ContributionsAreStagedOnce : Prop :=
  (∀ (s : Machine.State) (src : BitVec 15) (context : DWord) (payload : List Byte), s.stale context = true →
    let counted : Machine.State := s.countEdge (chunkEdge (ctxChunk context)) 0x02
    Machine.exec (.reduceData src context payload) s = .next counted ∧
    Machine.exec (.gatherData src context payload) s = .next counted ∧
    ((s.edge (chunkEdge (ctxChunk context))).waiting = [] → Machine.exec (.voteSigns src context payload) s = .next counted) ∧
    Machine.exec (.voteResult src context payload) s = .next counted ∧
    Machine.exec (.dispatchCount src context payload) s = .next counted ∧
    Machine.exec (.dispatchGrant src context payload) s = .next counted ∧
    Machine.exec (.dispatchRows src context payload) s = .next counted ∧
    Machine.exec (.combineRows src context payload) s = .next counted) ∧
  (∀ (s : Machine.State) (src : BitVec 15) (context : DWord) (payload : List Byte) (e : CollEntry) (g : List Nat) (i : Nat),
    s.stale context = false → s.ownedChunk context false = some (e, g) → memberIx g src = some i →
    let coll := ctxColl context
    let c := ctxChunk context
    ((s.coll.staged.any fun x => x.1 = coll && x.2.1 = c && x.2.2.1 = i) = false →
      (∃ j < g.length, j ≠ i ∧ ∀ x ∈ s.coll.staged, ¬(x.1 = coll ∧ x.2.1 = c ∧ x.2.2.1 = j)) →
      s.badPartials (localAddr (stackOf e.chunks g.length c) (stageAt e g.length c i)) payload.length = [] →
      ∃ t : Machine.State, Machine.exec (.reduceData src context payload) s = .next t ∧
        t.coll.staged = s.coll.staged ++ [(coll, c, i, payload.length)] ∧ t.coll.summed = s.coll.summed ∧ t.job = s.job) ∧
    ((s.coll.staged.any fun x => x.1 = coll && x.2.1 = c && x.2.2.1 = i) = true → s.kp.state = .running →
      s.job.phase = .running →
      ∃ t : Machine.State, Machine.exec (.reduceData src context payload) s = .next t ∧ t.job.own.replay = true ∧
        t.coll = s.coll ∧ t.sills = s.sills))

/-- Tenons of the present attempt at the module they are for: a chunk of copy lands, waits for the verdict of a step in progress,
or is late where the update is withheld; votes are counted, or wait where every slot of the vote counter is busy; the results of a
chunk land once; the messages of a dispatch reach their home and source (R18, R224, R226, R228, R236, R238, R240).
SEND_DATA lands its bytes at the address in CONTEXT, whatever the attempt: they are written, but for those of protected areas,
and what falls into a GRAD range is checked; where they meet no poisoned sector in part, only the stacks and the step's bits change
(R19, R178, R219, R220; for the protected areas, log entry 133). -/
def Obligations.CollectiveTenonsTakeEffect : Prop :=
  (∀ (s : Machine.State) (src : BitVec 15) (context : DWord) (payload : List Byte), s.stale context = false →
    let coll := ctxColl context
    let c := ctxChunk context
    (∀ (e : CollEntry) (g : List Nat), s.collEntry coll = some (e, g) → e.vote = false → c < e.chunks → ownerId e g c = src →
      (s.withheld.isSome = true →
        Machine.exec (.gatherData src context payload) s = .next (s.countEdge (chunkEdge c) 0x07)) ∧
      (s.withheld = none → s.job.verdict.isSome = true ∨ s.job.current = none → (∀ m : SillId, (s.sill m).poison = []) →
        ∃ t : Machine.State, Machine.exec (.gatherData src context payload) s = .next t ∧
          t.coll = { s.coll with copies := s.coll.copies ++ [(coll, c)] } ∧ t.job = s.job ∧ t.dies = s.dies)) ∧
    (s.job.verdict = none → s.job.current.isSome = true →
      Machine.exec (.gatherData src context payload) s = .next { s with coll := { s.coll with
        held := s.coll.held ++ [looseTenon src context payload] } }) ∧
    (∀ (e : CollEntry) (g : List Nat) (i : Nat), s.ownedChunk context true = some (e, g) → memberIx g src = some i →
      (s.voteRoom coll c = true →
        Machine.exec (.voteSigns src context payload) s =
          .next ((s.addVote coll e g c i payload).retryEdge (chunkEdge c))) ∧
      (s.voteRoom coll c = false →
        ∃ t : Machine.State, Machine.exec (.voteSigns src context payload) s = .next t ∧
          (t.edge (chunkEdge c)).waiting = (s.edge (chunkEdge c)).waiting ++ [looseTenon src context payload] ∧
          (t.edge (chunkEdge c)).slots = (s.edge (chunkEdge c)).slots)) ∧
    (∀ (e : CollEntry) (g : List Nat), s.collEntry coll = some (e, g) → e.vote = true → c < e.chunks → ownerId e g c = src →
      (s.coll.results.contains (coll, c) = true → Machine.exec (.voteResult src context payload) s = .next s) ∧
      (s.coll.results.contains (coll, c) = false → (∀ m : SillId, (s.sill m).poison = []) →
        ∃ t : Machine.State, Machine.exec (.voteResult src context payload) s = .next t ∧
          t.coll = { s.coll with results := s.coll.results ++ [(coll, c)] } ∧ t.job = s.job ∧ t.dies = s.dies)) ∧
    Machine.exec (.dispatchCount src context payload) s = .next (s.takeCount src coll payload) ∧
    Machine.exec (.dispatchGrant src context payload) s = .next (s.takeGrant src coll payload) ∧
    Machine.exec (.dispatchRows src context payload) s = .next (s.takeRows src coll payload) ∧
    Machine.exec (.combineRows src context payload) s = .next (s.takeCombineRows src coll payload)) ∧
  (∀ (s : Machine.State) (src : BitVec 15) (context : DWord) (payload : List Byte),
    ∃ t : Machine.State, Machine.exec (.sendData src context payload) s = .next t ∧
      t = (s.writeMerged context.toNat (s.guardBytes context.toNat payload)).gradCheck context.toNat payload.length ∧
      (payload = [] → t.sills = s.sills ∧ t.job = s.job) ∧
      (s.badPartials context.toNat payload.length = [] → t.dies = s.dies ∧ t.links = s.links ∧ t.coll = s.coll))

/-- Admission at the home of an expert: the members keep their order, none is granted more than it asked for, and together they are
granted the capacity or all that was asked, whichever is less (R236). -/
def Obligations.AdmissionFillsTheCapacity : Prop :=
  ∀ (capacity : Nat) (asked : List (BitVec 15 × Nat)),
    (grantInOrder capacity 0 asked).map Prod.fst = asked.map Prod.fst ∧
    ((grantInOrder capacity 0 asked).map Prod.snd).sum = min capacity (asked.map Prod.snd).sum ∧
    ∀ (k : Nat) (x y : BitVec 15 × Nat), (grantInOrder capacity 0 asked)[k]? = some x → asked[k]? = some y → x.2 ≤ y.2

/-! ## Job descriptors and the host (R263 to R282, R362 to R368) -/

/-- A descriptor read where no other is held, each kind in a state that takes it. MARKER completes at once; a copy within the checks
is in progress; STEP posts its record with ATTEMPT 0, or 1 more than the previous posting of the same step, and the module is
RUNNING; QUIESCE waits for the fence of the step in progress; RESUME leaves QUIESCED and completes; a save waits for its fence and
a restore begins its stop (R272, R273, R274, R288, R363, R367, R368). -/
def Obligations.DescriptorsTakeEffect : Prop :=
  ∀ (s : Machine.State) (n : RingIx) (h : DescHead), ringsEmpty s n → h.reservedClear = true →
    (∃ t : Machine.State, Machine.exec (.marker n h) s = .next t ∧ (t.ring n).held = [] ∧
      (t.ring n).consumed = (s.ring n).consumed + 1 ∧ (t.ring n).completed = (s.ring n).completed + 1 ∧ t.kp = s.kp ∧
      t.dies = s.dies ∧ t.sills = s.sills) ∧
    (∀ (a m : DWord) (data : List Byte), m.toNat < 2 ^ 40 → data ≠ [] → data.length ≤ 2 ^ 36 →
      s.inMemory m.toNat data.length = true → (s.kp.state = .idle ∨ s.meetsProtected m.toNat data.length = false) →
      Machine.exec (.copyToModule n h a m data) s = .next (startedOn s n ⟨h, .copyToModule a m data⟩)) ∧
    (∀ (a m : DWord) (k : Nat), m.toNat < 2 ^ 40 → 0 < k → k ≤ 2 ^ 36 → s.inMemory m.toNat k = true →
      Machine.exec (.copyFromModule n h a m k) s = .next (startedOn s n ⟨h, .copyFromModule a m k⟩)) ∧
    (∀ (x : DWord) (lr : Word), n.val = s.stepRing → (s.kp.state = .armed ∨ s.kp.state = .running) → s.stepBlocked = false →
      s.loader.bound = true →
      ∃ (t : Machine.State) (a : BitVec 4), Machine.exec (.step n h x lr) s = .next t ∧
        t.job.current = some ⟨x, lr, a, n, s.host.readSeq⟩ ∧ t.job.phase = .posted ∧ t.job.own = s.job.next ∧
        t.job.next = {} ∧ t.kp.state = .running ∧ t.sills = s.sills ∧
        (∀ p b, s.job.previous = some (p, b) → a = if p = x then b + 1 else 0) ∧ (s.job.previous = none → a = 0)) ∧
    (∀ (x : DWord) (lr : Word), n.val = s.stepRing → s.kp.state = .idle →
      ∃ y : Machine.State, Machine.exec (.step n h x lr) s = .next (y.finishDesc n .disabled id) ∧
        y = s.readJobDesc n ⟨h, .step x lr⟩) ∧
    (s.kp.state = .running → s.job.current ≠ none →
      ∃ t : Machine.State, Machine.exec (.quiesce n h) s = .next t ∧ t.job.quiesceDue = true ∧ t.kp = s.kp ∧
        { t with job := s.job, host := s.host } = s) ∧
    (s.kp.state = .quiesced → s.savesHold = false →
      ∃ t : Machine.State, Machine.exec (.resume n h) s = .next t ∧
        t.kp.state = (if s.job.ran then .running else .armed) ∧ (t.ring n).held = [] ∧
        (t.ring n).completed = (s.ring n).completed + 1) ∧
    (∀ (mode : SaveMode) (f : CkptFields), s.kp.state = .running → s.job.current ≠ none → s.job.saves = [] →
      s.job.stop = none → s.saveFault mode f = none →
      let i : Instr := match mode with
        | .snapshot => .checkpointSnapshot n h f
        | .direct => .checkpointDirect n h f
      ∃ t : Machine.State, Machine.exec i s = .next t ∧
        t.job.saves = [⟨n, s.host.readSeq, .save mode f, [], .done, false⟩] ∧ t.job.stop = none ∧ t.kp = s.kp ∧
        t.sills = s.sills) ∧
    (∀ (f : CkptFields) (image : List Byte), s.kp.state = .quiesced → s.job.stop = none →
      (s.restoreRefused (.restoreHost f image) = none →
        ∃ t : Machine.State, Machine.exec (.restoreHost n h f image) s = .next t ∧
          t.job.stop = some ⟨n, s.host.readSeq, .restoreHost f image, [], .done, false⟩ ∧ t.sills = s.sills) ∧
      (s.restoreRefused (.restoreSnapshot f) = none →
        ∃ t : Machine.State, Machine.exec (.restoreSnapshot n h f) s = .next t ∧
          t.job.stop = some ⟨n, s.host.readSeq, .restoreSnapshot f, [], .done, false⟩ ∧ t.sills = s.sills))

/-- DOORBELL_READ: nothing while the rings are not read; with no new value only the heartbeat is noted; one new descriptor on an
enabled ring with room is read and CONSUMED counts it; a value beyond the ring is refused, counted, and leaves CONSUMED. Then the
rings go on, or, where HEARTBEAT has stood still for the whole timeout, the driver is lost (R268, R269, R270, R278, R279).
COPY_COMPLETION moves the bytes of the copy in progress on its ring, whose record carries their number in units of 64 bytes;
without such a copy nothing happens. A HOLDOFF_EXPIRY ends the hold-off, and an interrupt that was owed is raised (R273, R275,
R276). -/
def Obligations.DoorbellsAndCompletionsMoveTheRings : Prop :=
  (∀ (s : Machine.State) (produced : List Word) (beat : DWord) (found : List (RingIx × JobDesc)),
    let noted : Machine.State := { s with host := { s.host with
      nudged := false, heartbeatAt := if beat = s.host.heartbeat then s.host.heartbeatAt else s.clk.aonMicros,
      heartbeat := beat } }
    let same (k : RingIx) : Prop := produced.getD k.val 0 = (s.ring k).consumed
    let late : Bool := s.attachedNow && beat = s.host.heartbeat &&
      decide (s.host.heartbeatAt + 1000000 * s.host.heartbeatTimeout ≤ s.clk.aonMicros)
    let goesOn (x : Machine.State) : Prop :=
      Machine.exec (.doorbellRead produced beat found) s = .next (if late then x.loseDriver 5 else x.progress)
    (s.polls = false → Machine.exec (.doorbellRead produced beat found) s = .next s) ∧
    (0 < s.host.heartbeatTimeout →
    (s.polls = true → (∀ k : RingIx, same k) → goesOn noted) ∧
    (∀ (n : RingIx) (d : JobDesc), s.polls = true → (∀ k : RingIx, k ≠ n → same k) → (s.ring n).enabled = true →
      (s.ring n).held.length < 64 → produced.getD n.val 0 = (s.ring n).consumed + 1 → found = [(n, d)] →
      ∃ x : Machine.State, goesOn x ∧
        (x.ring n).consumed = (s.ring n).consumed + 1 ∧
        (x.ring n).held = (s.ring n).held ++ [⟨s.host.readSeq, (s.ring n).consumed, d, false⟩] ∧
        ∀ k : RingIx, k ≠ n → x.ring k = s.ring k) ∧
    (∀ n : RingIx, s.polls = true → (∀ k : RingIx, k ≠ n → same k) → (s.ring n).enabled = true →
      2 ^ (s.ring n).sizeLog2 < (produced.getD n.val 0 - (s.ring n).consumed).toNat →
      ∃ x : Machine.State, goesOn x ∧
        (x.ring n).errors = (s.ring n).errors + 1 ∧ (x.ring n).consumed = (s.ring n).consumed ∧
        (x.ring n).held = (s.ring n).held))) ∧
  (∀ (s : Machine.State) (n : RingIx),
    ((s.ring n).held = [] → Machine.exec (.copyCompletion n) s = .next s) ∧
    (∀ (d : HeldDesc) (rest : List HeldDesc), (s.ring n).held = d :: rest →
      (d.started = false ∨ isCopy d.desc.work = false → Machine.exec (.copyCompletion n) s = .next s) ∧
      (d.started = true → isCopy d.desc.work = true →
        ∃ (y : Machine.State) (st : Status), s.moveCopy d.desc.work (copyBytes d.desc.work) = (y, st) ∧
          Machine.exec (.copyCompletion n) s = .next
            (y.finishDesc n st fun c => { c with detail := BitVec.ofNat 32 (copyBytes d.desc.work / 64) }).progress)) ∧
    ((s.ring n).holdoff = false → Machine.exec (.holdoffExpiry n) s = .next s) ∧
    ((s.ring n).holdoff = true →
      ∃ t : Machine.State, Machine.exec (.holdoffExpiry n) s = .next t ∧ (t.ring n).owed = false ∧
        ((s.ring n).owed = false → (t.ring n).holdoff = false ∧ t.host.raised = s.host.raised) ∧
        ((s.ring n).owed = true → s.host.busMaster = true → s.host.msixEnable = true → s.host.driverLost = false →
          s.vectorMasked (s.ring n).vector = false →
          t.host.raised = s.host.raised ++ [(s.ring n).vector] ∧
            (t.ring n).holdoff = decide (0 < (s.ring n).holdoffUs)) ∧
        { t with host := s.host } = s))

/-- The four events that lose the driver: each names its cause; an attached driver is lost, and a module that stands in IDLE, ARMED
or QUIESCED with nothing waiting goes ORPHANED; without a driver only the port's own bits change (R278, R279, R282). -/
def Obligations.DriverLossOrphansTheModule : Prop :=
  ∀ s : Machine.State,
    let loses (i : Instr) (y : Machine.State) (cause : Nat) : Prop :=
      Machine.exec i s = .next (y.loseDriver cause) ∧
      (s.attachedNow = false → Machine.exec i s = .next y) ∧
      (s.attachedNow = true → atRest s → (∀ k : RingIx, (s.ring k).held = []) → s.job.stop = none → s.job.drain = none →
        s.job.saves = [] → (s.kp.state = .idle ∨ s.kp.state = .armed ∨ s.kp.state = .quiesced) →
        ∃ t : Machine.State, Machine.exec i s = .next t ∧ t.kp.state = .orphaned ∧ t.host.driverLost = true ∧
          t.host.lossCause = cause ∧ t.sills = s.sills)
    (∀ kind : PortResetKind,
      let y := if kind = .functionLevel then s else s.trainPort
      loses (.portReset kind) { y with host := { y.host with busMaster := false, msixEnable := false } } 2) ∧
    loses .busMasterDisable { s with host := { s.host with busMaster := false } } 3 ∧
    (∀ kind : HostFailKind, loses (.hostReadFailure kind)
      { s with host := { s.host with aer := s.host.aer + if kind = .completionTimeout then 1 else 0 } } 4) ∧
    (s.polls = false → Machine.exec .heartbeatTimeout s = .next s) ∧
    (s.polls = true → loses .heartbeatTimeout s 5)

/-! ## Steps, verdicts and commits (R164, R177 to R184, R232, R233, R297 to R300, R351 to R354) -/

/-- A posted step record with no line driven, no claim due and no tenon waiting starts the program on every die once the headers
are checked: the attempt runs and segments are numbered from 0; without a posted record nothing happens (R100, R164, R177, R254,
R298). -/
def Obligations.StepRecordStartsTheProgram : Prop :=
  ∀ s : Machine.State,
    (s.job.current = none ∨ s.job.phase ≠ .posted → Machine.exec .stepRecord s = .next s) ∧
    (∀ r : StepRec, s.job.current = some r → s.job.phase = .posted →
      (s.lineHigh = true ∨ s.restartGood = true → Machine.exec .stepRecord s = .next (s.runRecord r)) ∧
      (s.lineHigh = false → s.restartGood = false → Machine.exec .stepRecord s = .next s.refuseStart) ∧
      (s.lineHigh = false → s.restartGood = true → s.job.claimDue = false → s.job.claimed = false →
        (∀ m : SillId, (s.sill m).active.shards = []) → s.coll.held = [] → (∀ e : EdgeId, (s.edge e).waiting = []) →
        ∃ t : Machine.State, Machine.exec .stepRecord s = .next t ∧ t.job.phase = .running ∧ t.job.current = some r ∧
          t.job.own = s.job.own ∧ t.sills = s.sills ∧
          (∀ d : DieId, (t.die d).nextSegment = 0 ∧ (t.die d).lastEnded = none ∧ (t.die d).loft = (s.die d).loft) ∧
          (∀ (b : BayId) (x : ThreadIx) (pc : Nat), (s.bay b).func .bay = .enabled → (x, pc) ∈ (s.bay b).entries →
            (∀ q : Nat, (x, q) ∈ (s.bay b).entries → q = pc) →
            ((t.bay b).threads[x]).mode = .ready ∧ ((t.bay b).threads[x]).pc = pc ∧
              ((t.bay b).threads[x]).regs = Vector.replicate 16 0)))

/-- MODULE_FENCE: once the module may reach its fence it contributes its bits and the verdict flow goes on; before that nothing
happens (R179, R232). STEP_ABANDON abandons an attempt once, DRAIN_TIMEOUT forces every bay that still drains, and neither does
anything outside an attempt that is abandoned (R297). -/
def Obligations.FencesAndAbandonment : Prop :=
  ∀ s : Machine.State,
    (∀ found : List (SillId × Nat), s.kp.state = .running → s.job.phase = .running → s.lineHigh = false → s.job.abandoned = false →
      (s.fenceReady = false → Machine.exec (.moduleFence found) s = .next s) ∧
      (s.fenceReady = true → ∃ x : Machine.State, Machine.exec (.moduleFence found) s = .next (x.verdictFlow found) ∧
        x.job.phase = .fence ∧ x.job.contributed = x.job.own ∧ x.job.children = s.job.children ∧ x.coll = s.coll)) ∧
    (∀ found : List (SillId × Nat), s.kp.state ≠ .running ∨ s.job.phase ≠ .running →
      Machine.exec (.moduleFence found) s = .next s) ∧
    (∀ (die : DieId) (bay : BayIx),
      (s.kp.state = .running → s.job.phase = .running → (s.die die).abandonLine = true → s.job.abandoned = false →
        Machine.exec (.stepAbandon die bay) s = .next s.startAbandon) ∧
      (s.kp.state = .running → s.job.phase = .running → (s.die die).abandonLine = true → s.job.abandoned = true →
        ∃ t : Machine.State, Machine.exec (.stepAbandon die bay) s = .next t ∧ (∀ d : DieId, (t.die d).abandonLine = false) ∧
          t.job = s.job) ∧
      ((s.die die).abandonLine = false → Machine.exec (.stepAbandon die bay) s = .next s)) ∧
    (s.job.abandoned = false → Machine.exec .drainTimeout s = .next s) ∧
    (s.job.abandoned = true → (∀ b : BayId, (s.bay b).func .bay ≠ .quiescing) → Machine.exec .drainTimeout s = .next s) ∧
    (s.job.abandoned = true → Machine.exec .drainTimeout s = .next (allBays.foldl (fun s b =>
      if (s.bay b).func .bay = .quiescing then
        ((s.forceFunc b .bay).modBay b fun y => y.setFunc .bay .quiescing).settleFuncs b
      else s) s))

/-- The OR of the modules' bits: a child's report is noted once; a message that is stale, that no rule expects, or that comes twice,
is counted and has no other effect; a verdict from the parent goes to the children and takes effect here (R221, R232, R233). -/
def Obligations.VerdictMessagesFlowThroughTheTree : Prop :=
  ∀ (s : Machine.State) (src : BitVec 15) (context : DWord) (found : List (SillId × Nat)),
    (s.stale context = true →
      Machine.exec (.verdictUp src context found) s = .next (s.countEdge 0 0x02) ∧
      Machine.exec (.verdictDown src context found) s = .next (s.countEdge 0 0x02)) ∧
    (s.stale context = false → s.coll.tree = none →
      Machine.exec (.verdictUp src context found) s = .next (s.countEdge 0 0x08) ∧
      Machine.exec (.verdictDown src context found) s = .next (s.countEdge 0 0x08)) ∧
    (∀ t : TreeEntry, s.stale context = false → s.coll.tree = some t →
      (src ∉ t.children ∨ (∃ b, (src, b) ∈ s.job.children) →
        Machine.exec (.verdictUp src context found) s = .next (s.countEdge 0 0x08)) ∧
      (src ∈ t.children → (∀ b, (src, b) ∉ s.job.children) → s.job.current ≠ none → s.job.phase = .running →
        Machine.exec (.verdictUp src context found) s = .next { s with job := { s.job with
          children := s.job.children ++ [(src, Bits.ofCode (ctxBits context))] } }) ∧
      (t.root = true ∨ t.parent ≠ src ∨ s.job.phase ≠ .fence →
        Machine.exec (.verdictDown src context found) s = .next (s.countEdge 0 0x08)) ∧
      (t.root = false → t.parent = src → s.job.phase = .fence → t.children = [] →
        Machine.exec (.verdictDown src context found) s = .next (s.settle (Bits.ofCode (ctxBits context)) found)))

/-- A withheld update writes nothing, and chunks of copy that waited for the verdict do not land either: with no gather waiting or
running, a verdict with a bit set leaves every byte of every stack, every list and every bad sector as it was, settles the verdict
and counts the withheld update (R179, R182, R240). -/
def Obligations.WithheldUpdatesWriteNothing : Prop :=
  ∀ (s : Machine.State) (r : StepRec) (v : Bits) (found : List (SillId × Nat)), s.job.current = some r → v.any = true →
    s.gathersOut = false →
    (s.settle v found).job.verdict = some v ∧ (s.settle v found).job.phase = .settled ∧
    (s.settle v found).job.committed = s.job.committed ∧
    ∀ m : SillId, ((s.settle v found).sill m).dram = (s.sill m).dram ∧
      ((s.settle v found).sill m).active = (s.sill m).active ∧ ((s.settle v found).sill m).poison = (s.sill m).poison ∧
      Sparse.get (0 : Word) ((s.settle v found).sill m).counters 0x24 =
        satAdd (Sparse.get (0 : Word) (s.sill m).counters 0x24) 1

/-- The end of a step: STEP_END ends a settled step with its verdict, and waits while gathers are out; a VERDICT_TIMEOUT at the
fence gives the step up with PEER_LOST; elsewhere both do nothing (R181 to R183).
The status of a step whose sills have all committed, or whose verdict withholds it: SKEW on this module gives STEP_SKEW, other
SKEW and NONFINITE alone STEP_WITHHELD, REPLAY STEP_REPLAYED, and a clean verdict DONE or, with flagged entries, DONE_FLAGGED
(R183). -/
def Obligations.StepsEndWithTheirStatus : Prop :=
  (∀ s : Machine.State,
    (∀ (r : StepRec) (v : Bits), s.job.current = some r → s.job.verdict = some v →
      (s.job.phase = .settled → s.gathersOut = false → Machine.exec .stepEnd s = .next (s.endStep r v)) ∧
      (s.job.phase = .settled → s.gathersOut = true → s.kp.state ≠ .faulted → Machine.exec .stepEnd s = .next s) ∧
      (s.job.phase ≠ .settled → Machine.exec .stepEnd s = .next s)) ∧
    (s.job.current = none ∨ s.job.verdict = none → Machine.exec .stepEnd s = .next s) ∧
    (s.job.current = none ∨ s.kp.state ≠ .running ∨ s.job.phase ≠ .fence → Machine.exec .verdictTimeout s = .next s) ∧
    (∀ r : StepRec, s.job.current = some r → s.kp.state = .running → s.job.phase = .fence →
      ∃ x : Machine.State, Machine.exec .verdictTimeout s = .next ((x.endGathers .stepWithheld).landHeld.endFence (some .peerLost)) ∧
        x.job.current = none ∧ x.job.phase = .none ∧ x.job.verdict = none ∧ x.sills = s.sills ∧
        (∀ n : RingIx, n = r.ring → (x.ring n).held = (s.ring n).held.tail))) ∧
  (∀ (s : Machine.State) (v : Bits),
    (v.skew = true → s.job.contributed.skew = true → s.stepStatus v = .stepSkew) ∧
    (v.skew = true → s.job.contributed.skew = false → s.stepStatus v = .stepWithheld) ∧
    (v.skew = false → v.nonfinite = true → v.replay = false → s.stepStatus v = .stepWithheld) ∧
    (v.skew = false → v.replay = true → s.stepStatus v = .stepReplayed) ∧
    (v = {} → s.job.committed.length = 12 →
      s.stepStatus v = if s.job.flagged = 0 then .done else .doneFlagged))

/-- Maintenance that waits: a DEFER_LIMIT that expires claims the next attempt 0 for an item no fence can take, or says in a NOTICE
that the item is never claimed; the firmware's scan is asked for in ARMED and RUNNING; an item that has run answers its request
(R351, R353 to R355, R375).
The stop of a save or restore ends: the fence or the hold goes on; the drain of a snapshot writes host memory and completes its
descriptor; with none in progress nothing happens (R363, R367, R368, R372). -/
def Obligations.MaintenanceAndStopsEnd : Prop :=
  (∀ s : Machine.State,
    (s.kp.state ≠ .running ∨ s.overdueItem = none ∨ s.deferLimit = none → Machine.exec .deferLimitExpiry s = .next s) ∧
    (∀ i : Item, s.kp.state = .running → s.overdueItem = some i → s.deferLimit ≠ none → s.neverClaimed i = false →
      Machine.exec .deferLimitExpiry s = .next { s with job := { s.job with claimDue := true } }) ∧
    (∀ i : Item, s.kp.state = .running → s.overdueItem = some i → s.deferLimit ≠ none → s.neverClaimed i = true →
      ∃ t : Machine.State, Machine.exec .deferLimitExpiry s = .next t ∧ t.job = s.job ∧ t.kp = s.kp ∧ t.dies = s.dies) ∧
    (s.kp.state ≠ .armed → s.kp.state ≠ .running → Machine.exec .autoBentScan s = .next s) ∧
    (s.kp.state = .running → s.setting keyAutoScan = 1 →
      Machine.exec .autoBentScan s = .next { s with job := { s.job with
        scanDue := false, items := s.job.items ++ [⟨itemScan, 0, none, s.clk.aonMicros⟩] } }) ∧
    (s.kp.state = .running → s.setting keyAutoScan ≠ 1 →
      Machine.exec .autoBentScan s = .next { s with job := { s.job with scanDue := true } }) ∧
    (s.job.running = none → Machine.exec .selftestItemEnd s = .next s) ∧
    (∀ (i : Item) (tag : Word), s.job.running = some i → i.code ≠ itemMarch → i.tag = some tag → s.isIdleKind = false →
      s.job.claimed = false →
      Machine.exec .selftestItemEnd s =
        .next ((({ s with job := { s.job with running := none } } : Machine.State).respond tag .done).progress))) ∧
  (∀ s : Machine.State,
    (s.job.stop = none → Machine.exec .checkpointStopEnd s = .next s) ∧
    (∀ (c : Ckpt) (f : CkptFields), s.job.stop = some c → c.work = .save .direct f → c.status = .done → s.host.driverLost = false →
      Machine.exec .checkpointStopEnd s =
        .next ((((({ s with job := { s.job with stop := none } } : Machine.State).writeHost f.hostAddr.toNat c.image).finishDesc
          c.ring .done id)).afterSaves)) ∧
    (∀ c : Ckpt, s.job.stop = some c → Machine.exec .checkpointStopEnd s = .next ((s.endStop c).afterSaves)) ∧
    (s.job.drain = none → Machine.exec .snapshotDrainEnd s = .next s) ∧
    (∀ (c : Ckpt) (f : CkptFields), s.job.drain = some c → ckptFields c.work = some f →
      Machine.exec .snapshotDrainEnd s = .next ((s.endDrain c f).afterSaves)))

/-! ## Mortise links (R190 to R215) -/

/-- What a link that is UP, with no lane change open, sends: first the tenons to resend, then the next tenon of the VC that the
rotation gives, VC2 before all others. It spends its credits, takes the next SEQ and stays in the retry buffer. A link that is not
UP, or that changes a lane, sends nothing (R193, R198 to R200, R207).
A tenon that arrives: a good one with the expected SEQ is accepted, and goes to its handler here, which frees its buffer as it
takes it, or one hop on; any other is dropped, and the first bad one asks for a resend; a link that is not UP takes none (R195,
R197, R198, R200, R220). -/
def Obligations.TenonsLeaveAndArriveInOrder : Prop :=
  (∀ (s : Machine.State) (k : LinkId),
    let l := s.link k
    (l.state ≠ .up ∨ l.changes ≠ [] → Machine.exec (.tenonSend k) s = .next s) ∧
    (l.state = .up → l.changes = [] → 0 < l.resendLeft →
      ∃ t : Machine.State, Machine.exec (.tenonSend k) s = .next t ∧ (t.link k).resendLeft = l.resendLeft - 1 ∧
        (t.link k).retry.map Unacked.seq = l.retry.map Unacked.seq ∧ (t.link k).txSeq = l.txSeq ∧
        (t.link k).queues = l.queues ∧ (t.link k).credits = l.credits ∧ { t with links := s.links } = s) ∧
    (∀ (v : Fin 4) (q : QueuedTenon) (rest : List QueuedTenon), l.state = .up → l.changes = [] → l.resendLeft = 0 →
      l.nextVc = some v → l.queues[v] = q :: rest →
      (l.canSend 2 = true → v = 2) ∧
      ∃ t : Machine.State, Machine.exec (.tenonSend k) s = .next t ∧ (t.link k).queues = l.queues.set v rest ∧
        (t.link k).credits = l.credits.set v (l.credits[v] - tenonBlocks q.tenon) ∧ (t.link k).txSeq = l.txSeq + 1 ∧
        (∃ u : Unacked, (t.link k).retry = l.retry ++ [u] ∧ u.seq = l.txSeq ∧ u.resends = 0 ∧
          u.tenon.payload = q.tenon.payload ∧ u.tenon.dstId = q.tenon.dstId ∧
          (q.via = none → u.tenon.time = s.clk.boardTime)) ∧
        { t with links := s.links } = s)) ∧
  (∀ (s : Machine.State) (k : LinkId) (t : ArrivedTenon),
    let l := s.link k
    let good : Bool := arrivedGood t && decide (t.seq = l.rxSeq)
    (l.state ≠ .up → Machine.exec (.tenonReceive k t) s = .next s) ∧
    (l.state = .up → good = true → t.tenon.dstId = s.moduleId →
      ∃ x : Machine.State, Machine.exec (.tenonReceive k t) s = .next (x.deliverTenon k t.tenon) ∧
        (x.link k).rxSeq = l.rxSeq + 1 ∧ (x.link k).nakSent = false ∧ (x.link k).returned = l.returned ∧
        { x with links := s.links } = s) ∧
    (∀ out : LinkId, l.state = .up → good = true → t.tenon.dstId ≠ s.moduleId → s.route t.tenon.dstId = some out → out ≠ k →
      t.tenon.hops ≠ 0 → (s.link out).usable = true →
      ∃ x : Machine.State, Machine.exec (.tenonReceive k t) s = .next x ∧ (x.link k).rxSeq = l.rxSeq + 1 ∧
        (x.link out).queues = (s.link out).queues.set t.tenon.vc
          ((s.link out).queues[t.tenon.vc] ++ [⟨{ t.tenon with hops := t.tenon.hops - 1 }, some k⟩]) ∧
        { x with links := s.links } = s) ∧
    (l.state = .up → good = false →
      ∃ x : Machine.State, Machine.exec (.tenonReceive k t) s = .next x ∧ (x.link k).rxSeq = l.rxSeq ∧
        (x.link k).queues = l.queues ∧ (x.link k).nakSent = (l.nakSent || !arrivedGood t) ∧
        { x with links := s.links, free := s.free } = s))

/-- Acknowledgement and retry: a CREDIT_ACK whose PEER_STATE loses no peer frees the tenons that ACK_SEQ covers, and the returned
blocks are credit again; the replay timer asks for
every unacknowledged tenon again, and at RETRY_LIMIT for a retraining; so does a missing CREDIT_ACK; a VC held too long is only
recorded (R192, R197, R198, R200, R201). -/
def Obligations.LinksRetryAndRetrain : Prop :=
  ∀ (s : Machine.State) (k : LinkId),
    let l := s.link k
    (∀ blk : CreditAck, l.state ≠ .up → Machine.exec (.creditAck k blk) s = .next s) ∧
    (∀ blk : CreditAck, l.state = .up → blk.nak = false →
      (l.farModule = false ∨ (blk.peerState ≠ 0 ∧ blk.peerState ≠ 6) ∨ l.peerGone = true) →
      ∃ t : Machine.State, Machine.exec (.creditAck k blk) s = .next t ∧
        (t.link k).retry = l.retry.filter (fun u => decide ((blk.ackSeq - u.seq).toInt < 0)) ∧
        (∀ v : Fin 4, (t.link k).credits[v] = l.credits[v] + (blk.returns.getD v.val 0).toNat) ∧
        (t.link k).peerState = blk.peerState ∧
        (t.link k).state = .up ∧ (t.link k).queues = l.queues ∧ t.dies = s.dies ∧ t.job = s.job) ∧
    (l.state ≠ .up ∨ l.retry = [] → Machine.exec (.replayTimer k) s = .next s) ∧
    (∀ (u : Unacked) (rest : List Unacked), l.state = .up → l.retry = u :: rest →
      (u.resends < l.retryLimit →
        Machine.exec (.replayTimer k) s = .next (s.modLink k fun l => { l with resendLeft := l.retry.length })) ∧
      (l.retryLimit ≤ u.resends →
        ∃ t : Machine.State, Machine.exec (.replayTimer k) s = .next t ∧ (t.link k).state = .retraining ∧
          (t.link k).retry = l.retry)) ∧
    (l.state ≠ .up → Machine.exec (.creditAckTimeout k) s = .next s) ∧
    (l.state = .up → ∃ t : Machine.State, Machine.exec (.creditAckTimeout k) s = .next t ∧ (t.link k).state = .retraining ∧
      (t.link k).retry = l.retry ∧ (t.link k).queues = l.queues ∧ (∀ j : LinkId, j ≠ k → t.link j = s.link j)) ∧
    (∀ vc : Fin 4, ∃ t : Machine.State, Machine.exec (.creditHoldTimeout k vc) s = .next t ∧ t.links = s.links ∧
      t.dies = s.dies ∧ t.job = s.job ∧ t.kp = s.kp)

/-- Bring-up and retraining: with at least 7 lanes usable at both ends, those without a record, the link goes to HELLO over the
first 8 of them, else DOWN; a first HELLO that is not refused brings it UP with both SEQs at 0, a refused one, or one of another far
side than before, to REFUSED, and a link whose credits do not fit stays in HELLO; a retraining that meets the same far side again
resends what was not acknowledged, one that keeps fewer than 7 lanes takes the link DOWN, and a failed one below RETRAIN_LIMIT only
counts (R200, R202, R204, R205, R212). -/
def Obligations.LinksComeUp : Prop :=
  ∀ (s : Machine.State) (k : LinkId),
    let l := s.link k
    (∀ usable far : BitVec 9, l.state = .training →
      let common := usable &&& far &&& ~~~l.laneRecords
      ∃ t : Machine.State, Machine.exec (.linkBringUp k usable far) s = .next t ∧ (t.link k).laneOk = common ∧
        ((lanesOf common).length < 7 → (t.link k).state = .down) ∧
        (7 ≤ (lanesOf common).length → (t.link k).state = .hello ∧ (t.link k).laneMap = (lanesOf common).take 8) ∧
        ∀ j : LinkId, j ≠ k → t.link j = s.link j) ∧
    (∀ usable far : BitVec 9, l.state ≠ .training → Machine.exec (.linkBringUp k usable far) s = .next s) ∧
    (∀ f : HelloFields, l.state = .hello → s.kp.peg = true → l.creditsGood = true → s.helloRefused k f = false →
      l.lastHello = none →
      ∃ t : Machine.State, Machine.exec (.hello k f) s = .next t ∧ (t.link k).state = .up ∧ (t.link k).txSeq = 0 ∧
        (t.link k).rxSeq = 0 ∧ (t.link k).retry = [] ∧ ∀ j : LinkId, j ≠ k → t.link j = s.link j) ∧
    (∀ f : HelloFields, l.state = .hello → s.kp.peg = true → l.creditsGood = true →
      s.helloRefused k f = true ∨ helloDiffers f l.lastHello = true →
      ∃ x : Machine.State, Machine.exec (.hello k f) s = .next (x.loseLink k .refused) ∧ (x.link k).farId = f.moduleId ∧
        { x with links := s.links } = s) ∧
    (∀ f : HelloFields, l.state = .hello → s.kp.peg = true → l.creditsGood = false →
      Machine.exec (.hello k f) s = .next (s.countLink k 0x0E)) ∧
    (∀ f : HelloFields, l.state ≠ .hello ∨ s.kp.peg = false → Machine.exec (.hello k f) s = .next s) ∧
    (∀ usable : BitVec 9, l.state = .retraining → l.retrainFails + 1 < l.retrainLimit →
      ∃ t : Machine.State, Machine.exec (.linkRetraining k usable none) s = .next t ∧ (t.link k).state = .retraining ∧
        (t.link k).retrainFails = l.retrainFails + 1 ∧ (t.link k).retry = l.retry) ∧
    (∀ (usable : BitVec 9) (f : HelloFields), l.state = .retraining →
      (lanesOf (usable &&& f.lanes &&& ~~~l.laneRecords)).length < 7 →
      ∃ t : Machine.State, Machine.exec (.linkRetraining k usable (some f)) s = .next t ∧ (t.link k).state = .down ∧
        (t.link k).retry = [] ∧ (t.link k).laneMap = []) ∧
    (∀ (usable : BitVec 9) (f old : HelloFields), l.state = .retraining → l.lastHello = some old → f.farKind = old.farKind →
      f.moduleId = old.moduleId → f.boardId = old.boardId → l.creditsGood = true → s.helloRefused k f = false →
      7 ≤ (lanesOf (usable &&& f.lanes &&& ~~~l.laneRecords)).length →
      ∃ t : Machine.State, Machine.exec (.linkRetraining k usable (some f)) s = .next t ∧ (t.link k).state = .up ∧
        (t.link k).resendLeft = l.retry.length ∧ (t.link k).retry = l.retry ∧ (t.link k).txSeq = l.txSeq ∧
        (t.link k).rxSeq = l.rxSeq)

/-- Lane changes on a link that is UP or in HELLO: a failed lane leaves LANE_OK, and while 7 lanes are left the link stays as it is;
the far side's LANE_MAP does the same; LANE_MAP_ACK gives the far side's switch frame; the change is applied at the switch frame,
where the replacement takes the failed lane's place, or the link runs on 7 lanes (R206 to R209). -/
def Obligations.LanesAreReplaced : Prop :=
  ∀ (s : Machine.State) (k : LinkId),
    let l := s.link k
    let without (lane : Fin 9) : BitVec 9 := l.laneOk &&& ~~~BitVec.ofNat 9 (2 ^ lane.val)
    let carries : Prop := l.state = .up ∨ l.state = .hello
    (∀ (lane : Fin 9) (why : LaneFault), carries → l.laneOk.getLsbD lane.val = true → 7 ≤ (lanesOf (without lane)).length →
      ∃ t : Machine.State, Machine.exec (.laneFailure k lane why) s = .next t ∧ (t.link k).laneOk = without lane ∧
        (t.link k).state = l.state ∧ (t.link k).spareUsed = true ∧ (t.link k).queues = l.queues ∧
        ∃ c : LaneChange, (t.link k).changes = l.changes ++ [c] ∧ c.lane = lane ∧ c.mine = true ∧ c.farFrame = none ∧
          c.replacement = l.spare.filter fun i => i ≠ lane) ∧
    (∀ (lane : Fin 9) (why : LaneFault), ¬carries ∨ l.laneOk.getLsbD lane.val = false →
      Machine.exec (.laneFailure k lane why) s = .next s) ∧
    (∀ (lane : Fin 9) (to' : Byte) (frame : Nat), carries → l.laneOk.getLsbD lane.val = true →
      7 ≤ (lanesOf (without lane)).length →
      ∃ t : Machine.State, Machine.exec (.laneMap k lane to' frame) s = .next t ∧ (t.link k).laneOk = without lane ∧
        (t.link k).state = l.state ∧
        ∃ c : LaneChange, (t.link k).changes = l.changes ++ [c] ∧ c.lane = lane ∧ c.mine = false ∧ c.farFrame = some frame ∧
          c.replacement.map Fin.val = if to'.toNat < 9 then some to'.toNat else none) ∧
    (∀ (lane : Fin 9) (to' : Byte) (frame : Nat), ¬carries ∨ l.laneOk.getLsbD lane.val = false →
      Machine.exec (.laneMap k lane to' frame) s = .next s) ∧
    (∀ (frame : Nat) (c : LaneChange) (rest : List LaneChange), l.changes = c :: rest →
      ∃ t : Machine.State, Machine.exec (.laneMapAck k frame) s = .next t ∧
        (t.link k).changes = { c with farFrame := some frame } :: rest ∧ { t with links := s.links } = s) ∧
    (∀ (c : LaneChange) (rest : List LaneChange), carries → l.changes = c :: rest →
      ∃ t : Machine.State, Machine.exec (.laneSwitchFrame k) s = .next t ∧ (t.link k).changes = rest ∧
        (t.link k).laneMap = (match c.replacement with
          | some r => l.laneMap.map fun i => if i = c.lane then r else i
          | none => l.laneMap.filter fun i => i ≠ c.lane) ∧
        (c.replacement = none → l.laneMap.contains c.lane = true → (t.link k).degraded = true) ∧ { t with links := s.links } = s) ∧
    (¬carries ∨ l.changes = [] → ∃ t : Machine.State, Machine.exec (.laneSwitchFrame k) s = .next t ∧
      (t.link k).laneMap = l.laneMap)

/-! ## The kingpost's firmware (R289 to R304, R384 to R391, R397) -/

/-- A core that runs and fails, by its watchdog or by a trap, is restarting, with its NOTICE and the instant noted; the fourth
restart in 60 s leaves it failed and the module FAULTED; a core that is already down stays as it is (R290, R292, R295, R301).
`cutWork` ends what the core was doing.
A core that returns runs again, unless it has failed for good; the security core goes on with the requests that it held, the
power core with its plan minute and the scheduler core with its completions, events and descriptors (R290, R295).
The pair of kingposts: without a standby the loss of the active one leaves the module without firmware; with one it takes over,
with every core restarting and TAKEOVER set; a standby that fails is lost for good; the edge dies' timer makes them report FAULTED
(R301 to R304). -/
def Obligations.CoresFailReturnAndHandOver : Prop :=
  (∀ (s : Machine.State) (c : CoreKind),
    let recent := (s.fw.restarts[coreNo c]).filter fun t => decide (s.clk.aonMicros < t + 60000000)
    let watchdog : Instr := match c with
      | .security => .securityWatchdog
      | .power => .powerWatchdog
      | .scheduler => .schedulerWatchdog
    Machine.exec watchdog s = Machine.exec (.kingpostCoreTrap c) s ∧
    (s.coreRuns c = false → Machine.exec (.kingpostCoreTrap c) s = .next s) ∧
    (s.coreRuns c = true → recent.length < 3 → (s.fw.restarts[coreNo c]).length < 4 →
      ∃ x : Machine.State, Machine.exec (.kingpostCoreTrap c) s = .next (x.cutWork c) ∧
        x.fw.restarting = s.fw.restarting.set (coreNo c) true ∧
        x.fw.restarts = s.fw.restarts.set (coreNo c) (recent ++ [s.clk.aonMicros]) ∧ x.kp = s.kp ∧ x.dies = s.dies ∧
        x.sills = s.sills ∧ x.job = s.job) ∧
    (s.coreRuns c = true → recent.length = 3 → (s.fw.restarts[coreNo c]).length = 3 →
      ∃ x : Machine.State, Machine.exec (.kingpostCoreTrap c) s = .next (x.cutWork c) ∧ x.fw.failedCore = some c ∧
        x.fw.restarting[coreNo c] = true ∧ x.kp.state = .faulted)) ∧
  (∀ (s : Machine.State) (c : CoreKind),
    let back : Machine.State := { s with fw := { s.fw with
      restarting := s.fw.restarting.set (coreNo c) false, edgeFaulted := false } }
    (s.fw.restarting[coreNo c] = false ∨ s.fw.dead = true ∨ s.coreFailed c = true →
      Machine.exec (.kingpostCoreReturn c) s = .next s) ∧
    (s.fw.restarting[coreNo c] = true → s.fw.dead = false → s.coreFailed c = false →
      (c = .security → Machine.exec (.kingpostCoreReturn c) s = .next back.takeSecurity.endRolling) ∧
      (c = .scheduler → Machine.exec (.kingpostCoreReturn c) s = .next back.resumeScheduler.endRolling) ∧
      (c = .power → s.minuteNow = s.pwr.minute → s.cfg.rolling = none →
        Machine.exec (.kingpostCoreReturn c) s = .next back) ∧
      (c = .security → s.mgmt.heldSecurity = [] → s.cfg.rolling = none →
        Machine.exec (.kingpostCoreReturn c) s = .next back))) ∧
  (∀ (s : Machine.State) (cause : KpFailure),
    (s.fw.dead = true → Machine.exec (.pairAliveTimeout cause) s = .next s ∧ Machine.exec .standbyFailure s = .next s) ∧
    (s.fw.dead = false → s.fw.standbyOk = false →
      Machine.exec (.pairAliveTimeout cause) s = .next { s with fw := { s.fw with dead := true } }) ∧
    (s.fw.dead = false → s.fw.standbyOk = true → s.cfg.rolling = none → s.cfg.staging = none → s.job.stop = none →
      s.job.drain = none → (∀ k : RingIx, (s.ring k).held = []) →
      ∃ t : Machine.State, Machine.exec (.pairAliveTimeout cause) s = .next t ∧ t.fw.activeB = !s.fw.activeB ∧
        t.fw.restarting = Vector.replicate 3 true ∧ t.fw.standbyOk = false ∧ t.fw.standbyLost = true ∧
        t.kp.takeover = true ∧ t.kp.state = s.kp.state ∧ t.job = s.job ∧ t.dies = s.dies ∧ t.sills = s.sills) ∧
    (s.fw.dead = false → s.fw.standbyLost = false →
      ∃ t : Machine.State, Machine.exec .standbyFailure s = .next t ∧ t.fw.standbyLost = true ∧ t.fw.standbyOk = false ∧
        t.fw.activeB = s.fw.activeB ∧ t.kp.state = s.kp.state ∧ t.job = s.job) ∧
    (s.fw.standbyLost = true → Machine.exec .standbyFailure s = .next s) ∧
    Machine.exec .edgeKingpostTimer s = .next { s with fw := { s.fw with edgeFaulted := true } })

/-- The update of an image: a staged one that passes is STAGED, and its slot is EMPTY where it does not; a scheduled activation
starts at its instant, unless R385 bars it; a rolling one then switches component after component (R384 to R388). A nonce lapses
(R397).
A chunk of a package written to ACORN over the sideband lands at its offset; outside ACORN, or in another shape, nothing happens
(R391). -/
def Obligations.UpdatesAdvance : Prop :=
  (∀ s : Machine.State,
    (s.cfg.staging = none ∨ s.fw.restarting[0] = true → Machine.exec .stagingComplete s = .next s) ∧
    (∀ (tag : Word) (x : ImageSlot) (fault : Option Byte), s.cfg.staging = some (tag, x, fault) → s.fw.restarting[0] = false →
      (∀ r : Byte, fault = some r → ∃ y : Machine.State, Machine.exec .stagingComplete s =
          .next (y.respond tag .updateRefused (BitVec.ofNat 384 r.toNat)) ∧ y.cfg.staging = none ∧ y.cfg.other.state = .empty) ∧
      (fault = none → s.compatible s.cfg.active x = true → ∃ y : Machine.State, Machine.exec .stagingComplete s =
          .next ((y.noteImage 0 x.version).respond tag .done) ∧ y.cfg.staging = none ∧
          y.cfg = ({ s.cfg with staging := none } : Cfg).convertFor x)) ∧
    (s.cfg.schedule = none → Machine.exec .rollingActivation s = .next s) ∧
    (∀ x : Schedule, s.cfg.schedule = some x →
      (s.activationDue x = false → Machine.exec .rollingActivation s = .next s) ∧
      (s.activationDue x = true → s.activationBar x = none → x.rolling = true →
        Machine.exec .rollingActivation s = .next { s with cfg := { s.cfg with
          rolling := some (if x.revert then (5, true) else (0, false)) } }) ∧
      (s.activationDue x = true → s.activationBar x = none → x.rolling = false →
        ∃ t : Machine.State, Machine.exec .rollingActivation s = .next t ∧ t.kp.state = .boot ∧
          t.kp.bootCount = s.kp.bootCount + 1 ∧ t.sec.svnMin = s.sec.svnMin ∧ t.pending = s.pending) ∧
      (∀ r : RefuseReason, s.activationDue x = true → s.activationBar x = some r →
        Machine.exec .rollingActivation s =
          .next (({ s with cfg := { s.cfg with schedule := none } } : Machine.State).refuseUpdate x.tag r))) ∧
    (∀ declined : Bool, s.cfg.rolling = none → Machine.exec (.rollingSwitch declined) s = .next s) ∧
    (∀ (n : Nat) (x : Schedule), s.cfg.rolling = some (n, false) → s.cfg.schedule = some x → n < 5 → s.fw.dead = false →
      s.fw.restarting = Vector.replicate 3 false →
      Machine.exec (.rollingSwitch false) s = .next
        (({ s.switchOne n with cfg := { (s.switchOne n).cfg with rolling := some (n + 1, false) } } : Machine.State).endRolling)) ∧
    Machine.exec .nonceExpiry s = .next { s with sec := { s.sec with debugNonce := none } }) ∧
  (∀ (s : Machine.State) (offset : Word) (chunk : List Byte), 0 < chunk.length → chunk.length ≤ 256 →
    let bytes : List Byte := 0x02 :: (leBytes 4 offset.toNat ++ chunk)
    (s.kp.state ≠ .acorn → Machine.exec (.i3cAcornWrite bytes) s = .next s) ∧
    (s.kp.state = .acorn → offset.toNat + chunk.length < 320 →
      Machine.exec (.i3cAcornWrite bytes) s = .next (s.takeChunk offset.toNat chunk)))

/-! ## Time, power and the board (R306 to R339, R422 to R434) -/

/-- AON_SAMPLE: time runs on by one microsecond, with at most 1 ns of slew, and a clock domain that is not stopped counts its
cycles and stretch, while FABRIC in IDLE stops with a sample of no cycles (log 120); a reading of a margin moves the domain's cap
only at the tenth low one in a row, where the target can fall, or at the thousandth high one, where the margin cap alone holds the
target (R308, R315, R316, R321).
The time word and the load of board time: a source with valid time drives a mark with its SEQ, its millisecond and a CRC that
checks; a load takes effect with the mark, and ends the plan minute that it leaves (log entry 146); a write of CLK_LOAD_GO waits
as pending where R322 allows it; a follower that loses its marks enters holdover; a source or free module ignores TIME_IN (R318 to
R323). -/
def Obligations.TimeRunsOnAndIsMarked : Prop :=
  (∀ s : Machine.State,
    (∃ t : Machine.State, Machine.exec (.aonSample []) s = .next t ∧ t.clk.aonMicros = s.clk.aonMicros + 1 ∧
      (s.clk.slewLeft = 0 → t.clk.boardTime = s.clk.boardTime + 1000) ∧
      (t.clk.boardTime = s.clk.boardTime + 999 ∨ t.clk.boardTime = s.clk.boardTime + 1000 ∨
        t.clk.boardTime = s.clk.boardTime + 1001) ∧ t.sills = s.sills ∧ t.job = s.job) ∧
    (∀ (die : DieId) (k : Fin 17) (cycles stretch : Nat), (((s.die die).domains[k]).stopped = false →
      ∃ t : Machine.State, Machine.exec (.aonSample [(die, k, cycles, stretch)]) s = .next t ∧
        ((t.die die).domains[k]).cycles = ((s.die die).domains[k]).cycles + BitVec.ofNat 48 cycles ∧
        ((t.die die).domains[k]).tally = ((s.die die).domains[k]).tally + BitVec.ofNat 32 stretch) ∧
      (s.kp.state = .idle → ∃ t : Machine.State, Machine.exec (.aonSample [(die, 16, cycles, stretch)]) s = .next t ∧
        ((t.die die).domains[(16 : Fin 17)]).stopped = decide (cycles = 0))) ∧
    (∀ (die : DieId) (k : Fin 17) (code : BitVec 3), s.powerRuns = true →
      let x := (s.die die).domains[k]
      ∃ t : Machine.State, Machine.exec (.marginReading die k code) s = .next t ∧
        ((t.die die).domains[k]).margin = code ∧
        (code.toNat ≤ 1 → x.lowRun < 9 →
          ((t.die die).domains[k]).lowRun = x.lowRun + 1 ∧ ((t.die die).domains[k]).marginCap = x.marginCap) ∧
        (code.toNat ≤ 1 → 9 ≤ x.lowRun → ((t.die die).domains[k]).marginCap =
          if x.target.toNat ≤ 0x20 then x.marginCap
          else BitVec.ofNat 8 (max 0x20 (min x.marginCap.toNat x.target.toNat - 1))) ∧
        (4 ≤ code.toNat → ((t.die die).domains[k]).marginCap =
          if 999 ≤ x.highRun ∧ x.target.toNat < s.otherCap (s.die die) k ∧ x.marginCap.toNat ≤ x.target.toNat then x.marginCap + 1
          else x.marginCap) ∧
        (2 ≤ code.toNat → code.toNat ≤ 3 → ((t.die die).domains[k]).marginCap = x.marginCap ∧
          ((t.die die).domains[k]).lowRun = 0 ∧ ((t.die die).domains[k]).highRun = 0))) ∧
  (∀ s : Machine.State,
    (∀ v : DWord, s.clk.pendingLoad = some v → s.timeRole ≠ 1 → s.follows = false →
      let loaded : Machine.State := { s with clk := { s.clk with boardTime := v, valid := true, pendingLoad := none } }
      Machine.exec .timeMarkSend s =
        .next (if v.toNat / 60000000000 ≠ s.minuteNow ∧ s.powerRuns = true then loaded.endMinute else loaded)) ∧
    (s.clk.pendingLoad = none → s.timeRole = 1 → s.clk.valid = true →
      ∃ (t : Machine.State) (w : TimeWord), Machine.exec .timeMarkSend s = .next t ∧ t.clk.lastSent = some w ∧
        w.seq = s.clk.outSeq ∧ t.clk.outSeq = s.clk.outSeq + 1 ∧ w.time.toNat = s.clk.boardTime.toNat / 1000000 * 1000000 ∧
        w.crc = crc16 (timeBytes w) ∧ t.clk.boardTime = s.clk.boardTime) ∧
    (∀ (w : TimeWord) (offset : Int), s.follows = false → Machine.exec (.timeMark w offset) s = .next s) ∧
    (∀ (w : TimeWord) (offset : Int), s.follows = true → crc16 (timeBytes w) ≠ w.crc →
      Machine.exec (.timeMark w offset) s = .next { s with clk := { s.clk with
        events := s.clk.events ||| 2, markErrors := satAdd s.clk.markErrors 1 } }) ∧
    (s.follows = true → s.clk.holdover = false →
      ∃ t : Machine.State, Machine.exec .markLoss s = .next t ∧ t.clk.holdover = true ∧ t.clk.locked = false ∧
        t.clk.boardTime = s.clk.boardTime ∧ t.clk.events = s.clk.events ||| 1) ∧
    (s.follows = false ∨ s.clk.holdover = true → Machine.exec .markLoss s = .next s) ∧
    (∀ value : Word, value.getLsbD 0 = true → s.loadRefused = false →
      Machine.exec (.clkLoadGo value 0xF) s = .next { s with clk := { s.clk with
        pendingLoad := some (BitVec.ofNat 64 (s.clk.loadHi.toNat * 2 ^ 32 + s.clk.loadLo.toNat)) } }) ∧
    (∀ value : Word, value.getLsbD 0 = true → s.loadRefused = true →
      ∃ t : Machine.State, Machine.exec (.clkLoadGo value 0xF) s = .next t ∧ t.clk.pendingLoad = s.clk.pendingLoad ∧
        t.clk.events = s.clk.events ||| 8) ∧
    (∀ (value : Word) (enables : BitVec 4), enables ≠ 0xF →
      Machine.exec (.clkLoadGo value enables) s = .next (s.dropWrite 0x0200028)))

/-- The power core: a sample is recorded whether it runs or not; while it runs the shares of the limiters follow the sites' need
and a plan minute ends with its mean; POWER_RESERVE takes effect as it changes; while it restarts the minute waits (R290, R328,
R331, R334, R335, R428). -/
def Obligations.PowerFollowsThePlan : Prop :=
  ∀ s : Machine.State,
    (∀ (watts : List Nat) (husk : Nat) (out : Bool), s.powerRuns = false →
      ∃ t : Machine.State, Machine.exec (.drawSample watts ⟨husk, out⟩) s = .next t ∧
        t.pwr.minuteSum = s.pwr.minuteSum + watts.sum ∧ t.pwr.outOfRange = (s.pwr.outOfRange || out) ∧
        t.pwr.minuteCount = s.pwr.minuteCount + 1 ∧ t.pwr.a10 = s.pwr.a10 ∧ { t with pwr := s.pwr } = s) ∧
    (∀ (watts : List Nat) (husk : Nat) (out : Bool), s.powerRuns = true →
      ∃ x : Machine.State, Machine.exec (.drawSample watts ⟨husk, out⟩) s =
          .next ((x.checkBounds.moveDrawCap watts).setHuskRate watts.sum husk) ∧
        x.pwr.minuteSum = s.pwr.minuteSum + watts.sum ∧ x.pwr.minuteCount = s.pwr.minuteCount + 1 ∧
        x.pwr.outOfRange = (s.pwr.outOfRange || out) ∧
        x.pwr.a10 = (s.pwr.record watts husk).average 100 ∧ x.pwr.a100 = (s.pwr.record watts husk).average 1000 ∧
        { x with pwr := s.pwr } = s) ∧
    (∀ need : List Nat, s.powerRuns = true → need.length = 16 → 0 < need.sum →
      ∃ t : Machine.State, Machine.exec (.limiterShare need) s = .next t ∧
        (∀ n : Fin 16, t.pwr.shares[n] = s.limits.ceiling * 125 * need.getD n.val 0 / need.sum) ∧
        t.pwr.shares.toList.sum ≤ s.limits.ceiling * 125 ∧ { t with pwr := s.pwr } = s) ∧
    (∀ need : List Nat, s.powerRuns = false → Machine.exec (.limiterShare need) s = .next s) ∧
    (s.powerRuns = true → ∃ t : Machine.State, Machine.exec .planMinuteBoundary s = .next t ∧
      t.pwr.amin = (if s.pwr.minuteCount = 0 then 0 else s.pwr.minuteSum / s.pwr.minuteCount) ∧ t.pwr.minute = s.minuteNow ∧
      t.pwr.minuteSum = 0 ∧ t.pwr.minuteCount = 0) ∧
    (s.powerRuns = false → Machine.exec .planMinuteBoundary s = .next s) ∧
    (s.pkg.reserve = false → Machine.exec .powerReserveFall s = .next s ∧
      ∃ t : Machine.State, Machine.exec .powerReserveRise s = .next t ∧ t.pkg.reserve = true ∧ t.pwr.reserve = true) ∧
    (s.pkg.reserve = true → Machine.exec .powerReserveRise s = .next s ∧
      ∃ t : Machine.State, Machine.exec .powerReserveFall s = .next t ∧ t.pkg.reserve = false ∧ t.pwr.reserve = false)

/-- Heat: a reading stands in the sensor table; one at the warning level is noted, one below it no longer; a trip takes the module
to FAULTED with every output off and THERM_TRIP set (R24, R430, R431, R434).
Supplies and reset: 48 V lost outside BOOT and ACORN takes the module to FAULTED, its memories empty; its return leaves FAULTED
standing; AUX lost resets every die and waits in reset; a MODULE_RESET pulse of at least 1 us starts BOOT, or ACORN by the strap,
and one below 100 ns does nothing. The minimum security version, the revoked keys and the log outlast all of them (R24, R282, R348,
R422 to R427).
BOOT_COMPLETE: nothing before BOOT can end; a self-test that passes, with no trial to undo, brings the images up; a second
failure, or one with no other image, leads to ACORN (R265, R389, R391, R425). -/
def Obligations.HeatSuppliesAndResets : Prop :=
  (∀ (s : Machine.State) (x : Sensor),
    (∀ celsius : Byte, s.powerRuns = true → s.pkg.aux = true →
      ∃ t : Machine.State, Machine.exec (.thermalSensorRead x celsius) s = .next t ∧ (x, celsius.toNat) ∈ t.pkg.temps ∧
        ((sensorLevels x).1 ≤ celsius.toNat → x ∈ t.pkg.warned) ∧ (celsius.toNat < (sensorLevels x).1 → x ∉ t.pkg.warned) ∧
        t.kp.state = s.kp.state ∧ t.sills = s.sills) ∧
    (∀ celsius : Byte, s.powerRuns = false ∨ s.pkg.aux = false → Machine.exec (.thermalSensorRead x celsius) s = .next s) ∧
    (s.pkg.aux = true →
      ∃ t : Machine.State, Machine.exec (.thermalTrip x) s = .next t ∧ t.kp.state = .faulted ∧ t.pkg.thermTrip = true ∧
        t.pkg.powerGood = false ∧ (∀ d : DieId, (t.die d).loft = []) ∧ ∀ m : SillId, (t.sill m).dram = []) ∧
    (s.pkg.aux = false → Machine.exec (.thermalTrip x) s = .next s)) ∧
  (∀ s : Machine.State,
    (∃ t : Machine.State, Machine.exec .supply48vLoss s = .next t ∧ t.pkg.v48 = false ∧ t.pkg.powerGood = false ∧
      t.kp.state = (if s.kp.state = .boot ∨ s.kp.state = .acorn then s.kp.state else .faulted) ∧
      (∀ d : DieId, (t.die d).loft = []) ∧ (∀ m : SillId, (t.sill m).dram = []) ∧ t.sec.svnMin = s.sec.svnMin) ∧
    (∃ t : Machine.State, Machine.exec .supply48vReturn s = .next t ∧ t.pkg.v48 = true ∧ t.kp = s.kp ∧
      { t with pkg := s.pkg } = s) ∧
    (s.pkg.aux = false → Machine.exec .auxLoss s = .next s) ∧
    (s.pkg.aux = true → ∃ t : Machine.State, Machine.exec .auxLoss s = .next t ∧ t.pkg.aux = false ∧ t.pkg.inReset = true ∧
      t.kp.state = .boot ∧ t.kp.bootCount = s.kp.bootCount ∧ t.mgmt.events = [] ∧ t.scribe.slots = s.scribe.slots ∧
      t.sec.svnMin = s.sec.svnMin ∧ t.sec.revoked = s.sec.revoked) ∧
    (Machine.exec .auxReturn s = .next { s with pkg := { s.pkg with aux := true } }) ∧
    (∀ p : ResetPulse, s.pkg.aux = false ∨ p.lowNs < 100 → Machine.exec (.moduleReset p) s = .next s) ∧
    (∀ p : ResetPulse, s.pkg.aux = true → 1000 ≤ p.lowNs →
      ∃ t : Machine.State, Machine.exec (.moduleReset p) s = .next t ∧
        t.kp.state = (if p.acorn then .acorn else .boot) ∧ t.kp.bootCount = s.kp.bootCount + 1 ∧ t.pkg.inReset = false ∧
        t.pkg.i3cAddr = p.i3cAddr ∧ t.mgmt.events = [] ∧ (∀ m : SillId, (t.sill m).dram = []) ∧
        t.scribe.slots = s.scribe.slots ∧ t.sec.svnMin = s.sec.svnMin ∧ t.sec.revoked = s.sec.revoked ∧
        t.pending = s.pending)) ∧
  (∀ (s : Machine.State) (r : BootResult),
    (s.bootReady = false → Machine.exec (.bootComplete r) s = .next s) ∧
    (s.bootReady = true → s.cfg.revertDue = false → s.cfg.fallbackDue = false → r.selfTestOk = true →
      ∃ x : Machine.State, Machine.exec (.bootComplete r) s = .next (x.bootPassed r) ∧ x = s) ∧
    (s.bootReady = true → s.cfg.revertDue = false → s.cfg.fallbackDue = false → r.selfTestOk = false →
      1 ≤ s.cfg.bootFailures ∨ s.cfg.other.state = .empty →
      ∃ t : Machine.State, Machine.exec (.bootComplete r) s = .next t ∧ t.kp.state = .acorn ∧
        t.cfg.bootFailures = s.cfg.bootFailures + 1))

/-! ## The scribe log, PLDM and SPDM (R338, R344 to R350, R394, R396) -/

/-- The log: a record that closes is rewritten in place, no longer open; a slot that waits for the mirror is copied to it; a
reader's index is set by a write within the log, and a read answers the slot at the index and advances it modulo 2^20 (R344, R347,
R348, R350). -/
def Obligations.TheLogIsClosedMirroredAndRead : Prop :=
  ∀ s : Machine.State,
    (∀ (subject : Word) (o : OpenRec), (s.scribe.opens.find? fun o => o.record.subject = subject) = some o →
      ∃ t : Machine.State, Machine.exec (.recordClose subject) s = .next t ∧ (∀ x ∈ t.scribe.opens, x.slot ≠ o.slot) ∧
        (∃ r : Record, (o.slot, r) ∈ t.scribe.slots ∧ r.isOpen = false ∧ r.seqNo = o.record.seqNo ∧ r.subject = o.record.subject) ∧
        { t with scribe := s.scribe } = s) ∧
    (∀ subject : Word, (∀ o ∈ s.scribe.opens, o.record.subject ≠ subject) → Machine.exec (.recordClose subject) s = .next s) ∧
    (∀ slot : Nat, s.scribe.mirror.contains slot = false → Machine.exec (.scribeMirror slot) s = .next s) ∧
    (∀ (slot : Nat) (r : Record), s.scribe.mirror.contains slot = true → s.scribe.slots.find? (fun x => x.1 = slot) = some (slot, r) →
      ∃ t : Machine.State, Machine.exec (.scribeMirror slot) s = .next t ∧ (slot, r) ∈ t.scribe.nor ∧
        t.scribe.mirror = s.scribe.mirror.erase slot ∧ t.scribe.slots = s.scribe.slots) ∧
    (∀ (standby : Bool) (i : Word), s.pkg.aux = true →
      (i.toNat ≤ 1048575 → ∃ t : Machine.State, Machine.exec (.i3cWriteIndex standby (0x01 :: leBytes 4 i.toNat)) s = .next t ∧
        t.readerIndex standby = i.toNat ∧ t.scribe.slots = s.scribe.slots) ∧
      (1048575 < i.toNat → Machine.exec (.i3cWriteIndex standby (0x01 :: leBytes 4 i.toNat)) s = .next s)) ∧
    (∀ standby : Bool, s.pkg.aux = true →
      ∃ t : Machine.State, Machine.exec (.i3cRead standby) s = .next t ∧
        t.io.i3c = s.readerSlot standby (s.readerIndex standby) ∧
        t.readerIndex standby = (s.readerIndex standby + 1) % 1048576 ∧ t.scribe.slots = s.scribe.slots) ∧
    (∀ standby : Bool, s.pkg.aux = false → Machine.exec (.i3cRead standby) s = .next s)

/-- PLDM over the sideband while AUX stands and the power core runs: readings of the listed sensors in W, one record for each of
them and no other, the types 0 and 2, and an event receiver that is set or cleared; otherwise no answer (R289, R338). -/
def Obligations.PldmAnswersTheSideband : Prop :=
  ∀ s : Machine.State,
    let said (i : Instr) (bytes : List Byte) : Prop := Machine.exec i s = .next { s with io := { s.io with pldm := bytes } }
    (s.pkg.aux = true → s.powerRuns = true →
      said (.getSensorReading 0x0101) (0x00 :: leBytes 2 (min s.pwr.a10 65535)) ∧
      said (.getSensorReading 0x0102) (0x00 :: leBytes 2 (min s.pwr.a100 65535)) ∧
      said (.getSensorReading 0x0103) (0x00 :: leBytes 2 (min s.pwr.amin 65535)) ∧
      said (.getSensorReading 0x0106) (0x00 :: leBytes 2 (min s.pwr.husk 65535)) ∧
      (∀ x : BitVec 16, x.toNat < 0x0101 ∨ 0x011F < x.toNat → said (.getSensorReading x) [0x80]) ∧
      (∀ (k : Nat) (x : BitVec 16), pldmSensors[k]? = some x → k < 2 ^ 16 →
        said (.getPdr (BitVec.ofNat 32 (k + 1))) (0x00 :: leBytes 4 (k + 1) ++ leBytes 2 x.toNat ++ [0])) ∧
      (∀ w : Word, pldmSensors.length < w.toNat → said (.getPdr w) [0x82]) ∧
      said .getPdrRepositoryInfo (0x00 :: leBytes 4 pldmSensors.length) ∧
      said .getPldmTypes (0x00 :: leBytes 8 5) ∧
      said .getTid [0x00, Config.pldmTid] ∧
      (∀ k : Byte, (k = 0 ∨ k = 2) → said (.getPldmVersion k) (0x00 :: leBytes 4 (Config.pldmVersion k).toNat) ∧
        said (.getPldmCommands k) (0x00 :: leBytes 32 (pldmCommands k))) ∧
      (∀ k : Byte, k ≠ 0 → k ≠ 2 → said (.getPldmVersion k) [0x83] ∧ said (.getPldmCommands k) [0x83]) ∧
      ∀ (eid : Byte) (on : Bool), Machine.exec (.setEventReceiver eid on) s = .next { s with
        pwr := { s.pwr with receiver := if on then some eid else none }, io := { s.io with pldm := [0x00] } }) ∧
    (s.pkg.aux = false ∨ s.powerRuns = false →
      Machine.exec .getTid s = .next s ∧ Machine.exec .getPldmTypes s = .next s ∧
      Machine.exec .getPdrRepositoryInfo s = .next s ∧ (∀ x : BitVec 16, Machine.exec (.getSensorReading x) s = .next s) ∧
      (∀ w : Word, Machine.exec (.getPdr w) s = .next s) ∧
      (∀ k : Byte, Machine.exec (.getPldmVersion k) s = .next s ∧ Machine.exec (.getPldmCommands k) s = .next s) ∧
      ∀ (eid : Byte) (on : Bool), Machine.exec (.setEventReceiver eid on) s = .next s)

/-- SPDM on a transport while the responder is up: the connection goes through version, capabilities and algorithms in that order,
each refused before the one before it; digests, certificates, challenges and measurements need the algorithms; the responses are
opaque bytes of the responder (R394, R396). The other transport keeps its connection.
SPDM sessions: KEY_EXCHANGE opens one, up to four on a transport; FINISH establishes it where the proof holds and ends it
where it does not; HEARTBEAT, KEY_UPDATE and END_SESSION act on an established one; chunks are taken in order (R396).
While AUX is off or the security core restarts, no SPDM request is answered and none changes anything (R289, R290). -/
def Obligations.SpdmFollowsItsOrder : Prop :=
  (∀ (s : Machine.State) (tr : Transport), s.spdmUp = true →
    let c := s.conn tr
    let other : Transport := match tr with
      | .doe => .mctp
      | .mctp => .doe
    let answers (i : Instr) (kind : Nat) (stage : Nat) : Prop :=
      ∃ t : Machine.State, Machine.exec i s = .next t ∧ t.io.spdm = Config.spdmBody kind s.free ∧ (t.conn tr).stage = stage ∧
        t.conn other = s.conn other ∧ { t with sec := s.sec, io := s.io, free := s.free } = s
    answers (.getVersion tr) 1 1 ∧
    (∀ flags : Word, (1 ≤ c.stage → answers (.getCapabilities tr flags) 2 2) ∧
      (c.stage = 0 → answers (.getCapabilities tr flags) 0 0)) ∧
    (∀ offered : Word, (2 ≤ c.stage → answers (.negotiateAlgorithms tr offered) 3 3) ∧
      (c.stage < 2 → answers (.negotiateAlgorithms tr offered) 0 c.stage)) ∧
    (c.stage = 3 → answers (.getDigests tr) 4 3 ∧ (∀ off len : Nat, answers (.getCertificate tr 0 off len) 5 3) ∧
      (∀ nonce : BitVec 256, answers (.challenge tr nonce) 6 3) ∧
      ∀ nonce : BitVec 256, ∃ t : Machine.State, Machine.exec (.getMeasurements tr 1 nonce) s = .next t ∧
        t.io.spdm = Config.spdmMeasurement 1 (s.measurement 1) nonce ∧ (t.conn tr).stage = 3) ∧
    (c.stage < 3 → answers (.getDigests tr) 0 c.stage ∧ (∀ nonce : BitVec 256, answers (.challenge tr nonce) 0 c.stage)) ∧
    (∀ token : Nat, answers (.respondIfReady tr token) 0 c.stage)) ∧
  (∀ (s : Machine.State) (tr : Transport), s.spdmUp = true →
    let c := s.conn tr
    let answers (i : Instr) (kind : Nat) (l : List SpdmSession) : Prop :=
      ∃ t : Machine.State, Machine.exec i s = .next t ∧ t.io.spdm = Config.spdmBody kind s.free ∧ (t.conn tr).sessions = l
    (∀ x : List Byte, (c.stage = 3 → c.sessions.length < 4 →
        answers (.keyExchange tr x) 8 (c.sessions ++ [⟨c.nextId, false, 0⟩])) ∧
      (4 ≤ c.sessions.length → answers (.keyExchange tr x) 0 c.sessions)) ∧
    (∀ (n : Nat) (proof : List Byte), (∃ x ∈ c.sessions, x.id = n ∧ x.established = false) →
      (Config.spdmFinishGood n proof = true → answers (.finish tr n proof) 9
        (c.sessions.map fun x => if x.id = n then { x with established := true } else x)) ∧
      (Config.spdmFinishGood n proof = false → answers (.finish tr n proof) 0 (c.sessions.filter fun x => x.id ≠ n))) ∧
    (∀ n : Nat, c.inSession n = true →
      answers (.spdmHeartbeat tr n) 10 c.sessions ∧
      answers (.keyUpdate tr n 1) 11 (c.sessions.map fun x => if x.id = n then { x with updates := x.updates + 1 } else x) ∧
      answers (.keyUpdate tr n 3) 11 c.sessions ∧
      answers (.endSession tr n) 12 (c.sessions.filter fun x => x.id ≠ n)) ∧
    (∀ n : Nat, c.inSession n = false → answers (.spdmHeartbeat tr n) 0 c.sessions ∧ answers (.endSession tr n) 0 c.sessions) ∧
    (∀ (k : Nat) (last : Bool) (data : List Byte) (x : Nat × List Byte), c.chunk k data = some x →
      ∃ t : Machine.State, Machine.exec (.chunkSend tr k last data) s = .next t ∧ t.io.spdm = Config.spdmBody 13 s.free ∧
        (t.conn tr).chunksIn = (if last then none else some x)) ∧
    (∀ h k : Nat, c.chunksOut ≠ [] →
      ∃ t : Machine.State, Machine.exec (.chunkGet tr h k) s = .next t ∧ t.io.spdm = Config.spdmBody 14 s.free ∧
        t.conn tr = s.conn tr)) ∧
  (∀ (s : Machine.State) (tr : Transport), s.spdmUp = false →
    Machine.exec (.getVersion tr) s = .next s ∧ (∀ f : Word, Machine.exec (.getCapabilities tr f) s = .next s) ∧
    (∀ f : Word, Machine.exec (.negotiateAlgorithms tr f) s = .next s) ∧ Machine.exec (.getDigests tr) s = .next s ∧
    (∀ (k : Byte) (a b : Nat), Machine.exec (.getCertificate tr k a b) s = .next s) ∧
    (∀ n : BitVec 256, Machine.exec (.challenge tr n) s = .next s) ∧
    (∀ (k : Byte) (n : BitVec 256), Machine.exec (.getMeasurements tr k n) s = .next s) ∧
    (∀ x : List Byte, Machine.exec (.keyExchange tr x) s = .next s) ∧
    (∀ (n : Nat) (x : List Byte), Machine.exec (.finish tr n x) s = .next s) ∧
    (∀ n : Nat, Machine.exec (.spdmHeartbeat tr n) s = .next s ∧ Machine.exec (.endSession tr n) s = .next s ∧
      Machine.exec (.respondIfReady tr n) s = .next s) ∧
    (∀ (n : Nat) (op : Byte), Machine.exec (.keyUpdate tr n op) s = .next s) ∧
    (∀ (n : Nat) (last : Bool) (x : List Byte), Machine.exec (.chunkSend tr n last x) s = .next s) ∧
    ∀ a b : Nat, Machine.exec (.chunkGet tr a b) s = .next s)

/-! ## Registers and the aperture (R8, R9, R261 to R268, R399 to R418) -/

/-- A register write: a reserved offset ignores it; at a register, one whose byte enables are not all set is dropped and counted
with its offset; a read-only one ignores it; a set-up register that is pegged, or a value out of its range, drops and counts it; a
good one is kept. The counter-clear, nudge, peg and ledger writes are the same write at their offsets (R8, R9, R399, R400).
Writes with an effect of their own: the nudge while the rings are read; the peg in IDLE, which then waits for its check, and
dropped elsewhere; the clear of the drop counters; the job-ring base that is kept while set-up is open (R264, R268, R401, R403). -/
def Obligations.RegisterWritesFollowTheirAccess : Prop :=
  (∀ (s : Machine.State) (off : BitVec 25) (v : Word) (en : BitVec 4),
    let p := placeOfOffset off.toNat
    let dropped : Machine.State := { s with kp := { s.kp with
      droppedWrites := BitVec.ofNat 32 (min (s.kp.droppedWrites.toNat + 1) 0xFFFFFFFF),
      droppedLast := BitVec.ofNat 32 off.toNat } }
    (accessOf p = none → Machine.exec (.registerWrite off v en) s = .next s) ∧
    (accessOf p ≠ none → en ≠ 0xF → Machine.exec (.registerWrite off v en) s = .next dropped) ∧
    (accessOf p = some .ro → Machine.exec (.registerWrite off v 0xF) s = .next s) ∧
    (accessOf p = some .rwp → s.kp.peg = true ∨ s.kp.pegPending = true ∨ rangeGood p v = false →
      Machine.exec (.registerWrite off v 0xF) s = .next dropped) ∧
    (accessOf p = some .rwp → s.kp.peg = false → s.kp.pegPending = false → rangeGood p v = true →
      Machine.exec (.registerWrite off v 0xF) s = .next (s.setRwp p v)) ∧
    Machine.exec (.counterClear off v en) s = Machine.exec (.registerWrite off v en) s ∧
    Machine.exec (.kpNudgeWrite v en) s = Machine.exec (.registerWrite 0x02C v en) s ∧
    Machine.exec (.kpPegWrite v en) s = Machine.exec (.registerWrite 0x024 v en) s) ∧
  (∀ (s : Machine.State) (v : Word),
    (s.polls = true → Machine.exec (.kpNudgeWrite v 0xF) s = .next { s with host := { s.host with nudged := true } }) ∧
    (s.polls = false → Machine.exec (.kpNudgeWrite v 0xF) s = .next s) ∧
    (v.getLsbD 0 = true → s.kp.state = .idle →
      Machine.exec (.kpPegWrite v 0xF) s = .next { s with kp := { s.kp with pegPending := true } }) ∧
    (v.getLsbD 0 = true → s.kp.state ≠ .idle → Machine.exec (.kpPegWrite v 0xF) s = .next (s.dropWrite 0x024)) ∧
    (v.getLsbD 0 = false → Machine.exec (.kpPegWrite v 0xF) s = .next s) ∧
    (v.getLsbD 0 = true → Machine.exec (.counterClear 0x040 v 0xF) s =
      .next { s with kp := { s.kp with droppedWrites := 0, droppedLast := 0 } }) ∧
    (s.kp.pegPending = true → (s.setupFault = none →
        Machine.exec .pegCheck s = .next { s with kp := { s.kp with peg := true, pegPending := false, setupError := 0 } }) ∧
      (∀ o : Nat, s.setupFault = some o → o < 2 ^ 25 →
        ∃ t : Machine.State, Machine.exec .pegCheck s = .next t ∧ t.kp.peg = s.kp.peg ∧ t.kp.pegPending = false ∧
          t.kp.setupError.getLsbD 31 = true ∧ t.kp.setupError.toNat % 2 ^ 25 = o)) ∧
    (s.kp.pegPending = false → Machine.exec .pegCheck s = .next s))

/-- Registers whose read changes something: a ledger read answers the entry at the index, reset values in BOOT and ACORN, and
advances it where AUTO_INC is set; the last word of a scribe slot advances the slot where it is set to; a low word latches its
high word (R409, R410, R415, R418).
A whole write to RING_LEDGER_DATA: in an idle state an allowed entry is put, and its word is read back; in RUNNING it is
counted and the ledger stays; the index advances where AUTO_INC is set (R43, R409). -/
def Obligations.LedgerAndLatchingRegisters : Prop :=
  (∀ s : Machine.State,
    (∀ die : DieId, ∃ t : Machine.State, Machine.exec (.ringLedgerDataRead die) s = .next t ∧
      t.io.bar0 = (if s.kp.state = .boot ∨ s.kp.state = .acorn then 0x7F else (s.die die).ledgerAt (s.die die).ledgerEntry) ∧
      (t.die die).ledger = (s.die die).ledger ∧
      (t.die die).ledgerEntry = (if (s.die die).ledgerIndex.getLsbD 16 then ((s.die die).ledgerEntry + 1) % 16384
        else (s.die die).ledgerEntry)) ∧
    (∀ w : Fin 16, ∃ t : Machine.State, Machine.exec (.scribeSlotDataRead w) s = .next t ∧ t.io.bar0 = s.slotWord w.val ∧
      t.scribe.slots = s.scribe.slots ∧
      (w.val = 15 → s.scribe.slotReg.getLsbD 31 = true → t.scribe.slotIndex = (s.scribe.slotIndex + 1) % 1048576) ∧
      (w.val ≠ 15 ∨ s.scribe.slotReg.getLsbD 31 = false → t.scribe = s.scribe)) ∧
    (∃ t : Machine.State, Machine.exec (.latchingLoRead .clkNow) s = .next t ∧
      t.clk.nowHi ++ t.io.bar0 = s.clk.boardTime ∧ t.clk.boardTime = s.clk.boardTime) ∧
    (∀ (d : DieId) (k : Fin 17), ∃ t : Machine.State, Machine.exec (.latchingLoRead (.cycles d k)) s = .next t ∧
      ((t.die d).domains[k]).cyclesHi ++ t.io.bar0 = ((s.die d).domains[k]).cycles ∧
      ((t.die d).domains[k]).tallyHeld = ((s.die d).domains[k]).tally ∧
      ((t.die d).domains[k]).cycles = ((s.die d).domains[k]).cycles)) ∧
  (∀ (s : Machine.State) (die : DieId) (v : Word),
    (s.isIdleKind = true → s.ledgerRefused die v = false →
      Machine.exec (.ringLedgerDataWrite die v 0xF) s = .next ((s.modDie die fun r => r.putLedger v).modDie die RingDie.stepLedger)) ∧
    (s.isIdleKind = true → s.ledgerRefused die v = true →
      ∃ t : Machine.State, Machine.exec (.ringLedgerDataWrite die v 0xF) s = .next t ∧
        (t.die die).ledger = (s.die die).ledger ∧ t.kp.droppedLast = BitVec.ofNat 32 (ledgerOffset die)) ∧
    (s.kp.state = .running →
      ∃ t : Machine.State, Machine.exec (.ringLedgerDataWrite die v 0xF) s = .next t ∧
        (t.die die).ledger = (s.die die).ledger ∧
        Sparse.get (0 : Word) (t.die die).counters 0x05 = satAdd (Sparse.get (0 : Word) (s.die die).counters 0x05) 1) ∧
    (∀ en : BitVec 4, en ≠ 0xF →
      Machine.exec (.ringLedgerDataWrite die v en) s = .next (s.dropWrite (ledgerOffset die))))

/-- The aperture: what is written to the payload scratch is read back through it, and no other byte of the scratch changes; a
write that leaves module memory, or meets a protected area of an armed job, is dropped and counted once; a read outside module
memory answers all-ones; EVT_CONSUMED frees entries (R153, R262, R263, R277, R283). -/
def Obligations.TheApertureReachesItsAreas : Prop :=
  ∀ s : Machine.State,
    (∀ (x : BitVec 36) (data : List Byte), 0x300000 ≤ x.toNat → x.toNat + data.length ≤ 0x400000 → data ≠ [] →
      ∃ t : Machine.State, Machine.exec (.apertureWrite x data) s = .next t ∧
        (∀ k : Nat, k < data.length → t.mgmt.scratch.get (x.toNat - 0x300000 + k) = data.getD k 0) ∧
        (∀ a : Nat, a < x.toNat - 0x300000 ∨ x.toNat - 0x300000 + data.length ≤ a → t.mgmt.scratch.get a = s.mgmt.scratch.get a) ∧
        t.sills = s.sills ∧ t.dies = s.dies) ∧
    (∀ (x : BitVec 36) (n : Nat), 0x300000 ≤ x.toNat → x.toNat + n ≤ 0x400000 → 0 < n →
      Machine.exec (.apertureRead x n []) s = .next { s with io := { s.io with
        bar2 := s.mgmt.scratch.read (x.toNat - 0x300000) n } }) ∧
    (∀ (x : BitVec 36) (data : List Byte), 0x400000 ≤ x.toNat →
      s.memoryOn = false ∨ s.inMemory (s.apertureAddr x.toNat) data.length = false ∨
        (s.jobArmed = true ∧ s.meetsProtected (s.apertureAddr x.toNat) data.length = true) →
      Machine.exec (.apertureWrite x data) s =
        .next { s with host := { s.host with drops := BitVec.ofNat 32 (min (s.host.drops.toNat + 1) 0xFFFFFFFF) } }) ∧
    (∀ (x : BitVec 36) (n : Nat) (found : List SectorEvent), 0x400000 ≤ x.toNat →
      s.memoryOn = false ∨ s.inMemory (s.apertureAddr x.toNat) n = false →
      Machine.exec (.apertureRead x n found) s = .next { s with io := { s.io with bar2 := List.replicate n 0xFF } }) ∧
    (∀ v : Word, s.mgmt.waiting = [] →
      Machine.exec (.evtConsumedWrite v) s = .next { s with mgmt := { s.mgmt with evtConsumed := v } }) ∧
    (∀ (v : Word) (e : Event), s.mgmt.waiting = [e] → (s.mgmt.evtProduced - v).toNat < 4096 → s.fw.restarting[2] = false →
      s.fw.dead = false →
      ∃ t : Machine.State, Machine.exec (.evtConsumedWrite v) s = .next t ∧ t.mgmt.waiting = [] ∧
        t.mgmt.events.getLast? = some e ∧ t.mgmt.evtProduced = s.mgmt.evtProduced + 1 ∧ t.mgmt.evtConsumed = v)

/-! ## Number formats and update arithmetic (R27, R30 to R34, R168, R169, R172, R227) -/

/-- An element under a scale byte below 0xFF is its own value times 2^(X - 127), and under 0xFF every element is NaN, whatever its
bits (R27). Every conversion keeps the sign of zero and the sign of a value that rounds to zero, and -0 decodes as -0 (R34). The 16
codes of A4, and the values of A8 and G8 by their fields, are those of R30 to R32. -/
def Obligations.BlocksAndSignsFollowTheFormats : Prop :=
  (∀ (k : BlockFmt) (x code : Nat),
    (x ≤ 0xFE → ∀ (neg : Bool) (m : Nat) (e : Int), k.element code = .fin neg m e →
      k.decode x code = .fin neg m (e + ((x : Int) - 127))) ∧
    (x ≤ 0xFE → ∀ neg : Bool, k.element code = .inf neg → k.decode x code = .inf neg) ∧
    (x ≤ 0xFE → k.element code = .nan → k.decode x code = .nan) ∧
    k.decode 0xFF code = .nan) ∧
  (∀ (neg : Bool) (m : Nat) (e : Int),
    (∀ f : Nat, f = 7 ∨ f = 23 ∨ f = 31 →
      (decFloat f (encFloat f (.fin neg m e))).isNeg = neg ∧
      (m = 0 → (decFloat f (encFloat f (.fin neg m e))).isZero = true)) ∧
    ∀ (k : BlockFmt) (x : Nat),
      (k.element (k.codeOf x (.fin neg m e))).isNeg = neg ∧
      (m = 0 → (k.element (k.codeOf x (.fin neg m e))).isZero = true)) ∧
  (∀ f : Nat, f = 7 ∨ f = 23 ∨ f = 31 → (decFloat f (2 ^ (f + 8))).isZero = true ∧ (decFloat f (2 ^ (f + 8))).isNeg = true) ∧
  (∀ k : BlockFmt, (k.element k.signBit).isZero = true ∧ (k.element k.signBit).isNeg = true) ∧
  (∀ (neg : Bool) (c : Nat), c < 8 → BlockFmt.a4.element ((if neg then 8 else 0) + c) =
    .fin neg ([0, 1, 2, 3, 2, 3, 2, 3].getD c 0) ([-1, -1, -1, -1, 0, 0, 1, 1].getD c 0)) ∧
  (∀ (neg : Bool) (ex frac : Nat), ex ≤ 15 → frac ≤ 7 →
    BlockFmt.a8.element ((if neg then 128 else 0) + 8 * ex + frac) =
      if ex = 15 ∧ frac = 7 then .nan else if ex = 0 then .fin neg frac (-9) else .fin neg (8 + frac) ((ex : Int) - 10)) ∧
  (∀ (neg : Bool) (ex frac : Nat), ex ≤ 31 → frac ≤ 3 →
    BlockFmt.g8.element ((if neg then 128 else 0) + 4 * ex + frac) =
      if ex = 31 then (if frac = 0 then .inf neg else .nan)
      else if ex = 0 then .fin neg frac (-16) else .fin neg (4 + frac) ((ex : Int) - 17))

/-- PLAIN and SIGNED compute one element in the order their text gives, each operator rounded once in F32 and the master weight
rounded once to W40 (R168, R169); a vote result is the majority of the sign bits, where the sign bit of c decides each vote and
a tie needs an even number of members (R227). -/
def Obligations.RulesAndVotesFollowTheirText : Prop :=
  (∀ (p : RuleParams) (m v g : Dyad) (w : W40),
    let m' := fAdd (fMul p.beta1 m) g
    let d := fMul p.eta (fAdd m' (fMul p.lambda (rndF32 (decW40 w))))
    plainRule p m v g w = ⟨m', v, encW40 ((decW40 w).sub d)⟩) ∧
  (∀ (p : RuleParams) (m v g : Dyad) (w : W40),
    let c := fAdd (fMul p.beta1 m) (fMul (fSub .one p.beta1) g)
    let m' := fAdd (fMul p.beta2 m) (fMul (fSub .one p.beta2) g)
    let sg := if Dyad.zero.lt c then Dyad.one else if c.lt Dyad.zero then Dyad.one.negate else Dyad.zero
    let d := fMul p.eta (fAdd sg (fMul p.lambda (rndF32 (decW40 w))))
    signedRule p m v g w = ⟨m', v, encW40 ((decW40 w).sub d)⟩) ∧
  (∀ n q : Nat, (2 * q < n → voteCode n q = 1) ∧ (n < 2 * q → voteCode n q = 3) ∧
    (2 * q = n → voteCode n q = 0 ∧ n % 2 = 0)) ∧
  (∀ (cs : List Dyad) (j : Nat), (signWord cs).testBit j = (cs.getD j .zero).isNeg) ∧
  (∀ (l : List Nat) (words : List Byte) (j : Nat), j < l.length →
    (addSigns l words).getD j 0 = l.getD j 0 + (if (words.getD (j / 8) 0).getLsbD (j % 8) then 1 else 0))

/-! ## The machine as a whole -/

/-- A step runs the command at the front of the queue with the queue's rest, and idles on an empty queue (log entry 14: the model's
choice, for a block has no clock of its own here). -/
def Obligations.StepRunsTheFrontCommand : Prop :=
  ∀ s : Machine.State,
    (∀ (c : Instr) (rest : List Instr), s.pending = c :: rest →
      Machine.step s = Machine.exec c { s with pending := rest }) ∧
    (s.pending = [] → Machine.step s = .next s)

/-- After reset the registers read the values that the register maps give, the invariant of the model holds, and the queue is empty
(R43, R149, R211, R212, R264, R323, R340, R355, R380, R398, R401, R407). -/
def Obligations.ResetLeavesTheSpecifiedValues : Prop :=
  let s := Machine.State.reset
  (∀ x ∈ [(0x0000020, 0), (0x0000024, 0), (0x0000028, 0), (0x0000030, 0), (0x0000034, 0), (0x0000038, 0), (0x000003C, 0),
      (0x0000040, 0), (0x0000044, 0), (0x0100000, 0), (0x0100004, 0), (0x0100008, 0), (0x010000C, 0), (0x0100010, 0),
      (0x0100014, 0), (0x0100018, 0), (0x0100110, 0), (0x0100114, 0), (0x0100118, 0), (0x0200000, 0), (0x0200004, 0),
      (0x0200008, 0x4848), (0x020000C, 0), (0x0200010, 0), (0x0200014, 0), (0x0200018, 0), (0x020001C, 0), (0x0200020, 0),
      (0x0200024, 0), (0x0200028, 0), (0x020002C, 0), (0x0300000, 0xB4), (0x0300004, 0), (0x0300008, 0x32), (0x030000C, 0),
      (0x0300010, 0xB4), (0x0300014, 0), (0x0300018, 0), (0x030001C, 0), (0x0300020, 0), (0x0300024, 0), (0x0300028, 0),
      (0x030002C, 0), (0x0300030, 0), (0x0F00000, 0x10), (0x0F00004, 0x003C01F4), (0x0F00008, 1), (0x1000000, 1)],
    s.readReg x.1 = BitVec.ofNat 32 x.2) ∧
  (∀ d : DieId, ∀ x ∈ [(0x0000C, 0), (0x00010, 0x0369645F), (0x00014, 0x32), (0x00018, 0), (0x0001C, 0), (0x00100, 0),
      (0x00104, 0x7F), (0x10000, 0)],
    s.readReg (0x0400000 + 0x40000 * d.val + x.1) = BitVec.ofNat 32 x.2) ∧
  (∀ k : LinkId, ∀ x ∈ [(0x0, 0x00031481), (0x4, 0x18002000), (0x8, 0x03FC0404)],
    s.readReg (0x0C00000 + 0x10000 * k.val + x.1) = BitVec.ofNat 32 x.2) ∧
  Good s ∧ s.pending = []

/-- Every step keeps the invariant of the model: every byte memory of the module in canonical form, and a debug level other than the
reserved one (R398). -/
def Obligations.EveryStepKeepsTheInvariant : Prop :=
  ∀ s t : Machine.State, Good s → Machine.step s = .next t → Good t

/-- What is fused stays fused: no step lowers the minimum security version and none restores a revoked root key (R393, R398); and a
command leaves the queue alone. -/
def Obligations.NoStepLowersTheSecurityFloor : Prop :=
  ∀ s t : Machine.State,
    (Machine.step s = .next t → s.sec.svnMin ≤ t.sec.svnMin ∧ t.sec.revoked = s.sec.revoked) ∧
    ∀ c : Instr, Machine.exec c s = .next t → t.pending = s.pending
end

