-- ==== Sys2Proof/Laws/Memory.lean ====
section
/-! SUPPORT. The laws of the sparse memories: a read after a write gives what was written, a write leaves every other place alone,
and every operation keeps the canonical form. -/

namespace Sys2Proof.Machine

variable {α : Type}

/-! ## One entry -/

theorem Sparse.get_put_self (d : α) (m : Sparse α) (a : Nat) (v : α) (h : ∀ x ∈ m, x.1 ≠ a) :
    Sparse.get d (Sparse.put a v m) a = v := by
  induction m with
  | nil => simp [Sparse.put, Sparse.get]
  | cons x rest ih =>
    obtain ⟨b, w⟩ := x
    have hb : b ≠ a := h (b, w) (by simp)
    by_cases hlt : a < b
    · simp [Sparse.put, Sparse.get, hlt]
    · simp only [Sparse.put, hlt, if_false, Sparse.get, hb]
      exact ih fun x hx => h x (by simp [hx])

theorem Sparse.get_put_ne (d : α) (m : Sparse α) (a b : Nat) (v : α) (h : a ≠ b) :
    Sparse.get d (Sparse.put a v m) b = Sparse.get d m b := by
  induction m with
  | nil => simp [Sparse.put, Sparse.get, h]
  | cons x rest ih =>
    obtain ⟨c, w⟩ := x
    by_cases hlt : a < c
    · simp [Sparse.put, Sparse.get, hlt, h]
    · simp only [Sparse.put, hlt, if_false, Sparse.get, ih]

theorem Sparse.get_filter_self (d : α) (m : Sparse α) (a : Nat) : Sparse.get d (m.filter fun x => x.1 ≠ a) a = d := by
  induction m with
  | nil => rfl
  | cons x rest ih =>
    obtain ⟨b, w⟩ := x
    by_cases hb : b = a
    · simpa [hb] using ih
    · rw [List.filter_cons_of_pos (by simp [hb])]
      simpa [Sparse.get, hb] using ih

theorem Sparse.get_filter_ne (d : α) (m : Sparse α) (a b : Nat) (h : a ≠ b) :
    Sparse.get d (m.filter fun x => x.1 ≠ a) b = Sparse.get d m b := by
  induction m with
  | nil => rfl
  | cons x rest ih =>
    obtain ⟨c, w⟩ := x
    by_cases hc : c = a
    · have : c ≠ b := fun e => h (hc ▸ e)
      rw [List.filter_cons_of_neg (by simp [hc])]
      simpa [Sparse.get, this] using ih
    · rw [List.filter_cons_of_pos (by simp [hc])]
      simp only [Sparse.get, ih]

/-- A read after a write to the same place gives the value written. -/
@[simp] theorem Sparse.get_set_self [DecidableEq α] (d : α) (m : Sparse α) (a : Nat) (v : α) :
    Sparse.get d (Sparse.set d m a v) a = v := by
  by_cases hv : v = d
  · simpa [Sparse.set, hv] using Sparse.get_filter_self d m a
  · simp only [Sparse.set, hv, if_false]
    exact Sparse.get_put_self d _ a v fun x hx => by simpa using (List.mem_filter.mp hx).2

/-- A write leaves every other place alone. -/
theorem Sparse.get_set_ne [DecidableEq α] (d : α) (m : Sparse α) (a b : Nat) (v : α) (h : a ≠ b) :
    Sparse.get d (Sparse.set d m a v) b = Sparse.get d m b := by
  by_cases hv : v = d
  · simpa [Sparse.set, hv] using Sparse.get_filter_ne d m a b h
  · simp only [Sparse.set, hv, if_false]
    rw [Sparse.get_put_ne d _ a b v h, Sparse.get_filter_ne d m a b h]

theorem Sparse.get_set [DecidableEq α] (d : α) (m : Sparse α) (a b : Nat) (v : α) :
    Sparse.get d (Sparse.set d m a v) b = if a = b then v else Sparse.get d m b := by
  by_cases h : a = b
  · subst h; simp
  · simp [h, Sparse.get_set_ne d m a b v h]

/-! ## The canonical form -/

theorem Sparse.wfFrom_mono [DecidableEq α] (d : α) (m : Sparse α) (lo lo' : Nat) (h : lo' ≤ lo)
    (hm : Sparse.wfFrom d lo m = true) : Sparse.wfFrom d lo' m = true := by
  cases m with
  | nil => rfl
  | cons x rest =>
    obtain ⟨b, v⟩ := x
    simp only [Sparse.wfFrom, Bool.and_eq_true, decide_eq_true_eq] at hm ⊢
    exact ⟨⟨le_trans h hm.1.1, hm.1.2⟩, hm.2⟩

theorem Sparse.wfFrom_filter [DecidableEq α] (d : α) (m : Sparse α) (lo : Nat) (p : Nat × α → Bool)
    (hm : Sparse.wfFrom d lo m = true) : Sparse.wfFrom d lo (m.filter p) = true := by
  induction m generalizing lo with
  | nil => rfl
  | cons x rest ih =>
    obtain ⟨b, v⟩ := x
    simp only [Sparse.wfFrom, Bool.and_eq_true, decide_eq_true_eq] at hm
    have h1 := ih (b + 1) hm.2
    by_cases hp : p (b, v) = true
    · rw [List.filter_cons_of_pos hp]
      simp only [Sparse.wfFrom, Bool.and_eq_true, decide_eq_true_eq]
      exact ⟨hm.1, h1⟩
    · rw [List.filter_cons_of_neg hp]
      exact Sparse.wfFrom_mono d _ (b + 1) lo (by omega) h1

theorem Sparse.wfFrom_put [DecidableEq α] (d : α) (m : Sparse α) (lo a : Nat) (v : α) (hlo : lo ≤ a) (hv : v ≠ d)
    (hn : ∀ x ∈ m, x.1 ≠ a) (hm : Sparse.wfFrom d lo m = true) : Sparse.wfFrom d lo (Sparse.put a v m) = true := by
  induction m generalizing lo with
  | nil => simp [Sparse.put, Sparse.wfFrom, hlo, hv]
  | cons x rest ih =>
    obtain ⟨b, w⟩ := x
    have hb : b ≠ a := hn (b, w) (by simp)
    simp only [Sparse.wfFrom, Bool.and_eq_true, decide_eq_true_eq] at hm
    by_cases hlt : a < b
    · simp only [Sparse.put, hlt, if_true, Sparse.wfFrom, Bool.and_eq_true, decide_eq_true_eq]
      exact ⟨⟨hlo, hv⟩, ⟨by omega, hm.1.2⟩, hm.2⟩
    · simp only [Sparse.put, hlt, if_false, Sparse.wfFrom, Bool.and_eq_true, decide_eq_true_eq]
      exact ⟨hm.1, ih (b + 1) (by omega) (fun x hx => hn x (by simp [hx])) hm.2⟩

/-- A write keeps the canonical form. -/
theorem Sparse.wfFrom_set [DecidableEq α] (d : α) (m : Sparse α) (a : Nat) (v : α) (hm : Sparse.wfFrom d 0 m = true) :
    Sparse.wfFrom d 0 (Sparse.set d m a v) = true := by
  have hf := Sparse.wfFrom_filter d m 0 (fun x => x.1 ≠ a) hm
  by_cases hv : v = d
  · simpa [Sparse.set, hv] using hf
  · simp only [Sparse.set, hv, if_false]
    exact Sparse.wfFrom_put d _ 0 a v (Nat.zero_le a) hv (fun x hx => by simpa using (List.mem_filter.mp hx).2) hf

/-! ## A range of entries -/

theorem Sparse.get_filter (d : α) (m : Sparse α) (p : Nat → Bool) (k : Nat) :
    Sparse.get d (m.filter fun x => p x.1) k = if p k = true then Sparse.get d m k else d := by
  induction m with
  | nil => simp [Sparse.get]
  | cons x rest ih =>
    obtain ⟨b, v⟩ := x
    by_cases hp : p b = true
    · rw [List.filter_cons_of_pos (by simpa using hp)]
      by_cases hb : b = k
      · subst hb
        simp [Sparse.get, hp]
      · simpa [Sparse.get, hb] using ih
    · rw [List.filter_cons_of_neg (by simpa using hp), ih]
      by_cases hb : b = k
      · subst hb
        simp [hp]
      · simp [Sparse.get, hb]

theorem Sparse.get_append_right (d : α) (m n : Sparse α) (k : Nat) (h : ∀ x ∈ m, x.1 ≠ k) :
    Sparse.get d (m ++ n) k = Sparse.get d n k := by
  induction m with
  | nil => rfl
  | cons x rest ih =>
    obtain ⟨b, v⟩ := x
    have hb : b ≠ k := h (b, v) (by simp)
    simpa [Sparse.get, hb] using ih fun x hx => h x (by simp [hx])

theorem Sparse.get_append_left (d : α) (m n : Sparse α) (k : Nat) (h : ∀ x ∈ n, x.1 ≠ k) :
    Sparse.get d (m ++ n) k = Sparse.get d m k := by
  induction m with
  | nil =>
    have := Sparse.get_append_right d n [] k h
    simpa [Sparse.get] using this
  | cons x rest ih =>
    obtain ⟨b, v⟩ := x
    simp only [List.cons_append, Sparse.get, ih]

theorem Sparse.mem_entries [DecidableEq α] (d : α) (base : Nat) (vals : List α) (x : Nat × α)
    (h : x ∈ Sparse.entries d base vals) : base ≤ x.1 ∧ x.1 < base + vals.length := by
  simp only [Sparse.entries, List.mem_filterMap, Prod.exists] at h
  obtain ⟨v, i, hm, he⟩ := h
  have hi := List.snd_lt_of_mem_zipIdx hm
  split at he
  · cases he
  · cases he
    simp only
    omega

theorem Sparse.entries_cons [DecidableEq α] (d : α) (base : Nat) (v : α) (vals : List α) :
    Sparse.entries d base (v :: vals) =
      if v = d then Sparse.entries d (base + 1) vals else (base, v) :: Sparse.entries d (base + 1) vals := by
  have key : (vals.zipIdx 1).filterMap (fun v => if v.1 = d then none else some (base + v.2, v.1)) =
      vals.zipIdx.filterMap (fun v => if v.1 = d then none else some (base + 1 + v.2, v.1)) := by
    rw [List.zipIdx_succ, List.filterMap_map]
    congr 1
    funext x
    simp [Nat.add_assoc, Nat.add_comm 1]
  simp only [Sparse.entries, List.zipIdx_cons, Nat.zero_add, List.filterMap_cons, key]
  by_cases h : v = d <;> simp [h]

theorem Sparse.get_entries [DecidableEq α] (d : α) (base : Nat) (vals : List α) (k : Nat) :
    Sparse.get d (Sparse.entries d base vals) k =
      if base ≤ k ∧ k < base + vals.length then vals.getD (k - base) d else d := by
  induction vals generalizing base with
  | nil => simp [Sparse.entries, Sparse.get]
  | cons v rest ih =>
    have hcons : Sparse.get d (Sparse.entries d base (v :: rest)) k =
        if base = k then v else Sparse.get d (Sparse.entries d (base + 1) rest) k := by
      rw [Sparse.entries_cons]
      by_cases hv : v = d
      · by_cases hb : base = k
        · subst hb
          simp [hv, ih]
        · simp [hv, hb]
      · simp [hv, Sparse.get]
    rw [hcons, ih]
    by_cases hb : base = k
    · subst hb
      simp
    · by_cases hr : base + 1 ≤ k ∧ k < base + 1 + rest.length
      · have h2 : base ≤ k ∧ k < base + (v :: rest).length := by simp only [List.length_cons]; omega
        have h3 : k - base = (k - (base + 1)) + 1 := by omega
        rw [if_neg hb, if_pos hr, if_pos h2, h3, List.getD_cons_succ]
      · have h2 : ¬(base ≤ k ∧ k < base + (v :: rest).length) := by simp only [List.length_cons]; omega
        rw [if_neg hb, if_neg hr, if_neg h2]

/-- A range written reads back, and every other entry stays. -/
theorem Sparse.get_setRange [DecidableEq α] (d : α) (m : Sparse α) (base : Nat) (vals : List α) (k : Nat) :
    Sparse.get d (Sparse.setRange d m base vals) k =
      if base ≤ k ∧ k < base + vals.length then vals.getD (k - base) d else Sparse.get d m k := by
  have h1 := Sparse.get_filter d m (fun i => decide (i < base)) k
  have h2 := Sparse.get_filter d m (fun i => decide (base + vals.length ≤ i)) k
  by_cases ha : k < base
  · have hn : ¬(base ≤ k ∧ k < base + vals.length) := by omega
    rw [Sparse.setRange, List.append_assoc, Sparse.get_append_left, h1]
    · simp [ha, hn]
    · intro x hx
      rcases List.mem_append.mp hx with h | h
      · have := Sparse.mem_entries d base vals x h
        omega
      · have := of_decide_eq_true (List.mem_filter.mp h).2
        omega
  · rw [Sparse.setRange, List.append_assoc, Sparse.get_append_right]
    · by_cases hb : k < base + vals.length
      · rw [Sparse.get_append_left, Sparse.get_entries]
        · have h3 : base ≤ k ∧ k < base + vals.length := by omega
          simp [h3]
        · intro x hx
          have := of_decide_eq_true (List.mem_filter.mp hx).2
          omega
      · have h3 : ¬(base ≤ k ∧ k < base + vals.length) := by omega
        rw [Sparse.get_append_right, h2]
        · have h4 : base + vals.length ≤ k := by omega
          simp [h3, h4]
        · intro x hx
          have := Sparse.mem_entries d base vals x hx
          omega
    · intro x hx
      have := of_decide_eq_true (List.mem_filter.mp hx).2
      omega

theorem Sparse.wfFrom_append [DecidableEq α] (d : α) (m n : Sparse α) (lo mid : Nat) (hm : Sparse.wfFrom d lo m = true)
    (hlt : ∀ x ∈ m, x.1 < mid) (hle : lo ≤ mid) (hn : Sparse.wfFrom d mid n = true) : Sparse.wfFrom d lo (m ++ n) = true := by
  induction m generalizing lo with
  | nil => exact Sparse.wfFrom_mono d n mid lo hle hn
  | cons x rest ih =>
    obtain ⟨b, v⟩ := x
    have hb : b < mid := hlt (b, v) (by simp)
    simp only [Sparse.wfFrom, Bool.and_eq_true, List.cons_append] at hm ⊢
    exact ⟨hm.1, ih (b + 1) hm.2 (fun x hx => hlt x (by simp [hx])) hb⟩

theorem Sparse.wfFrom_entries [DecidableEq α] (d : α) (base : Nat) (vals : List α) :
    Sparse.wfFrom d base (Sparse.entries d base vals) = true := by
  induction vals generalizing base with
  | nil => rfl
  | cons v rest ih =>
    rw [Sparse.entries_cons]
    by_cases hv : v = d
    · simpa [hv] using Sparse.wfFrom_mono d _ (base + 1) base (Nat.le_succ base) (ih (base + 1))
    · simp [hv, Sparse.wfFrom, ih]

theorem Sparse.wfFrom_filter_ge [DecidableEq α] (d : α) (m : Sparse α) (lo b : Nat) (hm : Sparse.wfFrom d lo m = true) :
    Sparse.wfFrom d b (m.filter fun x => decide (b ≤ x.1)) = true := by
  induction m generalizing lo with
  | nil => rfl
  | cons x rest ih =>
    obtain ⟨c, v⟩ := x
    simp only [Sparse.wfFrom, Bool.and_eq_true, decide_eq_true_eq] at hm
    by_cases hc : b ≤ c
    · rw [List.filter_cons_of_pos (by simpa using hc)]
      simp only [Sparse.wfFrom, Bool.and_eq_true, decide_eq_true_eq]
      exact ⟨⟨hc, hm.1.2⟩, Sparse.wfFrom_filter d rest (c + 1) _ hm.2⟩
    · rw [List.filter_cons_of_neg (by simpa using hc)]
      exact ih (c + 1) hm.2

/-- A range written keeps the canonical form. -/
theorem Sparse.wfFrom_setRange [DecidableEq α] (d : α) (m : Sparse α) (base : Nat) (vals : List α)
    (hm : Sparse.wfFrom d 0 m = true) : Sparse.wfFrom d 0 (Sparse.setRange d m base vals) = true := by
  rw [Sparse.setRange, List.append_assoc]
  refine Sparse.wfFrom_append d _ _ 0 base (Sparse.wfFrom_filter d m 0 _ hm) (fun x hx => ?_) (Nat.zero_le _) ?_
  · exact of_decide_eq_true (List.mem_filter.mp hx).2
  · refine Sparse.wfFrom_append d _ _ base (base + vals.length) (Sparse.wfFrom_entries d base vals) (fun x hx => ?_)
      (Nat.le_add_right _ _) (Sparse.wfFrom_filter_ge d m 0 _ hm)
    exact (Sparse.mem_entries d base vals x hx).2

/-! ## Byte memories -/

@[simp] theorem Memory.get_set_self (m : Memory) (a : Nat) (v : Byte) : (m.set a v).get a = v := Sparse.get_set_self 0 m a v

theorem Memory.get_set_ne (m : Memory) (a b : Nat) (v : Byte) (h : a ≠ b) : (m.set a v).get b = m.get b :=
  Sparse.get_set_ne 0 m a b v h

theorem Memory.wf_set (m : Memory) (a : Nat) (v : Byte) (h : m.wf = true) : (m.set a v).wf = true :=
  Sparse.wfFrom_set 0 m a v h

/-- Bytes written stand at rising addresses, and every other byte stays. -/
theorem Memory.get_write (m : Memory) (a : Nat) (l : List Byte) (k : Nat) :
    (m.write a l).get k = if a ≤ k ∧ k < a + l.length then l.getD (k - a) 0 else m.get k := by
  induction l generalizing m a with
  | nil =>
    have : ¬(a ≤ k ∧ k < a + ([] : List Byte).length) := by simp
    simp only [Memory.write, this, if_false]
  | cons b rest ih =>
    simp only [Memory.write, ih, List.length_cons]
    by_cases hk : k = a
    · subst hk
      simp
    · by_cases h1 : a + 1 ≤ k ∧ k < a + 1 + rest.length
      · have h2 : a ≤ k ∧ k < a + (rest.length + 1) := by omega
        have h3 : k - a = (k - (a + 1)) + 1 := by omega
        simp only [h1, h2, and_self, if_true, h3, List.getD_cons_succ]
      · have h2 : ¬(a ≤ k ∧ k < a + (rest.length + 1)) := by omega
        simp only [h1, h2, if_false]
        exact Memory.get_set_ne m a k b (fun e => hk e.symm)

/-- A write of bytes keeps the canonical form. -/
theorem Memory.wf_write (m : Memory) (a : Nat) (l : List Byte) (h : m.wf = true) : (m.write a l).wf = true := by
  induction l generalizing m a with
  | nil => exact h
  | cons b rest ih => exact ih (m.set a b) (a + 1) (Memory.wf_set m a b h)

@[simp] theorem Memory.read_length (m : Memory) (a n : Nat) : (m.read a n).length = n := by
  induction n generalizing a with
  | zero => rfl
  | succ n ih => simp [Memory.read, ih]

/-- A byte of a read. -/
theorem Memory.read_getD (m : Memory) (a n k : Nat) (h : k < n) : (m.read a n).getD k 0 = m.get (a + k) := by
  induction n generalizing a k with
  | zero => omega
  | succ n ih =>
    cases k with
    | zero => simp [Memory.read]
    | succ k =>
      rw [Memory.read, List.getD_cons_succ, ih (a + 1) k (by omega)]
      congr 1
      omega

/-- What was written reads back. -/
theorem Memory.read_write (m : Memory) (a : Nat) (l : List Byte) : (m.write a l).read a l.length = l := by
  have key : ∀ (l : List Byte) (a : Nat) (m' : Memory), (∀ k < l.length, m'.get (a + k) = l.getD k 0) →
      m'.read a l.length = l := by
    intro l
    induction l with
    | nil => intros; rfl
    | cons b rest ih =>
      intro a m' h
      have h0 := h 0 (by simp)
      simp only [Nat.add_zero, List.getD_cons_zero] at h0
      rw [List.length_cons, Memory.read, h0, ih (a + 1) m' fun k hk => by
        have := h (k + 1) (by simpa using hk)
        rw [List.getD_cons_succ] at this
        rw [← this]
        congr 1
        omega]
  apply key
  intro k hk
  rw [Memory.get_write]
  have h1 : a ≤ a + k ∧ a + k < a + l.length := by omega
  simp [h1]

end Sys2Proof.Machine
end

