-- ==== Sys2Proof/Laws/State.lean ====
section
/-! SUPPORT. What each update of State leaves: one lemma per field per update, true by unfolding, so that no later proof unfolds a
record update; and what a unit reads as after another unit of its bank was changed. -/

namespace Sys2Proof.Machine

/-- The changed element of a vector reads as the function's value. -/
@[simp] theorem updAt_self {α : Type} {n : Nat} (v : Vector α n) (i : Fin n) (f : α → α) : (updAt v i f)[i] = f v[i] := by
  simp [updAt]

/-- Every other element of the vector stays. -/
theorem updAt_ne {α : Type} {n : Nat} (v : Vector α n) (i j : Fin n) (f : α → α) (h : i ≠ j) : (updAt v i f)[j] = v[j] := by
  have h' : i.val ≠ j.val := fun e => h (Fin.ext e)
  simp [updAt, h']

@[simp] theorem State.modDie_pending (s : State) (d : DieId) (f : RingDie → RingDie) : (s.modDie d f).pending = s.pending := rfl
@[simp] theorem State.modDie_kp (s : State) (d : DieId) (f : RingDie → RingDie) : (s.modDie d f).kp = s.kp := rfl
@[simp] theorem State.modDie_host (s : State) (d : DieId) (f : RingDie → RingDie) : (s.modDie d f).host = s.host := rfl
@[simp] theorem State.modDie_mgmt (s : State) (d : DieId) (f : RingDie → RingDie) : (s.modDie d f).mgmt = s.mgmt := rfl
@[simp] theorem State.modDie_io (s : State) (d : DieId) (f : RingDie → RingDie) : (s.modDie d f).io = s.io := rfl
@[simp] theorem State.modDie_clk (s : State) (d : DieId) (f : RingDie → RingDie) : (s.modDie d f).clk = s.clk := rfl
@[simp] theorem State.modDie_pwr (s : State) (d : DieId) (f : RingDie → RingDie) : (s.modDie d f).pwr = s.pwr := rfl
@[simp] theorem State.modDie_pkg (s : State) (d : DieId) (f : RingDie → RingDie) : (s.modDie d f).pkg = s.pkg := rfl
@[simp] theorem State.modDie_sills (s : State) (d : DieId) (f : RingDie → RingDie) : (s.modDie d f).sills = s.sills := rfl
@[simp] theorem State.modDie_links (s : State) (d : DieId) (f : RingDie → RingDie) : (s.modDie d f).links = s.links := rfl
@[simp] theorem State.modDie_edges (s : State) (d : DieId) (f : RingDie → RingDie) : (s.modDie d f).edges = s.edges := rfl
@[simp] theorem State.modDie_loader (s : State) (d : DieId) (f : RingDie → RingDie) : (s.modDie d f).loader = s.loader := rfl
@[simp] theorem State.modDie_coll (s : State) (d : DieId) (f : RingDie → RingDie) : (s.modDie d f).coll = s.coll := rfl
@[simp] theorem State.modDie_job (s : State) (d : DieId) (f : RingDie → RingDie) : (s.modDie d f).job = s.job := rfl
@[simp] theorem State.modDie_scribe (s : State) (d : DieId) (f : RingDie → RingDie) : (s.modDie d f).scribe = s.scribe := rfl
@[simp] theorem State.modDie_cfg (s : State) (d : DieId) (f : RingDie → RingDie) : (s.modDie d f).cfg = s.cfg := rfl
@[simp] theorem State.modDie_sec (s : State) (d : DieId) (f : RingDie → RingDie) : (s.modDie d f).sec = s.sec := rfl
@[simp] theorem State.modDie_fw (s : State) (d : DieId) (f : RingDie → RingDie) : (s.modDie d f).fw = s.fw := rfl
@[simp] theorem State.modDie_free (s : State) (d : DieId) (f : RingDie → RingDie) : (s.modDie d f).free = s.free := rfl

@[simp] theorem State.mapDies_pending (s : State) (f : RingDie → RingDie) : (s.mapDies f).pending = s.pending := rfl
@[simp] theorem State.mapDies_kp (s : State) (f : RingDie → RingDie) : (s.mapDies f).kp = s.kp := rfl
@[simp] theorem State.mapDies_host (s : State) (f : RingDie → RingDie) : (s.mapDies f).host = s.host := rfl
@[simp] theorem State.mapDies_mgmt (s : State) (f : RingDie → RingDie) : (s.mapDies f).mgmt = s.mgmt := rfl
@[simp] theorem State.mapDies_io (s : State) (f : RingDie → RingDie) : (s.mapDies f).io = s.io := rfl
@[simp] theorem State.mapDies_clk (s : State) (f : RingDie → RingDie) : (s.mapDies f).clk = s.clk := rfl
@[simp] theorem State.mapDies_pwr (s : State) (f : RingDie → RingDie) : (s.mapDies f).pwr = s.pwr := rfl
@[simp] theorem State.mapDies_pkg (s : State) (f : RingDie → RingDie) : (s.mapDies f).pkg = s.pkg := rfl
@[simp] theorem State.mapDies_sills (s : State) (f : RingDie → RingDie) : (s.mapDies f).sills = s.sills := rfl
@[simp] theorem State.mapDies_links (s : State) (f : RingDie → RingDie) : (s.mapDies f).links = s.links := rfl
@[simp] theorem State.mapDies_edges (s : State) (f : RingDie → RingDie) : (s.mapDies f).edges = s.edges := rfl
@[simp] theorem State.mapDies_loader (s : State) (f : RingDie → RingDie) : (s.mapDies f).loader = s.loader := rfl
@[simp] theorem State.mapDies_coll (s : State) (f : RingDie → RingDie) : (s.mapDies f).coll = s.coll := rfl
@[simp] theorem State.mapDies_job (s : State) (f : RingDie → RingDie) : (s.mapDies f).job = s.job := rfl
@[simp] theorem State.mapDies_scribe (s : State) (f : RingDie → RingDie) : (s.mapDies f).scribe = s.scribe := rfl
@[simp] theorem State.mapDies_cfg (s : State) (f : RingDie → RingDie) : (s.mapDies f).cfg = s.cfg := rfl
@[simp] theorem State.mapDies_sec (s : State) (f : RingDie → RingDie) : (s.mapDies f).sec = s.sec := rfl
@[simp] theorem State.mapDies_fw (s : State) (f : RingDie → RingDie) : (s.mapDies f).fw = s.fw := rfl
@[simp] theorem State.mapDies_free (s : State) (f : RingDie → RingDie) : (s.mapDies f).free = s.free := rfl

@[simp] theorem State.modBay_pending (s : State) (b : BayId) (f : Bay → Bay) : (s.modBay b f).pending = s.pending := rfl
@[simp] theorem State.modBay_kp (s : State) (b : BayId) (f : Bay → Bay) : (s.modBay b f).kp = s.kp := rfl
@[simp] theorem State.modBay_host (s : State) (b : BayId) (f : Bay → Bay) : (s.modBay b f).host = s.host := rfl
@[simp] theorem State.modBay_mgmt (s : State) (b : BayId) (f : Bay → Bay) : (s.modBay b f).mgmt = s.mgmt := rfl
@[simp] theorem State.modBay_io (s : State) (b : BayId) (f : Bay → Bay) : (s.modBay b f).io = s.io := rfl
@[simp] theorem State.modBay_clk (s : State) (b : BayId) (f : Bay → Bay) : (s.modBay b f).clk = s.clk := rfl
@[simp] theorem State.modBay_pwr (s : State) (b : BayId) (f : Bay → Bay) : (s.modBay b f).pwr = s.pwr := rfl
@[simp] theorem State.modBay_pkg (s : State) (b : BayId) (f : Bay → Bay) : (s.modBay b f).pkg = s.pkg := rfl
@[simp] theorem State.modBay_sills (s : State) (b : BayId) (f : Bay → Bay) : (s.modBay b f).sills = s.sills := rfl
@[simp] theorem State.modBay_links (s : State) (b : BayId) (f : Bay → Bay) : (s.modBay b f).links = s.links := rfl
@[simp] theorem State.modBay_edges (s : State) (b : BayId) (f : Bay → Bay) : (s.modBay b f).edges = s.edges := rfl
@[simp] theorem State.modBay_loader (s : State) (b : BayId) (f : Bay → Bay) : (s.modBay b f).loader = s.loader := rfl
@[simp] theorem State.modBay_coll (s : State) (b : BayId) (f : Bay → Bay) : (s.modBay b f).coll = s.coll := rfl
@[simp] theorem State.modBay_job (s : State) (b : BayId) (f : Bay → Bay) : (s.modBay b f).job = s.job := rfl
@[simp] theorem State.modBay_scribe (s : State) (b : BayId) (f : Bay → Bay) : (s.modBay b f).scribe = s.scribe := rfl
@[simp] theorem State.modBay_cfg (s : State) (b : BayId) (f : Bay → Bay) : (s.modBay b f).cfg = s.cfg := rfl
@[simp] theorem State.modBay_sec (s : State) (b : BayId) (f : Bay → Bay) : (s.modBay b f).sec = s.sec := rfl
@[simp] theorem State.modBay_fw (s : State) (b : BayId) (f : Bay → Bay) : (s.modBay b f).fw = s.fw := rfl
@[simp] theorem State.modBay_free (s : State) (b : BayId) (f : Bay → Bay) : (s.modBay b f).free = s.free := rfl

@[simp] theorem State.mapBays_pending (s : State) (f : Bay → Bay) : (s.mapBays f).pending = s.pending := rfl
@[simp] theorem State.mapBays_kp (s : State) (f : Bay → Bay) : (s.mapBays f).kp = s.kp := rfl
@[simp] theorem State.mapBays_host (s : State) (f : Bay → Bay) : (s.mapBays f).host = s.host := rfl
@[simp] theorem State.mapBays_mgmt (s : State) (f : Bay → Bay) : (s.mapBays f).mgmt = s.mgmt := rfl
@[simp] theorem State.mapBays_io (s : State) (f : Bay → Bay) : (s.mapBays f).io = s.io := rfl
@[simp] theorem State.mapBays_clk (s : State) (f : Bay → Bay) : (s.mapBays f).clk = s.clk := rfl
@[simp] theorem State.mapBays_pwr (s : State) (f : Bay → Bay) : (s.mapBays f).pwr = s.pwr := rfl
@[simp] theorem State.mapBays_pkg (s : State) (f : Bay → Bay) : (s.mapBays f).pkg = s.pkg := rfl
@[simp] theorem State.mapBays_sills (s : State) (f : Bay → Bay) : (s.mapBays f).sills = s.sills := rfl
@[simp] theorem State.mapBays_links (s : State) (f : Bay → Bay) : (s.mapBays f).links = s.links := rfl
@[simp] theorem State.mapBays_edges (s : State) (f : Bay → Bay) : (s.mapBays f).edges = s.edges := rfl
@[simp] theorem State.mapBays_loader (s : State) (f : Bay → Bay) : (s.mapBays f).loader = s.loader := rfl
@[simp] theorem State.mapBays_coll (s : State) (f : Bay → Bay) : (s.mapBays f).coll = s.coll := rfl
@[simp] theorem State.mapBays_job (s : State) (f : Bay → Bay) : (s.mapBays f).job = s.job := rfl
@[simp] theorem State.mapBays_scribe (s : State) (f : Bay → Bay) : (s.mapBays f).scribe = s.scribe := rfl
@[simp] theorem State.mapBays_cfg (s : State) (f : Bay → Bay) : (s.mapBays f).cfg = s.cfg := rfl
@[simp] theorem State.mapBays_sec (s : State) (f : Bay → Bay) : (s.mapBays f).sec = s.sec := rfl
@[simp] theorem State.mapBays_fw (s : State) (f : Bay → Bay) : (s.mapBays f).fw = s.fw := rfl
@[simp] theorem State.mapBays_free (s : State) (f : Bay → Bay) : (s.mapBays f).free = s.free := rfl

@[simp] theorem State.modBent_pending (s : State) (d : DieId) (b : BentIx) (f : Bent → Bent) : (s.modBent d b f).pending = s.pending := rfl
@[simp] theorem State.modBent_kp (s : State) (d : DieId) (b : BentIx) (f : Bent → Bent) : (s.modBent d b f).kp = s.kp := rfl
@[simp] theorem State.modBent_host (s : State) (d : DieId) (b : BentIx) (f : Bent → Bent) : (s.modBent d b f).host = s.host := rfl
@[simp] theorem State.modBent_mgmt (s : State) (d : DieId) (b : BentIx) (f : Bent → Bent) : (s.modBent d b f).mgmt = s.mgmt := rfl
@[simp] theorem State.modBent_io (s : State) (d : DieId) (b : BentIx) (f : Bent → Bent) : (s.modBent d b f).io = s.io := rfl
@[simp] theorem State.modBent_clk (s : State) (d : DieId) (b : BentIx) (f : Bent → Bent) : (s.modBent d b f).clk = s.clk := rfl
@[simp] theorem State.modBent_pwr (s : State) (d : DieId) (b : BentIx) (f : Bent → Bent) : (s.modBent d b f).pwr = s.pwr := rfl
@[simp] theorem State.modBent_pkg (s : State) (d : DieId) (b : BentIx) (f : Bent → Bent) : (s.modBent d b f).pkg = s.pkg := rfl
@[simp] theorem State.modBent_sills (s : State) (d : DieId) (b : BentIx) (f : Bent → Bent) : (s.modBent d b f).sills = s.sills := rfl
@[simp] theorem State.modBent_links (s : State) (d : DieId) (b : BentIx) (f : Bent → Bent) : (s.modBent d b f).links = s.links := rfl
@[simp] theorem State.modBent_edges (s : State) (d : DieId) (b : BentIx) (f : Bent → Bent) : (s.modBent d b f).edges = s.edges := rfl
@[simp] theorem State.modBent_loader (s : State) (d : DieId) (b : BentIx) (f : Bent → Bent) : (s.modBent d b f).loader = s.loader := rfl
@[simp] theorem State.modBent_coll (s : State) (d : DieId) (b : BentIx) (f : Bent → Bent) : (s.modBent d b f).coll = s.coll := rfl
@[simp] theorem State.modBent_job (s : State) (d : DieId) (b : BentIx) (f : Bent → Bent) : (s.modBent d b f).job = s.job := rfl
@[simp] theorem State.modBent_scribe (s : State) (d : DieId) (b : BentIx) (f : Bent → Bent) : (s.modBent d b f).scribe = s.scribe := rfl
@[simp] theorem State.modBent_cfg (s : State) (d : DieId) (b : BentIx) (f : Bent → Bent) : (s.modBent d b f).cfg = s.cfg := rfl
@[simp] theorem State.modBent_sec (s : State) (d : DieId) (b : BentIx) (f : Bent → Bent) : (s.modBent d b f).sec = s.sec := rfl
@[simp] theorem State.modBent_fw (s : State) (d : DieId) (b : BentIx) (f : Bent → Bent) : (s.modBent d b f).fw = s.fw := rfl
@[simp] theorem State.modBent_free (s : State) (d : DieId) (b : BentIx) (f : Bent → Bent) : (s.modBent d b f).free = s.free := rfl

@[simp] theorem State.mapBents_pending (s : State) (f : Bent → Bent) : (s.mapBents f).pending = s.pending := rfl
@[simp] theorem State.mapBents_kp (s : State) (f : Bent → Bent) : (s.mapBents f).kp = s.kp := rfl
@[simp] theorem State.mapBents_host (s : State) (f : Bent → Bent) : (s.mapBents f).host = s.host := rfl
@[simp] theorem State.mapBents_mgmt (s : State) (f : Bent → Bent) : (s.mapBents f).mgmt = s.mgmt := rfl
@[simp] theorem State.mapBents_io (s : State) (f : Bent → Bent) : (s.mapBents f).io = s.io := rfl
@[simp] theorem State.mapBents_clk (s : State) (f : Bent → Bent) : (s.mapBents f).clk = s.clk := rfl
@[simp] theorem State.mapBents_pwr (s : State) (f : Bent → Bent) : (s.mapBents f).pwr = s.pwr := rfl
@[simp] theorem State.mapBents_pkg (s : State) (f : Bent → Bent) : (s.mapBents f).pkg = s.pkg := rfl
@[simp] theorem State.mapBents_sills (s : State) (f : Bent → Bent) : (s.mapBents f).sills = s.sills := rfl
@[simp] theorem State.mapBents_links (s : State) (f : Bent → Bent) : (s.mapBents f).links = s.links := rfl
@[simp] theorem State.mapBents_edges (s : State) (f : Bent → Bent) : (s.mapBents f).edges = s.edges := rfl
@[simp] theorem State.mapBents_loader (s : State) (f : Bent → Bent) : (s.mapBents f).loader = s.loader := rfl
@[simp] theorem State.mapBents_coll (s : State) (f : Bent → Bent) : (s.mapBents f).coll = s.coll := rfl
@[simp] theorem State.mapBents_job (s : State) (f : Bent → Bent) : (s.mapBents f).job = s.job := rfl
@[simp] theorem State.mapBents_scribe (s : State) (f : Bent → Bent) : (s.mapBents f).scribe = s.scribe := rfl
@[simp] theorem State.mapBents_cfg (s : State) (f : Bent → Bent) : (s.mapBents f).cfg = s.cfg := rfl
@[simp] theorem State.mapBents_sec (s : State) (f : Bent → Bent) : (s.mapBents f).sec = s.sec := rfl
@[simp] theorem State.mapBents_fw (s : State) (f : Bent → Bent) : (s.mapBents f).fw = s.fw := rfl
@[simp] theorem State.mapBents_free (s : State) (f : Bent → Bent) : (s.mapBents f).free = s.free := rfl

@[simp] theorem State.modStream_pending (s : State) (b : BayId) (k : SlotIx) (f : Stream → Stream) : (s.modStream b k f).pending = s.pending := rfl
@[simp] theorem State.modStream_kp (s : State) (b : BayId) (k : SlotIx) (f : Stream → Stream) : (s.modStream b k f).kp = s.kp := rfl
@[simp] theorem State.modStream_host (s : State) (b : BayId) (k : SlotIx) (f : Stream → Stream) : (s.modStream b k f).host = s.host := rfl
@[simp] theorem State.modStream_mgmt (s : State) (b : BayId) (k : SlotIx) (f : Stream → Stream) : (s.modStream b k f).mgmt = s.mgmt := rfl
@[simp] theorem State.modStream_io (s : State) (b : BayId) (k : SlotIx) (f : Stream → Stream) : (s.modStream b k f).io = s.io := rfl
@[simp] theorem State.modStream_clk (s : State) (b : BayId) (k : SlotIx) (f : Stream → Stream) : (s.modStream b k f).clk = s.clk := rfl
@[simp] theorem State.modStream_pwr (s : State) (b : BayId) (k : SlotIx) (f : Stream → Stream) : (s.modStream b k f).pwr = s.pwr := rfl
@[simp] theorem State.modStream_pkg (s : State) (b : BayId) (k : SlotIx) (f : Stream → Stream) : (s.modStream b k f).pkg = s.pkg := rfl
@[simp] theorem State.modStream_sills (s : State) (b : BayId) (k : SlotIx) (f : Stream → Stream) : (s.modStream b k f).sills = s.sills := rfl
@[simp] theorem State.modStream_links (s : State) (b : BayId) (k : SlotIx) (f : Stream → Stream) : (s.modStream b k f).links = s.links := rfl
@[simp] theorem State.modStream_edges (s : State) (b : BayId) (k : SlotIx) (f : Stream → Stream) : (s.modStream b k f).edges = s.edges := rfl
@[simp] theorem State.modStream_loader (s : State) (b : BayId) (k : SlotIx) (f : Stream → Stream) : (s.modStream b k f).loader = s.loader := rfl
@[simp] theorem State.modStream_coll (s : State) (b : BayId) (k : SlotIx) (f : Stream → Stream) : (s.modStream b k f).coll = s.coll := rfl
@[simp] theorem State.modStream_job (s : State) (b : BayId) (k : SlotIx) (f : Stream → Stream) : (s.modStream b k f).job = s.job := rfl
@[simp] theorem State.modStream_scribe (s : State) (b : BayId) (k : SlotIx) (f : Stream → Stream) : (s.modStream b k f).scribe = s.scribe := rfl
@[simp] theorem State.modStream_cfg (s : State) (b : BayId) (k : SlotIx) (f : Stream → Stream) : (s.modStream b k f).cfg = s.cfg := rfl
@[simp] theorem State.modStream_sec (s : State) (b : BayId) (k : SlotIx) (f : Stream → Stream) : (s.modStream b k f).sec = s.sec := rfl
@[simp] theorem State.modStream_fw (s : State) (b : BayId) (k : SlotIx) (f : Stream → Stream) : (s.modStream b k f).fw = s.fw := rfl
@[simp] theorem State.modStream_free (s : State) (b : BayId) (k : SlotIx) (f : Stream → Stream) : (s.modStream b k f).free = s.free := rfl

@[simp] theorem State.modRegion_pending (s : State) (b : BayId) (k : SlotIx) (f : KilnRegion → KilnRegion) : (s.modRegion b k f).pending = s.pending := rfl
@[simp] theorem State.modRegion_kp (s : State) (b : BayId) (k : SlotIx) (f : KilnRegion → KilnRegion) : (s.modRegion b k f).kp = s.kp := rfl
@[simp] theorem State.modRegion_host (s : State) (b : BayId) (k : SlotIx) (f : KilnRegion → KilnRegion) : (s.modRegion b k f).host = s.host := rfl
@[simp] theorem State.modRegion_mgmt (s : State) (b : BayId) (k : SlotIx) (f : KilnRegion → KilnRegion) : (s.modRegion b k f).mgmt = s.mgmt := rfl
@[simp] theorem State.modRegion_io (s : State) (b : BayId) (k : SlotIx) (f : KilnRegion → KilnRegion) : (s.modRegion b k f).io = s.io := rfl
@[simp] theorem State.modRegion_clk (s : State) (b : BayId) (k : SlotIx) (f : KilnRegion → KilnRegion) : (s.modRegion b k f).clk = s.clk := rfl
@[simp] theorem State.modRegion_pwr (s : State) (b : BayId) (k : SlotIx) (f : KilnRegion → KilnRegion) : (s.modRegion b k f).pwr = s.pwr := rfl
@[simp] theorem State.modRegion_pkg (s : State) (b : BayId) (k : SlotIx) (f : KilnRegion → KilnRegion) : (s.modRegion b k f).pkg = s.pkg := rfl
@[simp] theorem State.modRegion_sills (s : State) (b : BayId) (k : SlotIx) (f : KilnRegion → KilnRegion) : (s.modRegion b k f).sills = s.sills := rfl
@[simp] theorem State.modRegion_links (s : State) (b : BayId) (k : SlotIx) (f : KilnRegion → KilnRegion) : (s.modRegion b k f).links = s.links := rfl
@[simp] theorem State.modRegion_edges (s : State) (b : BayId) (k : SlotIx) (f : KilnRegion → KilnRegion) : (s.modRegion b k f).edges = s.edges := rfl
@[simp] theorem State.modRegion_loader (s : State) (b : BayId) (k : SlotIx) (f : KilnRegion → KilnRegion) : (s.modRegion b k f).loader = s.loader := rfl
@[simp] theorem State.modRegion_coll (s : State) (b : BayId) (k : SlotIx) (f : KilnRegion → KilnRegion) : (s.modRegion b k f).coll = s.coll := rfl
@[simp] theorem State.modRegion_job (s : State) (b : BayId) (k : SlotIx) (f : KilnRegion → KilnRegion) : (s.modRegion b k f).job = s.job := rfl
@[simp] theorem State.modRegion_scribe (s : State) (b : BayId) (k : SlotIx) (f : KilnRegion → KilnRegion) : (s.modRegion b k f).scribe = s.scribe := rfl
@[simp] theorem State.modRegion_cfg (s : State) (b : BayId) (k : SlotIx) (f : KilnRegion → KilnRegion) : (s.modRegion b k f).cfg = s.cfg := rfl
@[simp] theorem State.modRegion_sec (s : State) (b : BayId) (k : SlotIx) (f : KilnRegion → KilnRegion) : (s.modRegion b k f).sec = s.sec := rfl
@[simp] theorem State.modRegion_fw (s : State) (b : BayId) (k : SlotIx) (f : KilnRegion → KilnRegion) : (s.modRegion b k f).fw = s.fw := rfl
@[simp] theorem State.modRegion_free (s : State) (b : BayId) (k : SlotIx) (f : KilnRegion → KilnRegion) : (s.modRegion b k f).free = s.free := rfl

@[simp] theorem State.modSill_pending (s : State) (m : SillId) (f : Sill → Sill) : (s.modSill m f).pending = s.pending := rfl
@[simp] theorem State.modSill_kp (s : State) (m : SillId) (f : Sill → Sill) : (s.modSill m f).kp = s.kp := rfl
@[simp] theorem State.modSill_host (s : State) (m : SillId) (f : Sill → Sill) : (s.modSill m f).host = s.host := rfl
@[simp] theorem State.modSill_mgmt (s : State) (m : SillId) (f : Sill → Sill) : (s.modSill m f).mgmt = s.mgmt := rfl
@[simp] theorem State.modSill_io (s : State) (m : SillId) (f : Sill → Sill) : (s.modSill m f).io = s.io := rfl
@[simp] theorem State.modSill_clk (s : State) (m : SillId) (f : Sill → Sill) : (s.modSill m f).clk = s.clk := rfl
@[simp] theorem State.modSill_pwr (s : State) (m : SillId) (f : Sill → Sill) : (s.modSill m f).pwr = s.pwr := rfl
@[simp] theorem State.modSill_pkg (s : State) (m : SillId) (f : Sill → Sill) : (s.modSill m f).pkg = s.pkg := rfl
@[simp] theorem State.modSill_dies (s : State) (m : SillId) (f : Sill → Sill) : (s.modSill m f).dies = s.dies := rfl
@[simp] theorem State.modSill_links (s : State) (m : SillId) (f : Sill → Sill) : (s.modSill m f).links = s.links := rfl
@[simp] theorem State.modSill_edges (s : State) (m : SillId) (f : Sill → Sill) : (s.modSill m f).edges = s.edges := rfl
@[simp] theorem State.modSill_loader (s : State) (m : SillId) (f : Sill → Sill) : (s.modSill m f).loader = s.loader := rfl
@[simp] theorem State.modSill_coll (s : State) (m : SillId) (f : Sill → Sill) : (s.modSill m f).coll = s.coll := rfl
@[simp] theorem State.modSill_job (s : State) (m : SillId) (f : Sill → Sill) : (s.modSill m f).job = s.job := rfl
@[simp] theorem State.modSill_scribe (s : State) (m : SillId) (f : Sill → Sill) : (s.modSill m f).scribe = s.scribe := rfl
@[simp] theorem State.modSill_cfg (s : State) (m : SillId) (f : Sill → Sill) : (s.modSill m f).cfg = s.cfg := rfl
@[simp] theorem State.modSill_sec (s : State) (m : SillId) (f : Sill → Sill) : (s.modSill m f).sec = s.sec := rfl
@[simp] theorem State.modSill_fw (s : State) (m : SillId) (f : Sill → Sill) : (s.modSill m f).fw = s.fw := rfl
@[simp] theorem State.modSill_free (s : State) (m : SillId) (f : Sill → Sill) : (s.modSill m f).free = s.free := rfl

@[simp] theorem State.modLink_pending (s : State) (k : LinkId) (f : Link → Link) : (s.modLink k f).pending = s.pending := rfl
@[simp] theorem State.modLink_kp (s : State) (k : LinkId) (f : Link → Link) : (s.modLink k f).kp = s.kp := rfl
@[simp] theorem State.modLink_host (s : State) (k : LinkId) (f : Link → Link) : (s.modLink k f).host = s.host := rfl
@[simp] theorem State.modLink_mgmt (s : State) (k : LinkId) (f : Link → Link) : (s.modLink k f).mgmt = s.mgmt := rfl
@[simp] theorem State.modLink_io (s : State) (k : LinkId) (f : Link → Link) : (s.modLink k f).io = s.io := rfl
@[simp] theorem State.modLink_clk (s : State) (k : LinkId) (f : Link → Link) : (s.modLink k f).clk = s.clk := rfl
@[simp] theorem State.modLink_pwr (s : State) (k : LinkId) (f : Link → Link) : (s.modLink k f).pwr = s.pwr := rfl
@[simp] theorem State.modLink_pkg (s : State) (k : LinkId) (f : Link → Link) : (s.modLink k f).pkg = s.pkg := rfl
@[simp] theorem State.modLink_dies (s : State) (k : LinkId) (f : Link → Link) : (s.modLink k f).dies = s.dies := rfl
@[simp] theorem State.modLink_sills (s : State) (k : LinkId) (f : Link → Link) : (s.modLink k f).sills = s.sills := rfl
@[simp] theorem State.modLink_edges (s : State) (k : LinkId) (f : Link → Link) : (s.modLink k f).edges = s.edges := rfl
@[simp] theorem State.modLink_loader (s : State) (k : LinkId) (f : Link → Link) : (s.modLink k f).loader = s.loader := rfl
@[simp] theorem State.modLink_coll (s : State) (k : LinkId) (f : Link → Link) : (s.modLink k f).coll = s.coll := rfl
@[simp] theorem State.modLink_job (s : State) (k : LinkId) (f : Link → Link) : (s.modLink k f).job = s.job := rfl
@[simp] theorem State.modLink_scribe (s : State) (k : LinkId) (f : Link → Link) : (s.modLink k f).scribe = s.scribe := rfl
@[simp] theorem State.modLink_cfg (s : State) (k : LinkId) (f : Link → Link) : (s.modLink k f).cfg = s.cfg := rfl
@[simp] theorem State.modLink_sec (s : State) (k : LinkId) (f : Link → Link) : (s.modLink k f).sec = s.sec := rfl
@[simp] theorem State.modLink_fw (s : State) (k : LinkId) (f : Link → Link) : (s.modLink k f).fw = s.fw := rfl
@[simp] theorem State.modLink_free (s : State) (k : LinkId) (f : Link → Link) : (s.modLink k f).free = s.free := rfl

@[simp] theorem State.modEdge_pending (s : State) (e : EdgeId) (f : Edge → Edge) : (s.modEdge e f).pending = s.pending := rfl
@[simp] theorem State.modEdge_kp (s : State) (e : EdgeId) (f : Edge → Edge) : (s.modEdge e f).kp = s.kp := rfl
@[simp] theorem State.modEdge_host (s : State) (e : EdgeId) (f : Edge → Edge) : (s.modEdge e f).host = s.host := rfl
@[simp] theorem State.modEdge_mgmt (s : State) (e : EdgeId) (f : Edge → Edge) : (s.modEdge e f).mgmt = s.mgmt := rfl
@[simp] theorem State.modEdge_io (s : State) (e : EdgeId) (f : Edge → Edge) : (s.modEdge e f).io = s.io := rfl
@[simp] theorem State.modEdge_clk (s : State) (e : EdgeId) (f : Edge → Edge) : (s.modEdge e f).clk = s.clk := rfl
@[simp] theorem State.modEdge_pwr (s : State) (e : EdgeId) (f : Edge → Edge) : (s.modEdge e f).pwr = s.pwr := rfl
@[simp] theorem State.modEdge_pkg (s : State) (e : EdgeId) (f : Edge → Edge) : (s.modEdge e f).pkg = s.pkg := rfl
@[simp] theorem State.modEdge_dies (s : State) (e : EdgeId) (f : Edge → Edge) : (s.modEdge e f).dies = s.dies := rfl
@[simp] theorem State.modEdge_sills (s : State) (e : EdgeId) (f : Edge → Edge) : (s.modEdge e f).sills = s.sills := rfl
@[simp] theorem State.modEdge_links (s : State) (e : EdgeId) (f : Edge → Edge) : (s.modEdge e f).links = s.links := rfl
@[simp] theorem State.modEdge_loader (s : State) (e : EdgeId) (f : Edge → Edge) : (s.modEdge e f).loader = s.loader := rfl
@[simp] theorem State.modEdge_coll (s : State) (e : EdgeId) (f : Edge → Edge) : (s.modEdge e f).coll = s.coll := rfl
@[simp] theorem State.modEdge_job (s : State) (e : EdgeId) (f : Edge → Edge) : (s.modEdge e f).job = s.job := rfl
@[simp] theorem State.modEdge_scribe (s : State) (e : EdgeId) (f : Edge → Edge) : (s.modEdge e f).scribe = s.scribe := rfl
@[simp] theorem State.modEdge_cfg (s : State) (e : EdgeId) (f : Edge → Edge) : (s.modEdge e f).cfg = s.cfg := rfl
@[simp] theorem State.modEdge_sec (s : State) (e : EdgeId) (f : Edge → Edge) : (s.modEdge e f).sec = s.sec := rfl
@[simp] theorem State.modEdge_fw (s : State) (e : EdgeId) (f : Edge → Edge) : (s.modEdge e f).fw = s.fw := rfl
@[simp] theorem State.modEdge_free (s : State) (e : EdgeId) (f : Edge → Edge) : (s.modEdge e f).free = s.free := rfl

@[simp] theorem State.modRing_pending (s : State) (n : RingIx) (f : HostRing → HostRing) : (s.modRing n f).pending = s.pending := rfl
@[simp] theorem State.modRing_kp (s : State) (n : RingIx) (f : HostRing → HostRing) : (s.modRing n f).kp = s.kp := rfl
@[simp] theorem State.modRing_mgmt (s : State) (n : RingIx) (f : HostRing → HostRing) : (s.modRing n f).mgmt = s.mgmt := rfl
@[simp] theorem State.modRing_io (s : State) (n : RingIx) (f : HostRing → HostRing) : (s.modRing n f).io = s.io := rfl
@[simp] theorem State.modRing_clk (s : State) (n : RingIx) (f : HostRing → HostRing) : (s.modRing n f).clk = s.clk := rfl
@[simp] theorem State.modRing_pwr (s : State) (n : RingIx) (f : HostRing → HostRing) : (s.modRing n f).pwr = s.pwr := rfl
@[simp] theorem State.modRing_pkg (s : State) (n : RingIx) (f : HostRing → HostRing) : (s.modRing n f).pkg = s.pkg := rfl
@[simp] theorem State.modRing_dies (s : State) (n : RingIx) (f : HostRing → HostRing) : (s.modRing n f).dies = s.dies := rfl
@[simp] theorem State.modRing_sills (s : State) (n : RingIx) (f : HostRing → HostRing) : (s.modRing n f).sills = s.sills := rfl
@[simp] theorem State.modRing_links (s : State) (n : RingIx) (f : HostRing → HostRing) : (s.modRing n f).links = s.links := rfl
@[simp] theorem State.modRing_edges (s : State) (n : RingIx) (f : HostRing → HostRing) : (s.modRing n f).edges = s.edges := rfl
@[simp] theorem State.modRing_loader (s : State) (n : RingIx) (f : HostRing → HostRing) : (s.modRing n f).loader = s.loader := rfl
@[simp] theorem State.modRing_coll (s : State) (n : RingIx) (f : HostRing → HostRing) : (s.modRing n f).coll = s.coll := rfl
@[simp] theorem State.modRing_job (s : State) (n : RingIx) (f : HostRing → HostRing) : (s.modRing n f).job = s.job := rfl
@[simp] theorem State.modRing_scribe (s : State) (n : RingIx) (f : HostRing → HostRing) : (s.modRing n f).scribe = s.scribe := rfl
@[simp] theorem State.modRing_cfg (s : State) (n : RingIx) (f : HostRing → HostRing) : (s.modRing n f).cfg = s.cfg := rfl
@[simp] theorem State.modRing_sec (s : State) (n : RingIx) (f : HostRing → HostRing) : (s.modRing n f).sec = s.sec := rfl
@[simp] theorem State.modRing_fw (s : State) (n : RingIx) (f : HostRing → HostRing) : (s.modRing n f).fw = s.fw := rfl
@[simp] theorem State.modRing_free (s : State) (n : RingIx) (f : HostRing → HostRing) : (s.modRing n f).free = s.free := rfl

@[simp] theorem State.countRing_pending (s : State) (d : DieId) (i n : Nat) : (s.countRing d i n).pending = s.pending := rfl
@[simp] theorem State.countRing_kp (s : State) (d : DieId) (i n : Nat) : (s.countRing d i n).kp = s.kp := rfl
@[simp] theorem State.countRing_host (s : State) (d : DieId) (i n : Nat) : (s.countRing d i n).host = s.host := rfl
@[simp] theorem State.countRing_mgmt (s : State) (d : DieId) (i n : Nat) : (s.countRing d i n).mgmt = s.mgmt := rfl
@[simp] theorem State.countRing_io (s : State) (d : DieId) (i n : Nat) : (s.countRing d i n).io = s.io := rfl
@[simp] theorem State.countRing_clk (s : State) (d : DieId) (i n : Nat) : (s.countRing d i n).clk = s.clk := rfl
@[simp] theorem State.countRing_pwr (s : State) (d : DieId) (i n : Nat) : (s.countRing d i n).pwr = s.pwr := rfl
@[simp] theorem State.countRing_pkg (s : State) (d : DieId) (i n : Nat) : (s.countRing d i n).pkg = s.pkg := rfl
@[simp] theorem State.countRing_sills (s : State) (d : DieId) (i n : Nat) : (s.countRing d i n).sills = s.sills := rfl
@[simp] theorem State.countRing_links (s : State) (d : DieId) (i n : Nat) : (s.countRing d i n).links = s.links := rfl
@[simp] theorem State.countRing_edges (s : State) (d : DieId) (i n : Nat) : (s.countRing d i n).edges = s.edges := rfl
@[simp] theorem State.countRing_loader (s : State) (d : DieId) (i n : Nat) : (s.countRing d i n).loader = s.loader := rfl
@[simp] theorem State.countRing_coll (s : State) (d : DieId) (i n : Nat) : (s.countRing d i n).coll = s.coll := rfl
@[simp] theorem State.countRing_job (s : State) (d : DieId) (i n : Nat) : (s.countRing d i n).job = s.job := rfl
@[simp] theorem State.countRing_scribe (s : State) (d : DieId) (i n : Nat) : (s.countRing d i n).scribe = s.scribe := rfl
@[simp] theorem State.countRing_cfg (s : State) (d : DieId) (i n : Nat) : (s.countRing d i n).cfg = s.cfg := rfl
@[simp] theorem State.countRing_sec (s : State) (d : DieId) (i n : Nat) : (s.countRing d i n).sec = s.sec := rfl
@[simp] theorem State.countRing_fw (s : State) (d : DieId) (i n : Nat) : (s.countRing d i n).fw = s.fw := rfl
@[simp] theorem State.countRing_free (s : State) (d : DieId) (i n : Nat) : (s.countRing d i n).free = s.free := rfl

@[simp] theorem State.countSill_pending (s : State) (m : SillId) (i n : Nat) : (s.countSill m i n).pending = s.pending := rfl
@[simp] theorem State.countSill_kp (s : State) (m : SillId) (i n : Nat) : (s.countSill m i n).kp = s.kp := rfl
@[simp] theorem State.countSill_host (s : State) (m : SillId) (i n : Nat) : (s.countSill m i n).host = s.host := rfl
@[simp] theorem State.countSill_mgmt (s : State) (m : SillId) (i n : Nat) : (s.countSill m i n).mgmt = s.mgmt := rfl
@[simp] theorem State.countSill_io (s : State) (m : SillId) (i n : Nat) : (s.countSill m i n).io = s.io := rfl
@[simp] theorem State.countSill_clk (s : State) (m : SillId) (i n : Nat) : (s.countSill m i n).clk = s.clk := rfl
@[simp] theorem State.countSill_pwr (s : State) (m : SillId) (i n : Nat) : (s.countSill m i n).pwr = s.pwr := rfl
@[simp] theorem State.countSill_pkg (s : State) (m : SillId) (i n : Nat) : (s.countSill m i n).pkg = s.pkg := rfl
@[simp] theorem State.countSill_dies (s : State) (m : SillId) (i n : Nat) : (s.countSill m i n).dies = s.dies := rfl
@[simp] theorem State.countSill_links (s : State) (m : SillId) (i n : Nat) : (s.countSill m i n).links = s.links := rfl
@[simp] theorem State.countSill_edges (s : State) (m : SillId) (i n : Nat) : (s.countSill m i n).edges = s.edges := rfl
@[simp] theorem State.countSill_loader (s : State) (m : SillId) (i n : Nat) : (s.countSill m i n).loader = s.loader := rfl
@[simp] theorem State.countSill_coll (s : State) (m : SillId) (i n : Nat) : (s.countSill m i n).coll = s.coll := rfl
@[simp] theorem State.countSill_job (s : State) (m : SillId) (i n : Nat) : (s.countSill m i n).job = s.job := rfl
@[simp] theorem State.countSill_scribe (s : State) (m : SillId) (i n : Nat) : (s.countSill m i n).scribe = s.scribe := rfl
@[simp] theorem State.countSill_cfg (s : State) (m : SillId) (i n : Nat) : (s.countSill m i n).cfg = s.cfg := rfl
@[simp] theorem State.countSill_sec (s : State) (m : SillId) (i n : Nat) : (s.countSill m i n).sec = s.sec := rfl
@[simp] theorem State.countSill_fw (s : State) (m : SillId) (i n : Nat) : (s.countSill m i n).fw = s.fw := rfl
@[simp] theorem State.countSill_free (s : State) (m : SillId) (i n : Nat) : (s.countSill m i n).free = s.free := rfl

@[simp] theorem State.countLink_pending (s : State) (k : LinkId) (i n : Nat) : (s.countLink k i n).pending = s.pending := rfl
@[simp] theorem State.countLink_kp (s : State) (k : LinkId) (i n : Nat) : (s.countLink k i n).kp = s.kp := rfl
@[simp] theorem State.countLink_host (s : State) (k : LinkId) (i n : Nat) : (s.countLink k i n).host = s.host := rfl
@[simp] theorem State.countLink_mgmt (s : State) (k : LinkId) (i n : Nat) : (s.countLink k i n).mgmt = s.mgmt := rfl
@[simp] theorem State.countLink_io (s : State) (k : LinkId) (i n : Nat) : (s.countLink k i n).io = s.io := rfl
@[simp] theorem State.countLink_clk (s : State) (k : LinkId) (i n : Nat) : (s.countLink k i n).clk = s.clk := rfl
@[simp] theorem State.countLink_pwr (s : State) (k : LinkId) (i n : Nat) : (s.countLink k i n).pwr = s.pwr := rfl
@[simp] theorem State.countLink_pkg (s : State) (k : LinkId) (i n : Nat) : (s.countLink k i n).pkg = s.pkg := rfl
@[simp] theorem State.countLink_dies (s : State) (k : LinkId) (i n : Nat) : (s.countLink k i n).dies = s.dies := rfl
@[simp] theorem State.countLink_sills (s : State) (k : LinkId) (i n : Nat) : (s.countLink k i n).sills = s.sills := rfl
@[simp] theorem State.countLink_edges (s : State) (k : LinkId) (i n : Nat) : (s.countLink k i n).edges = s.edges := rfl
@[simp] theorem State.countLink_loader (s : State) (k : LinkId) (i n : Nat) : (s.countLink k i n).loader = s.loader := rfl
@[simp] theorem State.countLink_coll (s : State) (k : LinkId) (i n : Nat) : (s.countLink k i n).coll = s.coll := rfl
@[simp] theorem State.countLink_job (s : State) (k : LinkId) (i n : Nat) : (s.countLink k i n).job = s.job := rfl
@[simp] theorem State.countLink_scribe (s : State) (k : LinkId) (i n : Nat) : (s.countLink k i n).scribe = s.scribe := rfl
@[simp] theorem State.countLink_cfg (s : State) (k : LinkId) (i n : Nat) : (s.countLink k i n).cfg = s.cfg := rfl
@[simp] theorem State.countLink_sec (s : State) (k : LinkId) (i n : Nat) : (s.countLink k i n).sec = s.sec := rfl
@[simp] theorem State.countLink_fw (s : State) (k : LinkId) (i n : Nat) : (s.countLink k i n).fw = s.fw := rfl
@[simp] theorem State.countLink_free (s : State) (k : LinkId) (i n : Nat) : (s.countLink k i n).free = s.free := rfl

@[simp] theorem State.countEdge_pending (s : State) (e : EdgeId) (i n : Nat) : (s.countEdge e i n).pending = s.pending := rfl
@[simp] theorem State.countEdge_kp (s : State) (e : EdgeId) (i n : Nat) : (s.countEdge e i n).kp = s.kp := rfl
@[simp] theorem State.countEdge_host (s : State) (e : EdgeId) (i n : Nat) : (s.countEdge e i n).host = s.host := rfl
@[simp] theorem State.countEdge_mgmt (s : State) (e : EdgeId) (i n : Nat) : (s.countEdge e i n).mgmt = s.mgmt := rfl
@[simp] theorem State.countEdge_io (s : State) (e : EdgeId) (i n : Nat) : (s.countEdge e i n).io = s.io := rfl
@[simp] theorem State.countEdge_clk (s : State) (e : EdgeId) (i n : Nat) : (s.countEdge e i n).clk = s.clk := rfl
@[simp] theorem State.countEdge_pwr (s : State) (e : EdgeId) (i n : Nat) : (s.countEdge e i n).pwr = s.pwr := rfl
@[simp] theorem State.countEdge_pkg (s : State) (e : EdgeId) (i n : Nat) : (s.countEdge e i n).pkg = s.pkg := rfl
@[simp] theorem State.countEdge_dies (s : State) (e : EdgeId) (i n : Nat) : (s.countEdge e i n).dies = s.dies := rfl
@[simp] theorem State.countEdge_sills (s : State) (e : EdgeId) (i n : Nat) : (s.countEdge e i n).sills = s.sills := rfl
@[simp] theorem State.countEdge_links (s : State) (e : EdgeId) (i n : Nat) : (s.countEdge e i n).links = s.links := rfl
@[simp] theorem State.countEdge_loader (s : State) (e : EdgeId) (i n : Nat) : (s.countEdge e i n).loader = s.loader := rfl
@[simp] theorem State.countEdge_coll (s : State) (e : EdgeId) (i n : Nat) : (s.countEdge e i n).coll = s.coll := rfl
@[simp] theorem State.countEdge_job (s : State) (e : EdgeId) (i n : Nat) : (s.countEdge e i n).job = s.job := rfl
@[simp] theorem State.countEdge_scribe (s : State) (e : EdgeId) (i n : Nat) : (s.countEdge e i n).scribe = s.scribe := rfl
@[simp] theorem State.countEdge_cfg (s : State) (e : EdgeId) (i n : Nat) : (s.countEdge e i n).cfg = s.cfg := rfl
@[simp] theorem State.countEdge_sec (s : State) (e : EdgeId) (i n : Nat) : (s.countEdge e i n).sec = s.sec := rfl
@[simp] theorem State.countEdge_fw (s : State) (e : EdgeId) (i n : Nat) : (s.countEdge e i n).fw = s.fw := rfl
@[simp] theorem State.countEdge_free (s : State) (e : EdgeId) (i n : Nat) : (s.countEdge e i n).free = s.free := rfl

@[simp] theorem State.dropWrite_pending (s : State) (o : Nat) : (s.dropWrite o).pending = s.pending := rfl
@[simp] theorem State.dropWrite_host (s : State) (o : Nat) : (s.dropWrite o).host = s.host := rfl
@[simp] theorem State.dropWrite_mgmt (s : State) (o : Nat) : (s.dropWrite o).mgmt = s.mgmt := rfl
@[simp] theorem State.dropWrite_io (s : State) (o : Nat) : (s.dropWrite o).io = s.io := rfl
@[simp] theorem State.dropWrite_clk (s : State) (o : Nat) : (s.dropWrite o).clk = s.clk := rfl
@[simp] theorem State.dropWrite_pwr (s : State) (o : Nat) : (s.dropWrite o).pwr = s.pwr := rfl
@[simp] theorem State.dropWrite_pkg (s : State) (o : Nat) : (s.dropWrite o).pkg = s.pkg := rfl
@[simp] theorem State.dropWrite_dies (s : State) (o : Nat) : (s.dropWrite o).dies = s.dies := rfl
@[simp] theorem State.dropWrite_sills (s : State) (o : Nat) : (s.dropWrite o).sills = s.sills := rfl
@[simp] theorem State.dropWrite_links (s : State) (o : Nat) : (s.dropWrite o).links = s.links := rfl
@[simp] theorem State.dropWrite_edges (s : State) (o : Nat) : (s.dropWrite o).edges = s.edges := rfl
@[simp] theorem State.dropWrite_loader (s : State) (o : Nat) : (s.dropWrite o).loader = s.loader := rfl
@[simp] theorem State.dropWrite_coll (s : State) (o : Nat) : (s.dropWrite o).coll = s.coll := rfl
@[simp] theorem State.dropWrite_job (s : State) (o : Nat) : (s.dropWrite o).job = s.job := rfl
@[simp] theorem State.dropWrite_scribe (s : State) (o : Nat) : (s.dropWrite o).scribe = s.scribe := rfl
@[simp] theorem State.dropWrite_cfg (s : State) (o : Nat) : (s.dropWrite o).cfg = s.cfg := rfl
@[simp] theorem State.dropWrite_sec (s : State) (o : Nat) : (s.dropWrite o).sec = s.sec := rfl
@[simp] theorem State.dropWrite_fw (s : State) (o : Nat) : (s.dropWrite o).fw = s.fw := rfl
@[simp] theorem State.dropWrite_free (s : State) (o : Nat) : (s.dropWrite o).free = s.free := rfl

@[simp] theorem State.writeLoft_pending (s : State) (d : DieId) (a : Nat) (l : List Byte) : (s.writeLoft d a l).pending = s.pending := rfl
@[simp] theorem State.writeLoft_kp (s : State) (d : DieId) (a : Nat) (l : List Byte) : (s.writeLoft d a l).kp = s.kp := rfl
@[simp] theorem State.writeLoft_host (s : State) (d : DieId) (a : Nat) (l : List Byte) : (s.writeLoft d a l).host = s.host := rfl
@[simp] theorem State.writeLoft_mgmt (s : State) (d : DieId) (a : Nat) (l : List Byte) : (s.writeLoft d a l).mgmt = s.mgmt := rfl
@[simp] theorem State.writeLoft_io (s : State) (d : DieId) (a : Nat) (l : List Byte) : (s.writeLoft d a l).io = s.io := rfl
@[simp] theorem State.writeLoft_clk (s : State) (d : DieId) (a : Nat) (l : List Byte) : (s.writeLoft d a l).clk = s.clk := rfl
@[simp] theorem State.writeLoft_pwr (s : State) (d : DieId) (a : Nat) (l : List Byte) : (s.writeLoft d a l).pwr = s.pwr := rfl
@[simp] theorem State.writeLoft_pkg (s : State) (d : DieId) (a : Nat) (l : List Byte) : (s.writeLoft d a l).pkg = s.pkg := rfl
@[simp] theorem State.writeLoft_sills (s : State) (d : DieId) (a : Nat) (l : List Byte) : (s.writeLoft d a l).sills = s.sills := rfl
@[simp] theorem State.writeLoft_links (s : State) (d : DieId) (a : Nat) (l : List Byte) : (s.writeLoft d a l).links = s.links := rfl
@[simp] theorem State.writeLoft_edges (s : State) (d : DieId) (a : Nat) (l : List Byte) : (s.writeLoft d a l).edges = s.edges := rfl
@[simp] theorem State.writeLoft_loader (s : State) (d : DieId) (a : Nat) (l : List Byte) : (s.writeLoft d a l).loader = s.loader := rfl
@[simp] theorem State.writeLoft_coll (s : State) (d : DieId) (a : Nat) (l : List Byte) : (s.writeLoft d a l).coll = s.coll := rfl
@[simp] theorem State.writeLoft_job (s : State) (d : DieId) (a : Nat) (l : List Byte) : (s.writeLoft d a l).job = s.job := rfl
@[simp] theorem State.writeLoft_scribe (s : State) (d : DieId) (a : Nat) (l : List Byte) : (s.writeLoft d a l).scribe = s.scribe := rfl
@[simp] theorem State.writeLoft_cfg (s : State) (d : DieId) (a : Nat) (l : List Byte) : (s.writeLoft d a l).cfg = s.cfg := rfl
@[simp] theorem State.writeLoft_sec (s : State) (d : DieId) (a : Nat) (l : List Byte) : (s.writeLoft d a l).sec = s.sec := rfl
@[simp] theorem State.writeLoft_fw (s : State) (d : DieId) (a : Nat) (l : List Byte) : (s.writeLoft d a l).fw = s.fw := rfl
@[simp] theorem State.writeLoft_free (s : State) (d : DieId) (a : Nat) (l : List Byte) : (s.writeLoft d a l).free = s.free := rfl

@[simp] theorem State.writeScratch_pending (s : State) (a : Nat) (l : List Byte) : (s.writeScratch a l).pending = s.pending := rfl
@[simp] theorem State.writeScratch_kp (s : State) (a : Nat) (l : List Byte) : (s.writeScratch a l).kp = s.kp := rfl
@[simp] theorem State.writeScratch_host (s : State) (a : Nat) (l : List Byte) : (s.writeScratch a l).host = s.host := rfl
@[simp] theorem State.writeScratch_io (s : State) (a : Nat) (l : List Byte) : (s.writeScratch a l).io = s.io := rfl
@[simp] theorem State.writeScratch_clk (s : State) (a : Nat) (l : List Byte) : (s.writeScratch a l).clk = s.clk := rfl
@[simp] theorem State.writeScratch_pwr (s : State) (a : Nat) (l : List Byte) : (s.writeScratch a l).pwr = s.pwr := rfl
@[simp] theorem State.writeScratch_pkg (s : State) (a : Nat) (l : List Byte) : (s.writeScratch a l).pkg = s.pkg := rfl
@[simp] theorem State.writeScratch_dies (s : State) (a : Nat) (l : List Byte) : (s.writeScratch a l).dies = s.dies := rfl
@[simp] theorem State.writeScratch_sills (s : State) (a : Nat) (l : List Byte) : (s.writeScratch a l).sills = s.sills := rfl
@[simp] theorem State.writeScratch_links (s : State) (a : Nat) (l : List Byte) : (s.writeScratch a l).links = s.links := rfl
@[simp] theorem State.writeScratch_edges (s : State) (a : Nat) (l : List Byte) : (s.writeScratch a l).edges = s.edges := rfl
@[simp] theorem State.writeScratch_loader (s : State) (a : Nat) (l : List Byte) : (s.writeScratch a l).loader = s.loader := rfl
@[simp] theorem State.writeScratch_coll (s : State) (a : Nat) (l : List Byte) : (s.writeScratch a l).coll = s.coll := rfl
@[simp] theorem State.writeScratch_job (s : State) (a : Nat) (l : List Byte) : (s.writeScratch a l).job = s.job := rfl
@[simp] theorem State.writeScratch_scribe (s : State) (a : Nat) (l : List Byte) : (s.writeScratch a l).scribe = s.scribe := rfl
@[simp] theorem State.writeScratch_cfg (s : State) (a : Nat) (l : List Byte) : (s.writeScratch a l).cfg = s.cfg := rfl
@[simp] theorem State.writeScratch_sec (s : State) (a : Nat) (l : List Byte) : (s.writeScratch a l).sec = s.sec := rfl
@[simp] theorem State.writeScratch_fw (s : State) (a : Nat) (l : List Byte) : (s.writeScratch a l).fw = s.fw := rfl
@[simp] theorem State.writeScratch_free (s : State) (a : Nat) (l : List Byte) : (s.writeScratch a l).free = s.free := rfl

/-! ## Units of a bank -/

@[simp] theorem State.modDie_self (s : State) (d : DieId) (f : RingDie → RingDie) : (s.modDie d f).die d = f (s.die d) :=
  updAt_self s.dies d f

theorem State.modDie_ne (s : State) (d e : DieId) (f : RingDie → RingDie) (h : d ≠ e) : (s.modDie d f).die e = s.die e :=
  updAt_ne s.dies d e f h

@[simp] theorem State.modSill_self (s : State) (m : SillId) (f : Sill → Sill) : (s.modSill m f).sill m = f (s.sill m) :=
  updAt_self s.sills m f

theorem State.modSill_ne (s : State) (m n : SillId) (f : Sill → Sill) (h : m ≠ n) : (s.modSill m f).sill n = s.sill n :=
  updAt_ne s.sills m n f h

@[simp] theorem State.modLink_self (s : State) (k : LinkId) (f : Link → Link) : (s.modLink k f).link k = f (s.link k) :=
  updAt_self s.links k f

theorem State.modLink_ne (s : State) (k j : LinkId) (f : Link → Link) (h : k ≠ j) : (s.modLink k f).link j = s.link j :=
  updAt_ne s.links k j f h

@[simp] theorem State.modEdge_self (s : State) (e : EdgeId) (f : Edge → Edge) : (s.modEdge e f).edge e = f (s.edge e) :=
  updAt_self s.edges e f

theorem State.modEdge_ne (s : State) (e d : EdgeId) (f : Edge → Edge) (h : e ≠ d) : (s.modEdge e f).edge d = s.edge d :=
  updAt_ne s.edges e d f h

@[simp] theorem State.modRing_self (s : State) (n : RingIx) (f : HostRing → HostRing) : (s.modRing n f).ring n = f (s.ring n) :=
  updAt_self s.host.rings n f

theorem State.modRing_ne (s : State) (n k : RingIx) (f : HostRing → HostRing) (h : n ≠ k) : (s.modRing n f).ring k = s.ring k :=
  updAt_ne s.host.rings n k f h

@[simp] theorem State.modBay_self (s : State) (b : BayId) (f : Bay → Bay) : (s.modBay b f).bay b = f (s.bay b) := by
  simp only [State.modBay, State.bay, State.modDie_self, RingDie.modBay, updAt_self]

theorem State.modBay_ne (s : State) (b c : BayId) (f : Bay → Bay) (h : b ≠ c) : (s.modBay b f).bay c = s.bay c := by
  by_cases hd : b.die = c.die
  · have hb : b.bay ≠ c.bay := fun e => h (by cases b; cases c; simp_all)
    simp only [State.modBay, State.bay, ← hd, State.modDie_self, RingDie.modBay]
    exact updAt_ne _ _ _ _ hb
  · simp [State.modBay, State.bay, State.modDie_ne _ _ _ _ hd]

@[simp] theorem State.modStream_self (s : State) (b : BayId) (k : SlotIx) (f : Stream → Stream) :
    (s.modStream b k f).stream b k = f (s.stream b k) := by
  simp only [State.modStream, State.stream, State.modBay_self, updAt_self]

@[simp] theorem State.modRegion_self (s : State) (b : BayId) (k : SlotIx) (f : KilnRegion → KilnRegion) :
    (s.modRegion b k f).region b k = f (s.region b k) := by
  simp only [State.modRegion, State.region, State.modBay_self, updAt_self]

@[simp] theorem State.modBent_self (s : State) (d : DieId) (b : BentIx) (f : Bent → Bent) :
    (s.modBent d b f).bent d b = f (s.bent d b) := by
  simp only [State.modBent, State.bent, State.modDie_self, updAt_self]

/-- Two updates of a bay are one. -/
theorem State.modBay_modBay (s : State) (b : BayId) (f g : Bay → Bay) : (s.modBay b f).modBay b g = s.modBay b (g ∘ f) := by
  simp [State.modBay, State.modDie, RingDie.modBay, updAt]

end Sys2Proof.Machine
end

