-- ==== Sys2Proof/Laws/Ops.lean ====
section
/-! SUPPORT. What each shared operation can do, said once: raising a vector, posting an event, reporting to the scribe log, setting
a verdict bit, writing module memory, and writing a completion. Later proofs cite these and never unfold the operation. -/

namespace Sys2Proof.Machine

/-- What holds of both outcomes holds of a choice between them. -/
theorem ite_both {α : Type} {P : α → Prop} {c : Prop} [Decidable c] {a b : α} (ha : P a) (hb : P b) :
    P (if c then a else b) := by
  split <;> assumption

/-! ## Vectors, events and responses -/

/-- `t` differs from `s` at most in the vectors raised and in the event ring. -/
def OnlyEvents (s t : State) : Prop :=
  t = { s with
    host := { s.host with raised := t.host.raised, msixPending := t.host.msixPending }
    mgmt := { s.mgmt with events := t.mgmt.events, evtProduced := t.mgmt.evtProduced, waiting := t.mgmt.waiting,
                          raisedAt := t.mgmt.raisedAt, owed := t.mgmt.owed } }

theorem OnlyEvents.refl (s : State) : OnlyEvents s s := rfl

theorem OnlyEvents.trans {s t u : State} (h : OnlyEvents s t) (k : OnlyEvents t u) : OnlyEvents s u := by
  unfold OnlyEvents at *
  rw [k]
  conv_lhs => rw [h]

theorem State.raiseVector_only (s : State) (v : Nat) : OnlyEvents s (s.raiseVector v) := by
  unfold State.raiseVector
  repeat' split
  all_goals rfl

theorem State.raiseEvent_only (s : State) : OnlyEvents s s.raiseEvent := by
  unfold State.raiseEvent
  exact ite_both (OnlyEvents.trans (t := { s with mgmt := { s.mgmt with raisedAt := some s.clk.aonMicros, owed := false } }) rfl
    (State.raiseVector_only _ _)) rfl

theorem State.putEvent_only (s : State) (e : Event) : OnlyEvents s (s.putEvent e) := by
  unfold State.putEvent
  split
  · exact OnlyEvents.trans (t := { s with mgmt := s.mgmt.append e }) rfl (State.raiseEvent_only _)
  · rfl

theorem State.postEvent_only (s : State) (kind : Byte) (status : Status) (tag : Word) (data : BitVec 384) :
    OnlyEvents s (s.postEvent kind status tag data) := State.putEvent_only s _

theorem State.respond_only (s : State) (tag : Word) (status : Status) (data : BitVec 384) :
    OnlyEvents s (s.respond tag status data) := State.putEvent_only s _

/-- What an event leaves: everything but the vectors raised and the event ring. -/
theorem OnlyEvents.frame {s t : State} (h : OnlyEvents s t) :
    t.pending = s.pending ∧ t.kp = s.kp ∧ t.io = s.io ∧ t.clk = s.clk ∧ t.pwr = s.pwr ∧ t.pkg = s.pkg ∧ t.dies = s.dies ∧
    t.sills = s.sills ∧ t.links = s.links ∧ t.edges = s.edges ∧ t.loader = s.loader ∧ t.coll = s.coll ∧ t.job = s.job ∧
    t.scribe = s.scribe ∧ t.cfg = s.cfg ∧ t.sec = s.sec ∧ t.fw = s.fw ∧ t.free = s.free ∧
    t.host.memory = s.host.memory ∧ t.host.rings = s.host.rings ∧ t.host.msixTable = s.host.msixTable ∧
    t.mgmt.scratch = s.mgmt.scratch ∧ t.mgmt.reqRing = s.mgmt.reqRing ∧ t.mgmt.accepted = s.mgmt.accepted ∧
    t.mgmt.reqProduced = s.mgmt.reqProduced ∧ t.mgmt.reqConsumed = s.mgmt.reqConsumed ∧
    t.mgmt.journal = s.mgmt.journal := by
  unfold OnlyEvents at h
  rw [h]
  exact ⟨rfl, rfl, rfl, rfl, rfl, rfl, rfl, rfl, rfl, rfl, rfl, rfl, rfl, rfl, rfl, rfl, rfl, rfl, rfl, rfl, rfl, rfl, rfl, rfl,
    rfl, rfl, rfl⟩

/-! ## Reports -/

/-- `t` differs from `s` at most in the scribe log, in the vectors raised and in the event ring. -/
def OnlyReports (s t : State) : Prop := OnlyEvents { s with scribe := t.scribe } t

theorem OnlyEvents.toReports {s t : State} (h : OnlyEvents s t) : OnlyReports s t := by
  have hs : t.scribe = s.scribe := h.frame.2.2.2.2.2.2.2.2.2.2.2.2.2.1
  unfold OnlyReports
  rw [hs]
  exact h

theorem OnlyReports.trans {s t u : State} (h : OnlyReports s t) (k : OnlyReports t u) : OnlyReports s u := by
  unfold OnlyReports OnlyEvents at *
  rw [k]
  conv_lhs => rw [h]

theorem State.openRecord_only (s : State) (r : Report) : OnlyReports s (s.openRecord r) := by
  unfold State.openRecord
  exact ite_both (OnlyReports.trans (OnlyEvents.refl _) (State.postEvent_only _ _ _ _ _).toReports) (OnlyEvents.refl _)

theorem State.coalesce_only (s : State) (o : OpenRec) (r : Report) : OnlyReports s (s.coalesce o r) := by
  unfold State.coalesce
  exact ite_both (OnlyReports.trans (OnlyEvents.refl _) (State.postEvent_only _ _ _ _ _).toReports) (OnlyEvents.refl _)

/-- A report changes the scribe log, the event ring and the vectors raised, and nothing else. -/
theorem State.report_only (s : State) (r : Report) : OnlyReports s (s.report r) := by
  unfold State.report
  split
  · rfl
  · split
    · exact State.openRecord_only s r
    · split
      · exact State.openRecord_only s r
      · exact State.coalesce_only s _ r

/-- With no kingpost left a report changes nothing. -/
theorem State.report_dead (s : State) (r : Report) (h : s.fw.dead = true) : s.report r = s := by
  simp [State.report, h]

/-! ## The verdict bits -/

/-- Setting a verdict bit changes the job's bits alone, and only in RUNNING. -/
theorem State.setBits_cases (s : State) (b : Bits) :
    (s.kp.state ≠ .running ∧ s.setBits b = s) ∨
    (s.kp.state = .running ∧ (s.job.phase = .posted ∨ s.job.phase = .running) ∧
      s.setBits b = { s with job := { s.job with own := s.job.own.merge b } }) ∨
    (s.kp.state = .running ∧ ¬(s.job.phase = .posted ∨ s.job.phase = .running) ∧
      s.setBits b = { s with job := { s.job with next := s.job.next.merge b } }) := by
  by_cases h : s.kp.state = .running
  · by_cases p : s.job.phase = .posted ∨ s.job.phase = .running
    · exact .inr (.inl ⟨h, p, by simp only [State.setBits, h, p, if_true]⟩)
    · exact .inr (.inr ⟨h, p, by simp only [State.setBits, h, p, if_true, if_false]⟩)
  · exact .inl ⟨h, by simp only [State.setBits, h, if_false]⟩

/-! ## Module memory -/

/-- A write to module memory changes the stacks alone. -/
def OnlySills (s t : State) : Prop := t = { s with sills := t.sills }

theorem OnlySills.trans {s t u : State} (h : OnlySills s t) (k : OnlySills t u) : OnlySills s u := by
  unfold OnlySills at *
  rw [k]
  conv_lhs => rw [h]

theorem State.writeBytes_only (s : State) (a : Nat) (l : List Byte) : OnlySills s (s.writeBytes a l) := by
  induction l generalizing s a with
  | nil => rfl
  | cons b rest ih =>
    refine OnlySills.trans (t := match s.decodeAddr a with
      | none => s
      | some (m, o) => if (s.sill m).pageRetired (pageOf o) then s else s.putByte m o b) ?_ (ih _ _)
    split
    · rfl
    · split <;> rfl

theorem State.noteWrites_only (l : List (SillId × Nat × Bool)) (s : State) : OnlySills s (l.foldl State.noteWrite s) := by
  induction l generalizing s with
  | nil => rfl
  | cons x rest ih => exact OnlySills.trans (t := s.noteWrite x) rfl (ih _)

theorem State.writeMem_only (s : State) (a : Nat) (l : List Byte) : OnlySills s (s.writeMem a l) :=
  (State.writeBytes_only s a l).trans (State.noteWrites_only _ _)

theorem State.decodeAddr_of (s : State) (m : SillId) (o a : Nat) (h : s.interleave ≤ o) (h' : o < stackBytes)
    (h1 : a / 2 ^ 36 = m.val) (h2 : a % 2 ^ 36 = o) : s.decodeAddr a = some (m, o) := by
  unfold State.decodeAddr
  rw [dif_pos (by rw [h1]; exact m.isLt), if_pos (by rw [h2]; exact ⟨h, h'⟩)]
  simp only [h1, h2]

theorem lt_window {o : Nat} (h : o < stackBytes) : o < 68719476736 := Nat.lt_trans h (by unfold stackBytes; norm_num)

theorem window_div (m : Nat) {o : Nat} (h : o < 68719476736) : (m * 2 ^ 36 + o) / 2 ^ 36 = m := by omega

theorem window_mod (m : Nat) {o : Nat} (h : o < 68719476736) : (m * 2 ^ 36 + o) % 2 ^ 36 = o := by omega

/-- An address of a stack's local window decodes to that stack (R147). -/
theorem State.decodeAddr_local (s : State) (m : SillId) (o : Nat) (h : s.interleave ≤ o) (h' : o < stackBytes) :
    s.decodeAddr (m.val * 2 ^ 36 + o) = some (m, o) := by
  have hb : o < 68719476736 := lt_window h'
  exact s.decodeAddr_of m o _ h h' (window_div m.val hb) (window_mod m.val hb)

/-- A read whose bytes all decode to consecutive offsets of one stack reads that stack. -/
theorem State.readMem_of (s : State) (m : SillId) (a o n : Nat) (h : ∀ k, k < n → s.decodeAddr (a + k) = some (m, o + k)) :
    s.readMem a n = (s.sill m).dram.read o n := by
  induction n generalizing a o with
  | zero => rfl
  | succ n ih =>
    have hd : s.decodeAddr a = some (m, o) := h 0 (Nat.succ_pos n)
    simp only [State.readMem, Memory.read, State.memByte, hd]
    rw [ih (a + 1) (o + 1) fun k hk => ?_]
    have := h (k + 1) (Nat.succ_lt_succ hk)
    rwa [Nat.add_right_comm a 1 k, Nat.add_assoc a k 1, Nat.add_right_comm o 1 k, Nat.add_assoc o k 1]

/-- A write whose bytes all decode to consecutive offsets of one stack without retired pages writes that stack. -/
theorem State.writeBytes_of (s : State) (m : SillId) (a o : Nat) (l : List Byte)
    (h : ∀ k, k < l.length → s.decodeAddr (a + k) = some (m, o + k)) (hr : (s.sill m).retired = []) :
    s.writeBytes a l = s.modSill m fun x => { x with dram := x.dram.write o l } := by
  induction l generalizing s a o with
  | nil =>
    have : updAt s.sills m (fun x => { x with dram := x.dram.write o [] }) = s.sills := by
      show s.sills.set _ s.sills[m] = s.sills
      simp
    simp only [State.writeBytes, State.modSill, this]
  | cons b rest ih =>
    have hd : s.decodeAddr a = some (m, o) := h 0 (Nat.succ_pos _)
    have hp : (s.sill m).pageRetired (pageOf o) = false := by simp [Sill.pageRetired, hr]
    simp only [State.writeBytes, hd, hp]
    rw [if_neg Bool.false_ne_true, ih _ (a + 1) (o + 1) (fun k hk => ?_) (by simp [State.putByte, hr])]
    · simp [State.putByte, State.modSill, updAt, Memory.write]
    · have := h (k + 1) (Nat.succ_lt_succ hk)
      rw [Nat.add_right_comm a 1 k, Nat.add_assoc a k 1, Nat.add_right_comm o 1 k, Nat.add_assoc o k 1]
      exact this

/-- A read inside a stack's local window reads that stack. -/
theorem State.readMem_local (s : State) (m : SillId) (a o n : Nat) (ha : a = m.val * 2 ^ 36 + o) (h : s.interleave ≤ o)
    (h' : o + n ≤ stackBytes) : s.readMem a n = (s.sill m).dram.read o n := by
  refine s.readMem_of m a o n fun k hk => ?_
  have hd := s.decodeAddr_local m (o + k) (Nat.le_trans h (Nat.le_add_right o k))
    (Nat.lt_of_lt_of_le (Nat.add_lt_add_left hk o) h')
  rw [ha, Nat.add_assoc]
  exact hd

/-! ## The loft, the scratch and free values -/

@[simp] theorem State.writeLoft_self (s : State) (d : DieId) (a : Nat) (l : List Byte) :
    ((s.writeLoft d a l).die d).loft = (s.die d).loft.write a l := by
  simp [State.writeLoft]

theorem State.writeLoft_ne (s : State) (d e : DieId) (a : Nat) (l : List Byte) (h : d ≠ e) :
    (s.writeLoft d a l).die e = s.die e := by
  simp [State.writeLoft, State.modDie_ne _ _ _ _ h]

@[simp] theorem State.writeScratch_eq (s : State) (a : Nat) (l : List Byte) :
    (s.writeScratch a l).mgmt.scratch = s.mgmt.scratch.write a l := rfl

/-! ## Completions -/

/-- A completion changes the host port, and the journal of the management port; nothing else. -/
def OnlyCompletions (s t : State) : Prop :=
  t = { s with host := t.host, mgmt := { s.mgmt with journal := t.mgmt.journal } }

theorem OnlyCompletions.trans {s t u : State} (h : OnlyCompletions s t) (k : OnlyCompletions t u) : OnlyCompletions s u := by
  unfold OnlyCompletions at *
  rw [k]
  conv_lhs => rw [h]

theorem OnlyCompletions.written (s : State) (m : Memory) (f : HostRing → HostRing) (n : RingIx) :
    OnlyCompletions s (({ s with host := { s.host with memory := m } } : State).modRing n f) := rfl

theorem State.raiseVector_completions (s : State) (v : Nat) : OnlyCompletions s (s.raiseVector v) := by
  unfold State.raiseVector
  repeat' split
  all_goals rfl

theorem State.signal_only (s : State) (n : RingIx) : OnlyCompletions s (s.signal n) := by
  dsimp only [State.signal]
  split
  · rfl
  · exact OnlyCompletions.trans (t := s.modRing n fun r => { r with holdoff := decide (r.holdoffUs > 0) }) rfl
      (State.raiseVector_completions _ _)

theorem State.writeCompletion_only (s : State) (c : Completion) : OnlyCompletions s (s.writeCompletion c) := by
  unfold State.writeCompletion
  exact ite_both (OnlyCompletions.trans (OnlyCompletions.written s _ _ _) (State.signal_only _ _)) (OnlyCompletions.written s _ _ _)

theorem State.putCompletion_only (s : State) (c : Completion) : OnlyCompletions s (s.putCompletion c) := by
  unfold State.putCompletion State.journalWrite
  split
  · rfl
  · split
    · split <;> rfl
    · exact State.writeCompletion_only s c

end Sys2Proof.Machine
end

