-- ==== Sys2Proof/Laws/Sills.lean ====
section
/-! SUPPORT. What a read of module memory can do when no check finds anything, said once: it moves bytes in the stacks' counters. -/

namespace Sys2Proof.Machine

/-! ## Reads that find nothing -/

/-- A stack as it was but for its counters and the bytes they count. -/
def Sill.OnlyCounters (x y : Sill) : Prop :=
  y = { x with counters := y.counters, readRest := y.readRest, writeRest := y.writeRest }

/-- `t` differs from `s` at most in the counters of its stacks. -/
def OnlySillCounters (s t : State) : Prop :=
  t = { s with sills := t.sills } ∧ ∀ m : SillId, (s.sill m).OnlyCounters (t.sill m)

theorem OnlySillCounters.trans {s t u : State} (h : OnlySillCounters s t) (k : OnlySillCounters t u) : OnlySillCounters s u := by
  refine ⟨k.1.trans (by rw [h.1]), fun m => ?_⟩
  have a := h.2 m
  have b := k.2 m
  unfold Sill.OnlyCounters at *
  rw [b, a]

theorem State.modSill_counters (s : State) (m : SillId) (f : Sill → Sill) (h : ∀ x, Sill.OnlyCounters x (f x)) :
    OnlySillCounters s (s.modSill m f) := by
  refine ⟨rfl, fun k => ?_⟩
  by_cases hk : m = k
  · subst hk
    rw [State.modSill_self]
    exact h _
  · rw [State.modSill_ne _ _ _ _ hk]
    rfl

theorem Sill.moveBytes_only (x : Sill) (isWrite : Bool) (n : Nat) : x.OnlyCounters (x.moveBytes isWrite n) := by
  unfold Sill.moveBytes Sill.OnlyCounters Sill.count
  split <;> rfl

/-- A sector that is neither poisoned nor on a retired page. -/
def State.sound (s : State) (x : SillId × Nat) : Prop :=
  (s.sill x.1).poison.contains x.2 = false ∧ (s.sill x.1).pageRetired (pageOf (x.2 * 64)) = false

theorem OnlySillCounters.sound {s t : State} (h : OnlySillCounters s t) (x : SillId × Nat) (hx : s.sound x) : t.sound x := by
  have a := h.2 x.1
  unfold Sill.OnlyCounters at a
  unfold State.sound Sill.pageRetired at *
  rw [a]
  exact hx

theorem State.eccRead_clean (s : State) (x : SillId × Nat) (h : s.sound x) : s.eccRead ⟨x.1, x.2, .clean, .none⟩ = (s, false) := by
  unfold State.eccRead
  rw [if_neg (by simp [h.2])]
  simp only [State.onDieReport, if_true, h.1]
  rfl

/-- Sound sectors in which a check finds nothing are read with no effect but the counted bytes, and none is bad (R151, R161). -/
theorem State.readList_clean (s : State) (l : List (SillId × Nat)) (counted : Bool) (h : ∀ x ∈ l, s.sound x) :
    OnlySillCounters s (s.readList l [] counted).1 ∧ (s.readList l [] counted).2 = [] := by
  unfold State.readList
  suffices H : ∀ (t : State), OnlySillCounters s t → (∀ x ∈ l, t.sound x) → ∀ r, r = l.foldl
      (fun (p : State × List (SillId × Nat)) x =>
        let (s, bad) := p
        let (m, sector) := x
        let s := if counted then s.modSill m fun y => y.moveBytes false 64 else s
        let e := match ([] : List SectorEvent).find? fun e => e.sill = m && e.sector = sector with
          | some e => e
          | none => ⟨m, sector, .clean, .none⟩
        let (s, b) := s.eccRead e
        (s, if b then bad ++ [(m, sector)] else bad)) (t, []) → OnlySillCounters s r.1 ∧ r.2 = [] from
    H s ⟨rfl, fun _ => rfl⟩ h _ rfl
  clear h
  induction l with
  | nil => rintro t ht _ r rfl; exact ⟨ht, rfl⟩
  | cons x l ih =>
    rintro t ht hs r rfl
    have hc : OnlySillCounters t (if counted then t.modSill x.1 fun y => y.moveBytes false 64 else t) :=
      ite_both (t.modSill_counters x.1 _ fun y => y.moveBytes_only false 64) ⟨rfl, fun _ => rfl⟩
    rw [List.foldl_cons]
    have e := State.eccRead_clean _ x (hc.sound x (hs x (List.mem_cons_self ..)))
    refine ih _ (ht.trans hc) (fun y hy => hc.sound y (hs y (List.mem_cons_of_mem _ hy))) _ ?_
    simp only [List.find?_nil, e]
    rfl

/-- A range whose sectors are all sound is delivered as it stands in memory (R151, R153). -/
theorem State.readThrough_clean (s : State) (a n : Nat) (h : ∀ x ∈ s.sectorsOf a n, s.sound (x.1, x.2.1)) :
    OnlySillCounters s (s.readThrough a n).2.1 ∧ (s.readThrough a n).1 = (s.readThrough a n).2.1.readMem a n ∧
      (s.readThrough a n).2.2 = false := by
  have hl := s.readList_clean ((s.sectorsOf a n).map fun x => (x.1, x.2.1)) true (by
    intro x hx
    obtain ⟨y, hy, rfl⟩ := List.mem_map.1 hx
    exact h y hy)
  unfold State.readThrough State.readSectors State.deliver
  generalize s.readList ((s.sectorsOf a n).map fun x => (x.1, x.2.1)) [] true = p at hl ⊢
  obtain ⟨t, bad⟩ := p
  obtain ⟨hc, rfl : bad = []⟩ := hl
  exact ⟨hc, rfl, rfl⟩

end Sys2Proof.Machine
end

