-- ==== Sys2Proof/Tests/Slice0.lean ====
section
/-! SUPPORT. Tests of the model: ill-formed commands that WellFormed refuses; for every statement with hypotheses a state and operands
that meet them, clause by clause; and single steps whose results the spec gives. -/

set_option Elab.async false

namespace Sys2Proof.Tests

open Sys2Proof Sys2Proof.Machine

/-! ## Small states -/

/-- A module that has left BOOT: IDLE, set up, with a driver that accepted every feature. -/
def idle : State :=
  { State.reset with
    kp := { State.reset.kp with state := .idle, peg := true }
    host := { State.reset.host with attached := true }
    mgmt := { State.reset.mgmt with accepted := 0x1FF } }

/-- The same module in another state. -/
def inState (m : ModState) : State := { idle with kp := { idle.kp with state := m } }

/-- A module with a step in progress. -/
def stepping : State :=
  { inState .running with
    job := { State.reset.job with current := some ⟨5, 0, 0, 0, 0⟩, phase := .running, previous := some (5, 0), ran := true } }

/-- A good request head. -/
def hd : ReqHead := ⟨7, true⟩

/-- Bay 0 of die 0. -/
def b0 : BayId := ⟨0, 0⟩

/-- The first thread of that bay. -/
def t0 : ThreadRef := ⟨b0, 0⟩

/-- A command head on that bay, counter 3. -/
def ch : CmdHead := ⟨b0, 3, true⟩

/-- A good descriptor head. -/
def dh : DescHead := ⟨false, 9, true⟩

/-- The module with its first thread ready and a register file given by a function. -/
def ready (f : Fin 16 → DWord) : State :=
  idle.modBay b0 fun y => { y with threads := y.threads.set 0 { mode := .ready, pc := 4, regs := Vector.ofFn f } }

/-- Ring 0 enabled. -/
def ringed (s : State) : State := s.modRing 0 fun r => { r with ctrl := 0x0B }

/-! ## Well-formedness: for each check a command that it refuses, and one that it passes -/

theorem wf_refuses_long_restore : (Instr.restoreHost 0 dh ⟨false, false, 0, 64, 0, 0, 0, 0⟩ []).wf = false := by decide
theorem wf_refuses_short_doorbell : (Instr.doorbellRead [0] 0 []).wf = false := by decide
theorem wf_refuses_found_restore :
    (Instr.doorbellRead (List.replicate 16 0) 0 [(0, ⟨dh, .restoreHost ⟨false, false, 0, 64, 0, 0, 0, 0⟩ []⟩)]).wf = false := by
  decide
theorem wf_refuses_write_past_bar2 : (Instr.apertureWrite 0xFFFFFFFFF [0, 0]).wf = false := by decide
theorem wf_refuses_empty_write : (Instr.apertureWrite 0 []).wf = false := by decide
theorem wf_refuses_read_past_bar2 : (Instr.apertureRead 0xFFFFFFFFF 2 []).wf = false := by decide
theorem wf_refuses_empty_read : (Instr.apertureRead 0 0 []).wf = false := by decide
theorem wf_refuses_sector_past_stack : (Instr.apertureRead 0 1 [⟨0, 1000000000, .clean, .none⟩]).wf = false := by decide
theorem wf_refuses_short_token : (Instr.debugUnlockPresent hd []).wf = false := by decide
theorem wf_refuses_seven_children : (Instr.verdictTree hd 0 true 0 (List.replicate 7 0)).wf = false := by decide
theorem wf_refuses_short_totals : (Instr.reductionBeat b0 0 0 0 []).wf = false := by decide
theorem wf_refuses_far_sector : (Instr.sillTransferStart 0 [⟨0, 1000000000, .clean, .none⟩]).wf = false := by decide
theorem wf_refuses_fifteen_sites : (Instr.drawSample (List.replicate 15 0) ⟨0, false⟩).wf = false := by decide
theorem wf_refuses_fifteen_needs : (Instr.limiterShare (List.replicate 15 0)).wf = false := by decide
theorem wf_refuses_long_chunk : (Instr.i3cAcornWrite (List.replicate 262 0)).wf = false := by decide +kernel
theorem wf_refuses_three_returns :
    (Instr.creditAck 0 ⟨0, 0, false, 0, [0, 0, 0], ⟨List.replicate 9 0, List.replicate 9 0, 0⟩⟩).wf = false := by decide
theorem wf_refuses_eight_lanes :
    (Instr.creditAck 0 ⟨0, 0, false, 0, [0, 0, 0, 0], ⟨List.replicate 8 0, List.replicate 9 0, 0⟩⟩).wf = false := by decide
theorem wf_refuses_three_credits : (Instr.hello 0 ⟨0, 1, 0, 1, 1, 0, 0x1FF, [0, 0, 0]⟩).wf = false := by decide
theorem wf_refuses_tenon_without_lanes :
    (Instr.tenonReceive 0 ⟨⟨0, 0, 0, 1, 0x10, 0, 0, []⟩, 0, ⟨[], [], 0⟩, 0, true, true⟩).wf = false := by decide
theorem wf_refuses_long_tenon : (Instr.tenonReceive 0
    ⟨⟨0, 0, 0, 1, 0x10, 0, 0, List.replicate 16385 0⟩, 0, ⟨List.replicate 9 0, List.replicate 9 0, 0⟩, 0, true, true⟩).wf = false := by
  decide +kernel
theorem wf_takes_the_rest : (Instr.marker 0 dh).wf = true ∧ (Instr.doorbellRead (List.replicate 16 0) 0 []).wf = true ∧
    (Instr.apertureWrite 0 [1]).wf = true ∧ (Instr.segmentStart 0 [⟨0, 3, 0⟩]).wf = true ∧
    (Instr.i3cAcornWrite (List.replicate 261 0)).wf = true := by decide +kernel

/-! ## Witnesses: management requests -/

theorem wit_RequestsAreAnswered :
    (idle.eventRoom = true ∧ idle.mgmt.waiting = []) ∧
    (let s : State := { idle with mgmt := { idle.mgmt with evtProduced := 4096 } }
     s.eventRoom = false) ∧
    (idle.kp.state ≠ .boot ∧ idle.coreRuns .scheduler = true ∧ (⟨7, false⟩ : ReqHead).reservedClear = false) ∧
    ((inState .acorn).kp.state ≠ .boot ∧ (inState .acorn).coreRuns .scheduler = true ∧ hd.reservedClear = true ∧
      (inState .acorn).kp.state = .acorn ∧ acornTakes .detach = false) := by
  decide

/-- A module in ORPHANED: its driver is lost. -/
def orphan : State := { inState .orphaned with host := { idle.host with driverLost := true, lossCause := 5 } }

/-- No FUNCTION request waits in any bay of a fresh module. -/
theorem no_function_waits : ∀ b : BayId, (State.reset.bay b).funcWaiting = [] := by
  intro b
  have h : ∀ (d : DieId) (i : BayIx), (State.reset.bay ⟨d, i⟩).funcWaiting = [] := by decide
  exact h b.die b.bay

theorem idle_atRest : atRest idle := ⟨rfl, rfl, rfl, no_function_waits⟩
theorem inState_atRest (m : ModState) : atRest (inState m) := ⟨rfl, rfl, rfl, no_function_waits⟩
theorem orphan_atRest : atRest orphan := ⟨rfl, rfl, rfl, no_function_waits⟩

theorem wit_DriverRequestsTakeEffect :
    (let s : State := { idle with host := { idle.host with attached := false } }
     servesNow s hd = true ∧ s.kp.state = .idle ∧ s.kp.peg = true ∧ s.attachedNow = false ∧ (3600 : Word).toNat ≤ 3600) ∧
    (servesNow idle hd = true ∧ idle.attachedNow = true) ∧
    (let f : AdoptFields := ⟨0, 3600, 0, 0xFFC00, 0xFFFC0, 0⟩
     servesNow orphan hd = true ∧ orphan.kp.state = .orphaned ∧ atRest orphan ∧ orphan.job.saves = [] ∧
       orphan.hasFeature 8 = true ∧ f.heartbeat.toNat ≤ 3600 ∧ scratchGood f.resultOffset.toNat 64 = true ∧
       scratchGood f.ringTable.toNat 512 = true) := by
  refine ⟨by decide, by decide, by decide, by decide, orphan_atRest, by decide, by decide, by decide, by decide, by decide⟩

/-- A bundle has been loaded, for the mode that is in force, and the verdict tree stands. -/
def loaded : State :=
  { idle with
    coll := { idle.coll with tree := some ⟨0, true, []⟩ }
    loader := { idle.loader with inEffect := some (default : Bundle) } }

theorem wit_JobAndFunctionRequestsTakeEffect :
    (servesNow loaded hd = true ∧ loaded.kp.state = .idle ∧ atRest loaded ∧ loaded.canArm = true ∧ (3600 : Word).toNat ≤ 3600) ∧
    (servesNow (inState .armed) hd = true ∧ (inState .armed).kp.state = .armed ∧ atRest (inState .armed)) ∧
    ((idle.bay b0).funcActive = [] ∧ (idle.bay b0).func .bay = .enabled) ∧
    (let s := idle.modBay b0 fun y => y.setFunc .bay .aborted
     (s.bay b0).funcActive = [] ∧ (s.bay b0).func .bay = .aborted ∧ s.kp.state = .idle) := by
  refine ⟨⟨by decide, by decide, ⟨rfl, rfl, rfl, no_function_waits⟩, by decide, by decide⟩,
    ⟨by decide, by decide, inState_atRest _⟩, by decide, by decide⟩

theorem wit_TableRequestsTakeEffect :
    servesNow idle hd = true ∧ idle.tableState = true ∧ idle.attachedNow = true ∧
    (0 < (32768 : BitVec 16).toNat ∧ (0 : BitVec 16).toNat + (32768 : BitVec 16).toNat ≤ 32768 ∧
      scratchGood (0xF8000 : Word).toNat (32768 : BitVec 16).toNat = true) ∧
    (List.replicate 8 (1 : BitVec 15)).length ≤ 8 ∧
    scratchGood (0xFFFC0 : Word).toNat idle.retiredBytes.length = true ∧
    ((8 : Byte).toNat ≤ 8 ∨ (8 : Byte) = 0xFF) ∧ ((0xFF : Byte).toNat ≤ 8 ∨ (0xFF : Byte) = 0xFF) ∧
    ((idle.link 0).state = .down ∨ (idle.link 0).state = .refused) := by
  decide

/-- A module whose payload scratch holds the given bytes at 0, with valid board time. -/
def scratched (s : State) (bytes : List Byte) : State :=
  { s with mgmt := { s.mgmt with scratch := Memory.write [] 0 bytes }, clk := { s.clk with valid := true } }

/-- A plan of one minute, minute 1. -/
def onePlan : List Byte := leBytes 8 60000000000 ++ leBytes 2 1 ++ List.replicate 22 0 ++ leBytes 2 180 ++ List.replicate 6 0

theorem wit_PlanAndLogRequestsTakeEffect :
    servesNow idle hd = true ∧ idle.attachedNow = true ∧
    (let s := scratched idle onePlan
     servesNow s hd = true ∧ s.attachedNow = true ∧ s.hasFeature 4 = true ∧ s.clk.valid = true ∧
       scratchGood (0 : Word).toNat (40 : Word).toNat = true ∧
       parsePlan (s.readScratch (0 : Word).toNat (40 : Word).toNat) = some (1, [⟨180, 0, 0⟩]) ∧ s.minuteNow < 1) ∧
    scratchGood (0xFFFC0 : Word).toNat idle.planBytes.length = true ∧
    (0 < (16384 : Word).toNat ∧ (16384 : Word).toNat ≤ 16384 ∧ scratchGood (0 : Word).toNat (64 * (16384 : Word).toNat) = true) ∧
    (itemScan ≤ (6 : Byte).toNat ∧ (6 : Byte).toNat < itemMarch) := by
  decide

/-- The parts record's bytes are a free value: for any of at most 1 MiB the request fits the scratch. -/
theorem wit_partsRead (h : (Config.partsBytes idle.partsFacts).length ≤ 2 ^ 20) :
    scratchGood (0 : Word).toNat (Config.partsBytes idle.partsFacts).length = true := by
  simp only [scratchGood, Bool.and_eq_true, decide_eq_true_eq]
  exact ⟨by decide, by simpa using h⟩

/-! ## Witnesses: a bundle and a package in memory -/

/-- A module whose stack 0 holds the given bytes at the start of its local window. -/
def holding (bytes : List Byte) : State := idle.modSill 0 fun x => { x with dram := x.dram.write 0x400000000 bytes }

theorem holding_reads (s : State) (bytes : List Byte) (h : bytes.length ≤ 4096) (hc : s.cfg = idle.cfg)
    (hd : (s.sill 0).dram = ((holding bytes).sill 0).dram) : s.readMem 0x400000000 bytes.length = bytes := by
  rw [s.readMem_local 0 0x400000000 0x400000000 bytes.length (by norm_num) (by
    unfold State.interleave
    rw [hc]
    decide) (by unfold stackBytes; omega)]
  rw [hd]
  simp only [holding, State.modSill_self]
  exact Memory.read_write _ _ _

theorem fresh_poison (m : SillId) (n : Nat) : (idle.sill m).poison.contains n = false := by
  have h : ∀ m : SillId, (idle.sill m).poison = [] := by decide
  rw [h m]
  rfl

theorem fresh_pages (m : SillId) (n : Nat) : (idle.sill m).pageRetired n = false := by
  have h : ∀ m : SillId, (idle.sill m).retired = [] := by decide
  unfold Sill.pageRetired
  rw [h m]
  rfl

theorem checkBundle_ok (s : State) (image : List Byte) (addr : Nat) (b : Bundle) (hb : buildBundle image addr s.cfg.mode = b)
    (h1 : s.headerFault image image.length = none) (h2 : sectionsFault image = none) (h3 : s.featuresFault b = false)
    (h4 : s.bindsAll b s.kp.shape = true) (h5 : s.contentFault image b = none) (h6 : s.bindFault image b = none) :
    s.checkBundle image addr = .ok b := by
  subst hb
  simp only [State.checkBundle, h1, h2, h3, h4, h5, h6, Bool.not_true, if_neg Bool.false_ne_true, Option.orElse_none]

/-- Whatever is read from the fresh local window of stack 0, nothing is found and it stands there. -/
theorem holding_readThrough (bytes : List Byte) (h : bytes.length ≤ 4096) :
    let p := (requestTaken (holding bytes)).readThrough 0x400000000 bytes.length
    p.1 = bytes ∧ OnlySillCounters (requestTaken (holding bytes)) p.2.1 := by
  obtain ⟨hc, hr, -⟩ := (requestTaken (holding bytes)).readThrough_clean 0x400000000 bytes.length
    (fun x _ => ⟨by
      by_cases hx : (0 : SillId) = x.1
      · rw [← hx]; rfl
      · exact congrArg (fun y => y.poison.contains x.2.1) (State.modSill_ne idle 0 x.1 _ hx) |>.trans (fresh_poison x.1 x.2.1), by
      by_cases hx : (0 : SillId) = x.1
      · rw [← hx]; rfl
      · exact congrArg (fun y => y.pageRetired (pageOf (x.2.1 * 64))) (State.modSill_ne idle 0 x.1 _ hx) |>.trans
          (fresh_pages x.1 _)⟩)
  refine ⟨hr.trans (holding_reads _ bytes h ?_ ?_), hc⟩
  · rw [hc.1]; rfl
  · have a := hc.2 0
    unfold Sill.OnlyCounters at a
    rw [a]
    rfl

/-- An Onesk image whose only word is STOP, up to the next image. -/
def stopImage : List Byte := List.replicate 20 0 ++ [1, 0] ++ List.replicate 42 0 ++ [0x3F, 0, 0, 0] ++ List.replicate 60 0

/-- A bundle of one ONESK section for every die, at shape 16 and variant 4-4-4-4. -/
def tinyBundle : List Byte :=
  leBytes 4 0x434D5242 ++ [1, 0, 1, 0, 0x10, 0x10, 0, 0] ++ leBytes 4 1 ++ List.replicate 80 0 ++ leBytes 8 832 ++
  List.replicate 152 0 ++ leBytes 2 0x20 ++ [16, 0xFF] ++ leBytes 2 2340 ++ [0, 0] ++ leBytes 8 320 ++ leBytes 8 512 ++
  List.replicate 8 0 ++ List.replicate 32 0 ++ stopImage ++ stopImage ++ stopImage ++ stopImage

set_option maxRecDepth 20000 in
/-- The bundle passes every check of a LOAD, where its digest is the SHA-384 that its header names, whatever the stacks count. -/
theorem tinyBundle_passes (h : Config.sha384 (digestInput tinyBundle) = imageDigest tinyBundle) (x : State)
    (hx : OnlySillCounters (requestTaken (holding tinyBundle)) x) : ∃ b, x.checkBundle tinyBundle 0x400000000 = .ok b := by
  have h1 : (requestTaken (holding tinyBundle)).headerFault tinyBundle tinyBundle.length = none := by
    unfold State.headerFault
    rw [if_neg (by decide), if_neg (by simp [h]), if_neg (by decide), if_neg (by decide)]
  have h2 : sectionsFault tinyBundle = none := by decide
  have h3 : (requestTaken (holding tinyBundle)).featuresFault (buildBundle tinyBundle 0x400000000 .train) = false := by decide
  have h4 : (requestTaken (holding tinyBundle)).bindsAll (buildBundle tinyBundle 0x400000000 .train) 16 = true := by decide
  have h5 : (requestTaken (holding tinyBundle)).contentFault tinyBundle (buildBundle tinyBundle 0x400000000 .train) = none := by
    decide
  have h6 : (requestTaken (holding tinyBundle)).bindFault tinyBundle (buildBundle tinyBundle 0x400000000 .train) = none := by
    decide
  refine ⟨buildBundle tinyBundle 0x400000000 .train, ?_⟩
  rw [hx.1]
  exact checkBundle_ok _ _ _ _ rfl h1 h2 h3 h4 h5 h6

set_option maxRecDepth 20000 in
theorem wit_load (h : Config.sha384 (digestInput tinyBundle) = imageDigest tinyBundle) :
    let s := holding tinyBundle
    let addr : DWord := 0x400000000
    let length : DWord := 832
    servesNow s hd = true ∧ s.loadState = true ∧ length ≠ 0 ∧ addr.toNat + length.toNat ≤ 2 ^ 40 ∧
      s.inMemory addr.toNat length.toNat = true ∧
      let p := (requestTaken s).readThrough addr.toNat length.toNat
      ∃ b, p.2.1.checkBundle p.1 addr.toNat = .ok b := by
  have ⟨hr, hc⟩ := holding_readThrough tinyBundle (by decide)
  refine ⟨by decide, by decide, by decide, by decide, by decide, ?_⟩
  obtain ⟨b, hb⟩ := tinyBundle_passes h _ hc
  exact ⟨b, (congrArg (fun i => State.checkBundle _ i 0x400000000) hr).trans hb⟩

/-- A FULL package of an 8-byte image. -/
def tinyPackage : List Byte :=
  leBytes 4 0x46555044 ++ [1, 0, 2, 0] ++ List.replicate 104 0 ++ leBytes 8 8 ++ List.replicate 200 0 ++ List.replicate 8 1

/-- What it parses to. -/
def tinyParsed : Package' :=
  { delta := false, version := 0, svn := 0, source := 0, target := 0, sig := 0, owner := 0, payload := List.replicate 8 1 }

set_option maxRecDepth 20000 in
/-- For a package whose signature verifies, whatever the free functions of R383 answer else. -/
theorem wit_updateStage (h : Config.verifyUpdate (signedBytes tinyPackage) 0 = true) :
    let s := holding tinyPackage
    let addr : DWord := 0x400000000
    let length : DWord := 328
    ∃ p, servesNow s hd = true ∧ s.updateBar = none ∧ s.updateBusy = false ∧ length ≠ 0 ∧ addr.toNat + length.toNat ≤ 2 ^ 40 ∧
      s.inMemory addr.toNat length.toNat = true ∧
      parsePackage ((requestTaken s).readThrough addr.toNat length.toNat).1 = some p ∧
      ∀ x : State, x.cfg = s.cfg.emptyOther → x.sec = s.sec →
        x.packageFault ((requestTaken s).readThrough addr.toNat length.toNat).1 p = none := by
  have ht : ((requestTaken (holding tinyPackage)).readThrough 0x400000000 328).1 = tinyPackage :=
    (holding_readThrough tinyPackage (by decide)).1
  have hp : parsePackage tinyPackage = some tinyParsed := by decide +kernel
  refine ⟨tinyParsed, by decide, by decide, by decide, by decide, by decide, by decide, ?_, ?_⟩
  · show parsePackage ((requestTaken (holding tinyPackage)).readThrough 0x400000000 328).1 = some tinyParsed
    rw [ht, hp]
  · intro x _ hx
    show x.packageFault ((requestTaken (holding tinyPackage)).readThrough 0x400000000 328).1 tinyParsed = none
    rw [ht]
    simp only [State.packageFault, tinyParsed, h]
    have hm : x.sec.svnMin = 0 := by rw [hx]; rfl
    rw [hm]
    simp

/-! ## Witnesses: configuration, security, Onesk -/

/-- A base record with no entry, its CRC in place. -/
def emptyBase : List Byte :=
  let head := leBytes 4 0x43464752 ++ [0, 0, 0, 0, 0, 0] ++ List.replicate 18 0
  head ++ leBytes 4 (crc32c (head ++ List.replicate 4 0)).toNat

/-- The same for the overlay of KIND 1. -/
def emptyOverlay : List Byte :=
  let head := leBytes 4 0x43464752 ++ [0, 0, 1, 0, 0, 0] ++ List.replicate 18 0
  head ++ leBytes 4 (crc32c (head ++ List.replicate 4 0)).toNat

theorem wit_ConfigurationRequests :
    (servesNow idle hd = true ∧ idle.kp.state = .idle ∧ OpMode.calibrate ≠ idle.cfg.mode ∧ OpMode.rollout ≠ idle.cfg.mode ∧
      idle.hasFeature 2 = true) ∧
    (let s := scratched idle emptyBase
     servesNow s hd = true ∧ s.configState = true ∧ s.sec.owner = none ∧ scratchGood (0 : Word).toNat (32 : Word).toNat = true ∧
       parseConfig s.cfg.active.format (s.readScratch (0 : Word).toNat (32 : Word).toNat) = some (0, []) ∧
       s.oldFormatHolds [] = true) ∧
    (let s := scratched idle emptyOverlay
     parseConfig s.cfg.active.format (s.readScratch (0 : Word).toNat (32 : Word).toNat) = some (1, [])) ∧
    (overlayKind 1 = true ∧ overlayKind 15 = true) ∧
    scratchGood (0xFE000 : Word).toNat idle.configImage.length = true := by
  decide +kernel

/-- A module whose owner lock is set, with its nonce given. -/
def locked : State := { idle with sec := { idle.sec with owner := some 1, ownerNonce := some 2 } }

theorem wit_ownerClears (h : Config.verifyOwner 1 (leBytes 16 0 ++ leBytes 48 2) 3 = true) :
    servesNow locked hd = true ∧ locked.ownerClears 3 = true :=
  ⟨by decide, h⟩

/-- A token of level 1 for this module and nonce 5. -/
def token : List Byte :=
  leBytes 4 0x4442474B ++ [1, 0, 0, 0] ++ List.replicate 16 0 ++ leBytes 48 5 ++ List.replicate 120 0

theorem wit_tokenGood (h : Config.verifyDebug (token.take 96) 0 = true) :
    let s : State := { idle with sec := { idle.sec with debugNonce := some (5, 0) } }
    servesNow s hd = true ∧ s.tokenGood token = true ∧ s.kp.state = .idle ∧ fieldAt token 4 1 ≠ 2 := by
  refine ⟨by decide, ?_, by decide, by decide⟩
  have h1 : BitVec.ofNat 768 (fieldAt token 96 96) = 0 := by decide +kernel
  simp only [State.tokenGood, h1, h]
  decide +kernel

theorem wit_UpdateRequestsTakeEffect :
    ((hd.reservedClear = true ∧ (inState .acorn).kp.state = .acorn ∧ (inState .acorn).coreRuns .scheduler = true ∧
        (inState .acorn).fw.restarting[0] = false) ∧
      0 < (0x100000 : Word).toNat ∧ (0x100000 : Word).toNat ≤ 2 ^ 20 ∧
      scratchGood (0 : Word).toNat (0x100000 : Word).toNat = true) ∧
    (let s : State := { idle with cfg := { idle.cfg with slots := #v[⟨.trial, 0, 0, 3, 0⟩, ⟨.fallback, 0, 0, 0, 0⟩] } }
     servesNow s hd = true ∧ s.attachedNow = true ∧ s.cfg.active.state = .trial ∧ s.cfg.rolling = none ∧ s.cfg.schedule = none) ∧
    (let s : State := { idle with cfg := { idle.cfg with slots := #v[⟨.active, 0, 0, 0, 0⟩, ⟨.staged, 1, 1, 0, 0⟩] } }
     servesNow s hd = true ∧ s.cfg.rolling = none ∧ s.cfg.other.state = .staged ∧ s.cfg.schedule = none) := by
  decide

/-- A staged image waits in slot B. -/
def staged : State := { idle with cfg := { idle.cfg with slots := #v[⟨.active, 0, 0, 0, 0⟩, ⟨.staged, 1, 1, 0, 0⟩] } }

/-- For two images that are compatible, whatever the free functions of R388 answer else: no link is up. -/
theorem wit_updateSchedule (h : Config.imagesCompatible 0 1 = true) :
    servesNow staged hd = true ∧ staged.cfg.other.state = .staged ∧ staged.scheduleBar true 0 0 = none := by
  have hc : staged.compatible staged.cfg.active staged.cfg.other = true := by
    show (Config.imagesCompatible 0 1 && _) = true
    rw [h]
    decide
  refine ⟨by decide, by decide, ?_⟩
  simp only [State.scheduleBar, hc]
  decide

/-! ## Witnesses: threads and engines -/

/-- The first thread is ready, register k holds k. -/
def counting : State := ready fun k => BitVec.ofNat 64 k.val

/-- The bay's program has 8 words. -/
def coded : State := counting.modBay b0 fun y => { y with banks := y.banks.set 0 (List.replicate 8 0) }

theorem coded_ready : threadReady coded t0 := by
  unfold threadReady
  decide

theorem wit_OneskInstructions :
    threadReady coded t0 ∧ ((coded.thread t0).regs[7]).toNat < (coded.bay b0).codeWords ∧
    (coded.kp.state ≠ .running ∧ (coded.bay b0).codeWords ≤ ((coded.thread t0).regs[8]).toNat) ∧
    coded.abandoning = false ∧
    (let y := (coded.modBay b0 fun y => { y with lastIssued := 5 }).bay b0
     (y.threads[y.lastIssued + 1 + (2 : Fin 8)]).mode = .ready ∧
       ∀ m : Fin 8, m < 2 → (y.threads[y.lastIssued + 1 + m]).mode ≠ .ready) :=
  ⟨coded_ready, by decide⟩

/-- A core with a ready thread, and one with none. -/
theorem wit_StallWatchdog :
    (∀ t : ThreadIx, ((idle.bay b0).threads[t]).mode ≠ .ready) ∧
    (((counting.bay b0).threads[0]).mode = .ready ∧ counting.kp.state ≠ .running) := by
  decide

/-- The last aligned 8 bytes of data memory, and the first word past it; a misaligned word. -/
theorem wit_OneskLoads :
    (let addr := (((counting.thread t0).regs[0]).toInt + (8 : Nat) * (8191 : BitVec 16).toInt) % 2 ^ 64
     addr.toNat % 8 = 0 ∧ addr.toNat + 8 ≤ 65536) ∧
    (let addr := (((counting.thread t0).regs[0]).toInt + (4 : Nat) * (16383 : BitVec 16).toInt) % 2 ^ 64
     addr.toNat % 4 = 0 ∧ addr.toNat + 4 ≤ 65536) ∧
    (let addr := ((((counting.thread t0).regs[0]).toInt + (8 : Nat) * (8192 : BitVec 16).toInt) % 2 ^ 64).toNat
     65536 < addr + 8) ∧
    (let addr := ((((counting.thread t0).regs[4]).toInt + (8 : Nat) * (0 : BitVec 16).toInt) % 2 ^ 64).toNat
     addr % 8 ≠ 0) ∧
    (let addr := ((((counting.thread t0).regs[2]).toInt + (4 : Nat) * (0 : BitVec 16).toInt) % 2 ^ 64).toNat
     addr % 4 ≠ 0) ∧
    6 ≤ (6 : BitVec 4).toNat := by
  decide

/-- A bay whose VECTOR engine runs a ROW, with commands waiting behind it. -/
def busy (waiting : Nat) : State :=
  counting.modQueue b0 .vector fun q =>
    { q with running := some ⟨2, .row default, .done⟩, waiting := List.replicate waiting ⟨1, true, .malformed⟩ }

theorem wit_PushesFillTheirQueues :
    ((busy 63).abandoning = false ∧ ((busy 63).bay t0.bay).nextReady = some t0.thread ∧ ((busy 63).bay b0).func .bay = .enabled ∧
      ((busy 63).bay b0).queueState .vector = .enabled ∧ (((busy 63).bay b0).queue .vector).producer = t0.thread ∧
      (((busy 63).bay b0).queue .vector).waiting.length < 64 ∧ (((busy 63).bay b0).queue .vector).running ≠ none) ∧
    64 ≤ (((busy 64).bay b0).queue .vector).waiting.length ∧
    (let at' := ((((busy 63).thread t0).regs[0]).toInt + (0x7FC0 : BitVec 16).toInt) % 2 ^ 64
     at'.toNat % 64 = 0 ∧ at'.toNat + 64 ≤ 65536) ∧
    (let s := (busy 63).modBay b0 fun y => { y with threads := y.threads.set 1 { mode := .stall .vector 1 true .malformed } }
     ((s.bay b0).threads[1]).mode = .stall .vector 1 true .malformed ∧
       (∀ j : ThreadIx, j < 1 → ((s.bay b0).threads[j]).mode = .ready) ∧
       ((s.bay b0).queue .vector).waiting.length < 64 ∧ ((s.bay b0).queue .vector).running ≠ none) ∧
    (let s := counting.modQueue b0 .vector fun q => { q with producer := 1 }
     (s.bay b0).func .bay = .enabled ∧ ((s.bay b0).queue .vector).producer ≠ t0.thread ∧ s.kp.state ≠ .running) := by
  decide

theorem all_engines_free (q : QueueIx) : engineFree idle ch q := by
  cases q <;> exact ⟨by decide, by decide, by decide, by decide⟩

/-- An open stream 0 of bay 0 with two filled element buffers. -/
def streaming : State :=
  idle.modStream b0 0 fun t => { t with
    isOpen := true, conf := { (default : OpenFields) with outstanding := 4 },
    buffers := [⟨0, false, 3, 0, true, 65536, false, []⟩, ⟨1, false, 4, 0, true, 65536, false, []⟩] }

theorem streaming_free (q : QueueIx) : engineFree streaming ch q := by
  cases q <;> exact ⟨by decide, by decide, by decide, by decide⟩

theorem wit_FetchQueueCommandsTakeEffect :
    (let f : OpenFields := ⟨5, 0, 1, 0, 1, 1, 1, 0, 4, 0⟩
     engineFree idle ch .fetch ∧ f.stream = 5 ∧ idle.openGood b0 f = true) ∧
    (engineFree streaming ch .fetch ∧ (streaming.stream b0 0).isOpen = true ∧ (streaming.stream b0 0).conf.mode ≠ 2 ∧
      1 ≤ (1 : BitVec 10).toNat ∧ (512 : BitVec 10).toNat ≤ 512) ∧
    ((streaming.stream b0 0).canRelease false 2 = true) ∧
    ((idle.stream b0 0).mcasts = [] ∧ (idle.stream b0 0).mcTargets = [] ∧ (idle.stream b0 0).appended = []) ∧
    (let s := streaming.modStream b0 0 fun t => { t with posted := 1, appended := [(1, storeDesc default 0 1)] }
     (s.stream b0 0).mcasts = [] ∧ (s.stream b0 0).mcTargets = [] ∧ (s.stream b0 0).fetched < (s.stream b0 0).posted ∧
       ∀ x ∈ (s.stream b0 0).appended, x.1 ≤ (s.stream b0 0).posted) := by
  refine ⟨⟨all_engines_free _, by decide, by decide +kernel⟩, ⟨streaming_free _, by decide, by decide, by decide, by decide⟩, by decide,
    by decide, by decide⟩

/-- A static STORE of one row from the start of the loft to stack 0, and an open STORE stream with one posted descriptor. -/
theorem wit_StoreRunsOrJoins :
    (engineFree idle ch .store ∧
      (let f : StoreFields := ⟨0, true, false, 0, 0x400000000, 1, 64, 64, 0, 0, 0⟩
       f.isStatic = true ∧ idle.staticStoreGood b0 (storeDesc f 0 3) = true)) ∧
    (let s := streaming.modStream b0 0 fun t => { t with conf := { t.conf with mode := 1 }, posted := 1 }
     engineFree s ch .store ∧ (s.stream b0 0).isOpen = true ∧ (s.stream b0 0).conf.mode = 1 ∧
       (s.stream b0 0).fetched < (s.stream b0 0).posted ∧ (s.bay b0).funcWaiting = []) := by
  refine ⟨⟨all_engines_free _, by decide +kernel⟩, ⟨by decide, by decide, by decide, by decide⟩, by decide⟩

/-- Region 1 of the bay is open, resident, two rows of 512 columns; segment 6 was the last to end. -/
def kilned : State :=
  (idle.modRegion b0 1 fun _ => ⟨.isOpen, 2, 2, false, 100, 0, [3]⟩).modDie 0 fun r => { r with lastEnded := some 6 }

theorem kilned_free : engineFree kilned ch .kiln := ⟨by decide, by decide, by decide, by decide⟩

theorem wit_KilnCommandsTakeEffect :
    (engineFree kilned ch .kiln ∧ kilned.kilnOpenGood b0 ⟨0, 1, 1, false, 104849, 0⟩ = true ∧
      kilned.kilnOpenGood b0 ⟨2, 1, 1, true, 0, 32⟩ = true) ∧
    (let f : ReadoutFields := ⟨1, 6, 0, 1024, 0⟩
     (kilned.die 0).segmentEnded f.segment = true ∧ kilned.readoutGood b0 f = true) ∧
    (let f : ReadoutFields := ⟨1, 7, 0, 1024, 0⟩
     (kilned.die 0).segmentEnded f.segment = false ∧ kilned.readoutGood b0 f = true) ∧
    kilned.readoutGood b0 ⟨2, 6, 0, 1024, 0⟩ = false ∧
    (let g := kilned.region b0 1
     g.state = .isOpen ∧ 1 < g.rows ∧ 1 < g.cols256 ∧ g.spill = false ∧ g.rows ≤ 2) ∧
    ((stepping.region b0 1).state ≠ .isOpen ∧ stepping.kp.state = .running ∧ stepping.job.phase = .running) := by
  exact ⟨⟨kilned_free, by decide, by decide⟩, by decide, by decide, by decide, by decide, by decide⟩

theorem wit_totals : (List.replicate 256 (0 : W40)).length = 256 := List.length_replicate

/-- A bundle is in effect whose ledger map names entry 5, in A8. -/
def mapped : State := { idle with loader := { idle.loader with
  inEffect := some { (default : Bundle) with ledger := [(0, none, [{ (default : LedgerInit) with entry := 5 }])] } } }

theorem wit_VectorCommands :
    (let f : ElemFields := ⟨1, 4, 4, false, 0, 0x3FFFFFFC, 0x3FFFFFFC, 0, 0x3FFFFFFC, 1, 0⟩
     idle.elemGood 0 f = true ∧ vecFmt f.inFmt = some .f32 ∧ vecFmt f.outFmt = some .f32 ∧ f.op = 1 ∧ f.inFmt = 4 ∧ f.outFmt = 4 ∧ f.delayed = false ∧ f.release = 0 ∧ 0 < f.count.toNat ∧
       f.srcA.toNat + 4 * f.count.toNat ≤ 2 ^ 30 ∧ f.srcB.toNat + 4 * f.count.toNat ≤ 2 ^ 30 ∧
       f.dst.toNat + 4 * f.count.toNat ≤ 2 ^ 30) ∧
    (let f : ElemFields := ⟨1, 4, 0, true, 5, 0, 4096, 0, 8192, 256, 0⟩
     mapped.elemGood 0 f = true ∧ vecFmt f.inFmt = some .f32 ∧ vecFmt f.outFmt = some (.block .a8) ∧ f.delayed = true) ∧
    (let f : RowFields := ⟨1, 4, 4, 4, 2, 0, 0, 64, 0, 0⟩
     rowGood f = true ∧ vecFmt f.inFmt = some .f32 ∧ vecFmt f.outFmt = some .f32) ∧
    (let f : MaskFields := ⟨0, 0, 1, 0, 0, 0, 0, 0, 0⟩
     let tile : MaskTile := ⟨2, 2, false⟩
     maskGood f tile = true ∧ 0 < tile.rows ∧ 1 < tile.cols ∧ maskedAt (idle.die 0).loft f 0 1 = true) := by
  decide

theorem wit_CommandsCompleteAndRefusals :
    (((idle.bay b0).queue .store).running = none ∧ ((idle.bay b0).queue .store).waiting = []) ∧
    (let r : RunningCmd := ⟨2, .row default, .done⟩
     (((busy 0).bay b0).queue .vector).running = some r ∧ (busy 0).canFinish b0 r.cmd r.status = true ∧
       (default : RowFields).release = 0 ∧ (((busy 0).bay b0).queue .vector).waiting = [] ∧ ((busy 0).bay b0).funcWaiting = [] ∧
       ((busy 0).bay b0).func .bay ≠ .quiescing ∧ ((busy 0).bay b0).func .vector ≠ .quiescing ∧
       ((busy 0).bay b0).func .fetch ≠ .quiescing ∧ ((busy 0).bay b0).func .store ≠ .quiescing) ∧
    (let s := idle.modQueue b0 .store fun q => { q with running := some ⟨2, .store default, .done⟩ }
     ((s.bay b0).queue .store).running = some ⟨2, .store default, .done⟩ ∧ s.canFinish b0 (.store default) .done = false) ∧
    ((idle.bay b0).queueState .vector = .enabled ∧ ((0 : Byte) = 0 ∨ 0x20 ≤ (0 : Byte).toNat ∨ ch.unusedClear = false) ∧
      ((0x20 : Byte) = 0 ∨ 0x20 ≤ (0x20 : Byte).toNat)) ∧
    (let s := idle.modBay b0 fun y => y.setFunc .bay .disabled
     (s.bay b0).queueState .fetch = .disabled ∧ (s.bay b0).queueState .kiln = .disabled ∧
       (s.bay b0).queueState .vector = .disabled) ∧
    (let s := idle.modBay b0 fun y => y.setFunc .bay .aborted
     (s.bay b0).queueState .fetch = .aborted) := by
  decide

/-! ## Witnesses: the ring, the streams and the stacks -/

/-- A slot with nothing in it, and one with a single act. -/
def plainSlot : SwitchSlot := ⟨[], [], [], []⟩
def actSlot (a : RingAct) : SwitchSlot := ⟨[], [], [], [a]⟩

/-- A module whose die 0 runs segment 3 of bay 0, with the given slots, bent 2 claimed, the first `n` issued. -/
def segmented (slots : List SwitchSlot) (n : Nat) : State :=
  stepping.modDie 0 fun r => { r with segment := some ⟨[0], 4, 3, n, false, slots⟩ }

theorem wit_ring_entries : (0 : Nat) < 256 ∧ (0 : Nat) ≠ 1 := by decide

/-- One STATIC element buffer and one train buffer of stream 0, holding a full plank each. -/
def fed : State :=
  streaming.modStream b0 0 fun t => { t with
    buffers := (List.range 32).map fun n => ⟨n, false, n, 0, true, 65536, false, [⟨0, true, 256, 256, 0, 0⟩]⟩ }

theorem wit_RingQueueCommands :
    (engineFree idle ch .ring) ∧
    (let f : PassFields := { (default : PassFields) with planks := 1, headBent := 0x1F, turned := true, trainSeq := 31 }
     engineFree fed ch .ring ∧ fed.passReady b0 f = true ∧ fed.passGood b0 f = true ∧ fed.passFits b0 f = true) ∧
    (let f : PassFields := { (default : PassFields) with planks := 1, headBent := 0x1F }
     idle.passReady b0 f = false ∧ idle.passGood b0 f = true ∧ idle.passGood b0 { f with planks := 9 } = false) ∧
    (let f : MoveFields := ⟨1, 2, 0x4000000, 0xBFFFFFF, 1⟩
     (idle.die 0).segment = none ∧ f.src5.toNat < 16 ∧ f.dst5.toNat < 16 ∧
       State.moveEndGood 0 f.src5.toNat f.src.toNat f.bytes.toNat = true ∧
       State.moveEndGood 0 f.dst5.toNat f.dst.toNat f.bytes.toNat = true) ∧
    (let f : WakeFields := ⟨0xFFFF, 3960⟩
     (2 : BentIx) ∈ (idle.die 0).wakeBents f.bentMask ∧ ¬ (idle.die 0).cyclesNs f.cycles.toNat < 2200 ∧
       (idle.die 0).cyclesNs 3959 < 2200) := by
  refine ⟨all_engines_free _, ⟨⟨by decide, by decide, by decide, by decide⟩, by decide, by decide, by decide⟩, by decide, by decide,
    by decide⟩

/-- A switch program of one segment of bay 0, whose start waits for counter 3 to reach 0, and its start command in the queue. -/
def started (target : Word) : State :=
  (stepping.modDie 0 fun r => { r with
    switchHalves := r.switchHalves.set 0 [⟨[0], [(0, 3, target)], false, 4, [plainSlot]⟩] }).modQueue b0 .ring fun q =>
    { q with waiting := [⟨1, true, .segmentStart 0⟩] }

/-- The same where the completion at counter 3 arrived as CANCELLED. -/
def startedCancelled : State := (started 0).modBay b0 fun y =>
  { y with counters := y.counters.set 3 { (y.counters[3]) with value := 0, cancelledAt := [0] } }

theorem wit_SegmentsStart :
    (let s := started 0
     let g : SwitchSegment := ⟨[0], [(0, 3, 0)], false, 4, [plainSlot]⟩
     (s.die 0).segment = none ∧ (s.die 0).nextProgram = some (0, g) ∧ s.startAt b0 0 = some ⟨1, true, .segmentStart 0⟩ ∧
       (s.bay b0).gone = false ∧ s.arrived 0 (0, 3, 0) = true ∧ s.arrivedCancelled 0 (0, 3, 0) = false ∧
       s.readsFilled 0 g = true ∧ (s.die 0).train = []) ∧
    (let s := started 1
     (s.die 0).nextProgram = some (0, ⟨[0], [(0, 3, 1)], false, 4, [plainSlot]⟩) ∧ s.arrived 0 (0, 3, 1) = false) ∧
    (let s := startedCancelled
     (s.die 0).segment = none ∧ s.startAt b0 0 = some ⟨1, true, .segmentStart 0⟩ ∧ (s.bay b0).gone = false ∧
       s.arrived 0 (0, 3, 0) = true ∧ s.arrivedCancelled 0 (0, 3, 0) = true) ∧
    (let s := (started 0).modBay b0 fun y => y.setFunc .bay .disabled
     (s.bay b0).gone = true ∧ s.startAt b0 0 = some ⟨1, true, .segmentStart 0⟩ ∧ (s.bay b0).funcWaiting = [] ∧
       s.kp.state = .running ∧ s.job.phase = .running) := by
  decide

/-- A beat that loads from the train of a bent that is gated: the slot is held. -/
def gatedSlot : State := ((segmented [actSlot (.load 2 false false false 0 0 false 0 1)] 0).modBent 0 2 fun x => { x with power := .gated })

/-- Bents 0 and 2 are awake, and the feed stage of bay 0 holds a plank with every line loaded. -/
def woken (s : State) : State :=
  (((s.modBent 0 0 fun x => { x with power := .awake }).modBent 0 2 fun x => { x with power := .awake }).modBay b0 fun y =>
    { y with feed := { y.feed with live := { y.feed.live with lines := BitVec.ofNat 544 (2 ^ 264 - 1), groups := 8 } } })

theorem wit_SlotsIssueWholeOrHold :
    (let s := gatedSlot
     let x := actSlot (.load 2 false false false 0 0 false 0 1)
     (s.die 0).segment = some ⟨[0], 4, 3, 0, false, [x]⟩ ∧ s.slotHolds 0 false x ≠ []) ∧
    (let s := segmented [⟨[⟨.slice 0 (.offset 0), .slice 1 (.offset 0x4000000), 1024⟩], [], [], []⟩] 0
     s.slotHolds 0 false ⟨[⟨.slice 0 (.offset 0), .slice 1 (.offset 0x4000000), 1024⟩], [], [], []⟩ = []) ∧
    (let s := woken (segmented [actSlot (.zero 2 0 2048)] 0)
     s.slotHolds 0 false (actSlot (.zero 2 0 2048)) = [] ∧ (s.die 0).bentOn 2 = true) ∧
    (let a := actSlot (.emit 0 0 0 255 2047 true false)
     (woken (segmented [a] 0)).slotHolds 0 false a = []) ∧
    (let s := segmented [plainSlot, plainSlot] 1
     (s.die 0).segment = some ⟨[0], 4, 3, 1, false, [plainSlot, plainSlot]⟩ ∧
       ([plainSlot, plainSlot] : List SwitchSlot)[1]? = some plainSlot ∧ (1 : Nat) ≠ [plainSlot, plainSlot].length) ∧
    (let s := segmented [plainSlot] 1
     (s.die 0).segment = some ⟨[0], 4, 3, 1, false, [plainSlot]⟩ ∧ ((s.bay b0).queue .ring).running = none) ∧
    (let s := (segmented [plainSlot] 1).modQueue b0 .ring fun q => { q with running := some ⟨1, .segmentStart 0, .done⟩ }
     ((s.bay b0).queue .ring).running = some ⟨1, .segmentStart 0, .done⟩) := by
  decide +kernel

theorem wit_DieEvents :
    (let s := stepping.modBent 0 2 fun x => { x with power := .awake }
     (s.bent 0 2).power = .awake ∧ (s.die 0).claims 2 = false) ∧
    (let s := (segmented [plainSlot] 0).modBent 0 2 fun x => { x with power := .awake }
     (s.bent 0 2).power = .awake ∧ (s.die 0).claims 2 = true) ∧
    (let s := stepping.modBent 0 2 fun x => { x with power := .gated, deadline := some 100 }
     (s.bent 0 2).power ≠ .awake ∧ (s.bent 0 2).power = .gated ∧ (s.bent 0 2).deadline = some 100) ∧
    (let s := stepping.modBent 0 2 fun x => { x with power := .stopped }
     (s.bent 0 2).power = .stopped) ∧
    (stepping.kp.state = .running ∧ stepping.job.phase = .running ∧ (stepping.die 0).bentOn 2 = true ∧
      ((0 : DieId), (2 : BentIx)) ∉ stepping.job.failedBents) ∧
    (let s := stepping.modDie 0 fun r => { r with retired := 4 }
     (s.die 0).bentOn 2 = false) ∧
    (let w := (idle.die 0).derate.toNat
     let th (k : Nat) : Nat := w / 256 ^ (k - 1) % 256
     let hyst := w / 2 ^ 24 % 16
     th 1 ≤ th 2 ∧ th 2 ≤ th 3 ∧ ((idle.die 0).routers[0]).level ≤ 3 ∧ th 3 ≤ (105 : Byte).toNat ∧
       (92 : Byte).toNat < th 1 ∧ (92 : Byte).toNat + hyst ≤ th 1) ∧
    (let s := idle.modDie 0 fun r => { r with routers := r.routers.set 0 { level := 1 } }
     let w := (s.die 0).derate.toNat
     ((s.die 0).routers[0]).level = 1 ∧ w % 256 ≤ (99 : Byte).toNat + w / 2 ^ 24 % 16 ∧
       w % 256 ≠ (99 : Byte).toNat + w / 2 ^ 24 % 16 ∧ (99 : Byte).toNat < w / 256 % 256) := by
  decide

/-- Stream 0 of bay 0 reads; one descriptor is held, of one transfer, which is served. -/
def desc0 : FetchDesc :=
  { (storeDesc default 0 1) with isStatic := true, rows := 1, cols := 64, dest := 0, src := 0x400000000, issued := 1 }

def flight0 : Transfer := ⟨0, 0, 0, 0, 0, 64, [], true, [], 0, false⟩

def fetching : State :=
  streaming.modStream b0 0 fun t => { t with descs := [desc0], flights := [flight0], posted := 1, fetched := 1, nextIdent := 1 }

/-- The stream with one descriptor still to issue. -/
def issuing (d : FetchDesc) : State :=
  streaming.modStream b0 0 fun t => { t with descs := [d], posted := 1, fetched := 1, nextIdent := 1 }

theorem wit_DescriptorsAreRead :
    (let s := streaming.modStream b0 0 fun t => { t with posted := 1 }
     (s.stream b0 0).isOpen = true ∧ (s.stream b0 0).fetched < (s.stream b0 0).posted ∧ (s.stream b0 0).descs.length ≤ 16 ∧
       (s.stream b0 0).posted = (s.stream b0 0).fetched + 1 ∧ (s.stream b0 0).appended = []) ∧
    ((streaming.stream b0 0).posted ≤ (streaming.stream b0 0).fetched) ∧
    (let d := { desc0 with issued := 0 }
     let u := (issuing d).settleStores b0 0
     (u.stream b0 0).isOpen = true ∧ (u.stream b0 0).conf.mode ≠ 2 ∧ (u.stream b0 0).flights = [] ∧
       0 < (u.stream b0 0).conf.outstanding.toNat ∧ u.nextDesc (u.stream b0 0).descs = (some d, false) ∧
       d.tableNeeded 0 ≤ d.tableRead ∧ d.isStatic = true ∧ d.multicast = false) ∧
    (let d := { desc0 with issued := 0, kind := 3, isStatic := false, aux := 0x400000000 }
     let u := (issuing d).settleStores b0 0
     u.nextDesc (u.stream b0 0).descs = (some d, false) ∧ d.tableRead < d.tableNeeded d.issued) ∧
    (let u := (issuing { desc0 with issued := 0, gated := true }).settleStores b0 0
     (u.stream b0 0).isOpen = true ∧ (u.stream b0 0).flights = [] ∧ u.nextDesc (u.stream b0 0).descs = (none, true)) ∧
    (let s := (issuing { desc0 with issued := 0 }).modStream b0 0 fun t => { t with conf := { t.conf with outstanding := 0 } }
     let u := s.settleStores b0 0
     (u.stream b0 0).conf.outstanding.toNat ≤ 0 ∧
       u.nextDesc (u.stream b0 0).descs = (some { desc0 with issued := 0 }, false)) := by
  decide +kernel

theorem wit_TransfersAreServedAndLand :
    ((idle.sill 0).requests = []) ∧
    (let s := (fetching.modStream b0 0 fun t => { t with flights := [{ flight0 with sills := [0], begun := false }] }).modSill 0
        fun m => { m with requests := [⟨0, 0, 0, 7⟩] }
     earliestRequest (s.sill 0).requests = some ⟨0, 0, 0, 7⟩ ∧ bayOfStream 0 = (b0, 0) ∧
       ((s.stream b0 0).flights.find? fun f => f.ident = 0 && f.part = 0 && f.sills.contains 0) =
         some { flight0 with sills := [0], begun := false } ∧
       ((s.stream b0 0).descs.find? fun d => d.ident = 0) = some desc0) ∧
    ((idle.stream b0 0).served.length ≤ 0) ∧
    ((fetching.stream b0 0).conf.mode ≠ 1 ∧ (fetching.stream b0 0).served[0]? = some flight0 ∧
      ((fetching.stream b0 0).descs.find? fun d => d.ident = flight0.ident) = some desc0 ∧ desc0.isStatic = true ∧
      desc0.multicast = false) ∧
    (let s := fetching.modStream b0 0 fun t => { t with descs := [] }
     (s.stream b0 0).served[0]? = some flight0 ∧ ∀ d ∈ (s.stream b0 0).descs, d.ident ≠ flight0.ident) := by
  decide

theorem wit_StoresAreWritten :
    (let s := fetching.modStream b0 0 fun t => { t with conf := { t.conf with mode := 1 } }
     (s.stream b0 0).ready = some flight0 ∧ ((s.stream b0 0).descs.find? fun d => d.ident = flight0.ident) = some desc0 ∧
       (s.stream b0 0).conf.mode = 1) ∧
    (((idle.bay b0).queue .store).running = none) ∧
    (let f : StoreFields := { (default : StoreFields) with gated := true }
     let s := idle.modQueue b0 .store fun q => { q with running := some ⟨1, .store f, .done⟩ }
     ((s.bay b0).queue .store).running = some ⟨1, .store f, .done⟩ ∧ statusError .done = false ∧
       s.gateOpen (storeDesc f 0 1) = false ∧ s.gateOpen (storeDesc { f with gated := false } 0 1) = true ∧ f.rows = 0 ∧
       statusError .badDescriptor = true) := by
  decide

/-! ## Witnesses: multicasts and stacks -/

def mcast0 : Multicast := ⟨0, 4, 0, 0, 0, false, 0⟩
def target0 : McTarget := ⟨0, 0, 1, true, false, false, 0, 5, 0, 0, 0, 0⟩

/-- Stream 0 of bay 0 of die 2 receives from global stream 0; its list holds the given requests. -/
def receiving (s : State) (m : List McTarget) : State :=
  s.modStream ⟨2, 0⟩ 0 fun t => { t with
    isOpen := true, conf := { (default : OpenFields) with mode := 2 }, mcTargets := m }

/-- Stream 0 of bay 0 of die 0 is the source of a multicast to die 2. -/
def multicasting (m : Multicast) : State :=
  streaming.modStream b0 0 fun t => { t with
    descs := [{ desc0 with isStatic := false, multicast := true, mcMask := 4 }], mcasts := [m] }

def mdesc : FetchDesc := { desc0 with isStatic := false, multicast := true, mcMask := 4 }

theorem wit_MulticastTargets :
    (let s := receiving (multicasting mcast0) []
     let b : BayId := ⟨2, 0⟩
     s.mcSource b 0 = some mdesc ∧ (s.stream b 0).isOpen = true ∧ (s.stream b 0).conf.mode = 2 ∧ (s.stream b 0).conf.source = 0 ∧
       (s.stream b 0).mcTargets = [] ∧ mdesc.mcCount ≠ 0) ∧
    (idle.mcSource ⟨2, 0⟩ 0 = none ∧ (idle.stream ⟨2, 0⟩ 0).isOpen = false) ∧
    (let s := receiving (multicasting { mcast0 with committed := true }) [target0]
     (s.stream ⟨2, 0⟩ 0).mcTargets = [target0] ∧ target0.granted = true ∧ target0.committed = false ∧
       s.sourceCommitted target0 = true ∧ target0 ∉ ([] : List McTarget)) ∧
    (let s := receiving (multicasting mcast0) [target0]
     s.sourceCommitted target0 = false) ∧
    (let m := { target0 with aborting := true }
     let s := receiving idle [m]
     (s.stream ⟨2, 0⟩ 0).mcTargets = [m] ∧ m.aborting = true ∧ m.epoch = (s.stream ⟨2, 0⟩ 0).epoch) ∧
    (let m := { target0 with aborting := true, granted := false }
     ((receiving idle [m]).stream ⟨2, 0⟩ 0).mcTargets = [m] ∧ m.granted = false) ∧
    (let m := { target0 with committed := true }
     ((receiving idle [m]).stream ⟨2, 0⟩ 0).mcTargets = [m] ∧ m.committed = true ∧ m.left = 0) := by
  decide

theorem wit_MulticastSources :
    (let s := receiving (multicasting mcast0) [target0]
     ((s.stream b0 0).mcasts.find? fun m => !m.committed) = some mcast0 ∧
       ((s.stream b0 0).descs.find? fun d => d.ident = mcast0.ident) = some mdesc ∧ mcast0.targets.getLsbD 2 = true ∧
       mcast0.targets.getLsbD 1 = false ∧ mcast0.granted = 0 ∧ mcast0.targets = BitVec.ofNat 16 (2 ^ 2) ∧
       s.mcastLate 0 mcast0 = false ∧
       ((s.stream (s.mcTarget mdesc 2).1 (s.mcTarget mdesc 2).2).mcTargets.find? fun x =>
         x.source = s.logicalStream b0 0 && x.ident = mcast0.ident && x.granted && x.dry = 0) = some target0) ∧
    (let m : Multicast := { mcast0 with targets := 6 }
     m.targets ≠ BitVec.ofNat 16 (2 ^ 2)) ∧
    (let s := { (multicasting mcast0) with clk := { idle.clk with boardTime := 50000 } }
     ((s.stream b0 0).mcasts.find? fun m => !m.committed) = some mcast0 ∧ s.mcastLate 0 mcast0 = true) ∧
    (((idle.stream b0 0).mcasts.find? fun m => !m.committed) = none) := by
  decide

theorem wit_StackEvents :
    ((idle.sill 0).requests = [] ∧ (idle.sill 0).poison = [] ∧ (idle.sill 0).retired = [] ∧ (idle.sill 0).scrubAt + 1 < stackSectors) ∧
    (let s := idle.modSill 0 fun m => { m with requests := [⟨0, 0, 0, 7⟩] }
     (s.sill 0).requests ≠ []) ∧
    (let s := idle.modSill 0 fun m => { m with scrubAt := 999999998 }
     (s.sill 0).scrubAt + 1 < stackSectors) ∧
    ((idle.sill 0).trainTemp ≤ (35 : Byte).toNat + 10 ∧ (35 : Byte).toNat ≤ (idle.sill 0).trainTemp + 10) ∧
    ((stepping.sill 0).trainTemp + 10 < (36 : Byte).toNat ∧ stepping.isIdleKind = false) := by
  decide

/-! ## Witnesses: the links and their engines -/

/-- The tables of two modules, 0 and 1: collective 0 of two chunks, a vote collective, one expert here. -/
def pairTables : LinkTables :=
  { groups := [[0, 1]]
    colls := [{ (default : CollEntry) with chunks := 2 }, { (default : CollEntry) with vote := true, chunks := 2 }]
    experts := [⟨0, 0, 0, false⟩] }

/-- A step runs in a module of that pair. -/
def paired : State := { stepping with coll := { State.reset.coll with tables := State.reset.coll.tables.set 0 pairTables } }

/-- CONTEXT of step 5, attempt 0, with a collective and a chunk. -/
def ctx (coll chunk : Nat) : DWord := BitVec.ofNat 64 (5 + 2 ^ 23 * coll + 2 ^ 35 * chunk)

def verdictIn (s : State) (v : Bits) : State := { s with job := { s.job with verdict := some v } }

theorem paired_free : engineFree paired ch .link := ⟨by decide, by decide, by decide, by decide⟩

theorem wit_LinkQueueCommands :
    engineFree paired ch .link ∧
    paired.reduceGood ⟨0, 0, 2, 0x3FFFE000, 0x3FFFFF00⟩ = true ∧
    (let s := verdictIn paired { replay := true }
     s.runGood 0 false 0 2 = true ∧ s.withheld = some { replay := true }) ∧
    (let s := { verdictIn paired {} with coll := { paired.coll with copies := [(0, 0), (0, 1)] } }
     s.runGood 0 false 0 2 = true ∧ s.withheld = none ∧ (∀ n ∈ runOf 0 2, (0, n) ∈ s.coll.copies)) ∧
    (paired.runGood 1 true 0 2 = true ∧ paired.signsReady ⟨1, 0, 2⟩ = true) ∧
    (let s := paired.modSill 0 fun m => { m with lists := m.lists.set 0 ⟨[{ (default : Shard) with vote := true }], []⟩ }
     s.signShard ⟨0, 0⟩ = some (0, { (default : Shard) with vote := true })) ∧
    (let f : DispatchFields := ⟨0, 0, 0, 0, 0, 0, 33, 0, 0⟩
     paired.dispatchGood b0 f = true) ∧
    (let d : DispatchSource := ⟨b0, default, [], [], none, [], false⟩
     let s := { paired with coll := { paired.coll with sources := [d] } }
     s.combineGood ⟨0, 0, 3, 16380⟩ = true ∧ s.combineReady ⟨0, 0, 3, 16380⟩ = false) ∧
    (let d : DispatchSource := ⟨b0, default, [], [], none, [], false⟩
     let h : DispatchHome := ⟨0, none, [], true, [], [], false⟩
     let s := { paired with coll := { paired.coll with sources := [d], homes := [h] } }
     s.combineGood ⟨0, 0, 4, 2⟩ = true ∧ s.combineReady ⟨0, 0, 4, 2⟩ = true) ∧
    ((0 : BitVec 15) = paired.moduleId ∧ 0 < (16384 : Word).toNat ∧ (16384 : Word).toNat ≤ 16384 ∧
      inLoft (0x3FFFC000 : BitVec 30).toNat (16384 : Word).toNat = true) ∧
    ((1 : BitVec 15) ≠ paired.moduleId ∧ paired.unreachable 1 = some .linkDown) := by
  refine ⟨paired_free, ?_⟩
  decide

/-- A VOTE whose sign passes are not done waits: stack 11 holds a VOTE shard that the chunk covers. -/
def unsigned : State :=
  let b : LinkTables :=
    { groups := [[0]], colls := [{ (default : CollEntry) with vote := true, chunks := 1, scale := List.replicate 12 16 }] }
  let s : State := { idle with coll := { State.reset.coll with tables := State.reset.coll.tables.set 0 b } }
  s.modSill 11 fun m => { m with lists := m.lists.set 0 ⟨[{ (default : Shard) with vote := true, blocks := 128 }], []⟩ }

theorem wit_signsNotReady : unsigned.runGood 0 true 0 1 = true ∧ unsigned.signsReady ⟨0, 0, 1⟩ = false := by
  decide

theorem wit_Contributions :
    (paired.stale 6 = true ∧ (paired.edge (chunkEdge (ctxChunk 6))).waiting = []) ∧
    (paired.stale (ctx 0 0) = false ∧ paired.ownedChunk (ctx 0 0) false = some (pairTables.colls[0], [0, 1]) ∧
      memberIx [0, 1] 1 = some 1 ∧
      paired.badPartials (localAddr (stackOf 2 2 0) (stageAt pairTables.colls[0] 2 0 1)) 4 = [] ∧
      (paired.coll.staged.any fun x => x.1 = 0 && x.2.1 = 0 && x.2.2.1 = 1) = false ∧
      (∃ j < 2, j ≠ 1 ∧ ∀ x ∈ paired.coll.staged, ¬(x.1 = 0 ∧ x.2.1 = 0 ∧ x.2.2.1 = j))) ∧
    (let s := { paired with coll := { paired.coll with staged := [(0, 0, 1, 4)] } }
     (s.coll.staged.any fun x => x.1 = 0 && x.2.1 = 0 && x.2.2.1 = 1) = true ∧ s.kp.state = .running ∧ s.job.phase = .running) := by
  decide

theorem wit_CollectiveTenons :
    (paired.stale (ctx 0 1) = false ∧ paired.collEntry 0 = some (pairTables.colls[0], [0, 1]) ∧
      (pairTables.colls[0]).vote = false ∧ 1 < (pairTables.colls[0]).chunks ∧ ownerId pairTables.colls[0] [0, 1] 1 = 1 ∧
      (verdictIn paired { skew := true }).withheld.isSome = true ∧ (verdictIn paired {}).withheld = none ∧
      (verdictIn paired {}).job.verdict.isSome = true ∧ (∀ m : SillId, (paired.sill m).poison = []) ∧
      (verdictIn paired {}).stale (ctx 0 1) = false ∧ paired.job.verdict = none ∧ paired.job.current.isSome = true) ∧
    (paired.stale (ctx 1 0) = false ∧ paired.ownedChunk (ctx 1 0) true = some (pairTables.colls[1], [0, 1]) ∧
      memberIx [0, 1] 1 = some 1 ∧ paired.voteRoom 1 0 = true) ∧
    (let s := paired.modEdge 0 fun x => { x with slots := List.replicate 128 ⟨5, 6, [], []⟩ }
     s.voteRoom 1 0 = false) ∧
    (paired.stale (ctx 1 1) = false ∧ paired.collEntry 1 = some (pairTables.colls[1], [0, 1]) ∧
      (pairTables.colls[1]).vote = true ∧ ownerId pairTables.colls[1] [0, 1] 1 = 1 ∧
      paired.coll.results.contains (1, 1) = false) ∧
    ({ paired with coll := { paired.coll with results := [(1, 1)] } } : State).coll.results.contains (1, 1) = true := by
  decide +kernel

/-- An unacknowledged and a waiting tenon. -/
def tenon0 : Tenon := ⟨0, 0, 1, 3, 0x10, 0, ctx 0 0, [1, 2, 3]⟩

/-- Link 0 is UP on its first eight lanes, with credits and one tenon to send. -/
def linked : State :=
  idle.modLink 0 fun l => { l with
    state := .up, laneOk := 0x1FF, laneMap := [0, 1, 2, 3, 4, 5, 6, 7], credits := Vector.replicate 4 1024,
    queues := l.queues.set 0 [⟨tenon0, none⟩] }

def noErrors : LaneErrors := ⟨List.replicate 9 0, List.replicate 9 0, 0⟩

theorem wit_Tenons :
    ((idle.link 0).state ≠ .up) ∧
    (let s := linked.modLink 0 fun l => { l with retry := [⟨0, 0, tenon0⟩], resendLeft := 1 }
     (s.link 0).state = .up ∧ (s.link 0).changes = [] ∧ 0 < (s.link 0).resendLeft) ∧
    ((linked.link 0).state = .up ∧ (linked.link 0).changes = [] ∧ (linked.link 0).resendLeft = 0 ∧
      (linked.link 0).nextVc = some 0 ∧ (linked.link 0).queues[0] = [⟨tenon0, none⟩]) ∧
    (let t : ArrivedTenon := ⟨{ tenon0 with dstId := 0 }, 0, noErrors, tenonCrc 0 { tenon0 with dstId := 0 }, true, true⟩
     (linked.link 0).state = .up ∧ arrivedGood t = true ∧ t.seq = (linked.link 0).rxSeq ∧ t.tenon.dstId = linked.moduleId) ∧
    (let t : ArrivedTenon := ⟨tenon0, 0, noErrors, tenonCrc 0 tenon0, true, true⟩
     let s := { (linked.modLink 1 fun l => { l with state := .up }) with coll := { linked.coll with routes := [(1, 0x21)] } }
     (s.link 0).state = .up ∧ arrivedGood t = true ∧ t.seq = (s.link 0).rxSeq ∧ t.tenon.dstId ≠ s.moduleId ∧
       s.route t.tenon.dstId = some 1 ∧ (1 : LinkId) ≠ 0 ∧ t.tenon.hops ≠ 0 ∧ (s.link 1).usable = true) ∧
    (arrivedGood ⟨tenon0, 0, noErrors, tenonCrc 1 tenon0, true, true⟩ = false ∧ (1 : BitVec 16) ≠ (linked.link 0).rxSeq) := by
  decide +kernel

theorem wit_LinksRetry :
    (let blk : CreditAck := ⟨0, 0, false, 0, [1, 2, 3, 4], noErrors⟩
     (linked.link 0).state = .up ∧ blk.nak = false ∧ (linked.link 0).farModule = false) ∧
    (let s := linked.modLink 0 fun l => { l with farKind := 1, peerState := 6, peerKnown := true }
     (s.link 0).state = .up ∧ (s.link 0).farModule = true ∧ (s.link 0).peerGone = true) ∧
    ((4 : BitVec 3) ≠ 0 ∧ (4 : BitVec 3) ≠ 6) ∧
    ((linked.link 0).retry = []) ∧
    (let s := linked.modLink 0 fun l => { l with retry := [⟨0, 7, tenon0⟩] }
     (s.link 0).retry = [⟨0, 7, tenon0⟩] ∧ (7 : Nat) < (s.link 0).retryLimit ∧ (s.link 0).retryLimit ≤ 8) := by
  decide

def helloOf (id : BitVec 15) : HelloFields := ⟨1, id, 0, 1, 1, 0, 0x1FF, [600, 600, 600, 600]⟩

theorem wit_LinksComeUp :
    (let s := idle.modLink 0 fun l => { l with state := .training }
     (s.link 0).state = .training ∧ (lanesOf (0x7F &&& 0x1FF &&& ~~~(s.link 0).laneRecords)).length = 7 ∧
       (lanesOf (0x3F &&& 0x1FF &&& ~~~(s.link 0).laneRecords)).length < 7) ∧
    (let s := idle.modLink 0 fun l => { l with state := .hello }
     (s.link 0).state = .hello ∧ s.kp.peg = true ∧ (s.link 0).creditsGood = true ∧ s.helloRefused 0 (helloOf 1) = false ∧
       (s.link 0).lastHello = none ∧ s.helloRefused 0 (helloOf 0) = true ∧
       helloDiffers (helloOf 1) (some (helloOf 2)) = true) ∧
    (let s := idle.modLink 0 fun l => { l with state := .hello, lastHello := some (helloOf 2) }
     (s.link 0).state = .hello ∧ (s.link 0).creditsGood = true ∧ s.helloRefused 0 (helloOf 1) = false ∧
       helloDiffers (helloOf 1) (s.link 0).lastHello = true) ∧
    (let s := idle.modLink 0 fun l => { l with state := .hello, credit0 := 0 }
     (s.link 0).state = .hello ∧ s.kp.peg = true ∧ (s.link 0).creditsGood = false) ∧
    (let s := linked.modLink 0 fun l => { l with state := .retraining, lastHello := some (helloOf 1), retrainFails := 1 }
     (s.link 0).state = .retraining ∧ (s.link 0).retrainFails + 1 < (s.link 0).retrainLimit ∧
       (s.link 0).lastHello = some (helloOf 1) ∧ (s.link 0).creditsGood = true ∧ s.helloRefused 0 (helloOf 1) = false ∧
       7 ≤ (lanesOf (0x7F &&& (helloOf 1).lanes &&& ~~~(s.link 0).laneRecords)).length ∧
       (lanesOf (0x3F &&& (helloOf 1).lanes &&& ~~~(s.link 0).laneRecords)).length < 7) := by
  decide

theorem wit_LanesAreReplaced :
    ((linked.link 0).state = .up ∧ (linked.link 0).laneOk.getLsbD 8 = true ∧
      7 ≤ (lanesOf ((linked.link 0).laneOk &&& ~~~BitVec.ofNat 9 (2 ^ 8))).length ∧ (linked.link 0).inUse 7 = true) ∧
    (let s := linked.modLink 0 fun l => { l with laneOk := 0xFF }
     7 ≤ (lanesOf ((s.link 0).laneOk &&& ~~~BitVec.ofNat 9 (2 ^ 7))).length ∧ (s.link 0).laneOk.getLsbD 8 = false) ∧
    (let s := linked.modLink 0 fun l => { l with changes := [⟨3, some 8, 100, none, true⟩] }
     (s.link 0).state = .up ∧ (s.link 0).changes = [⟨3, some 8, 100, none, true⟩]) ∧
    (let s := linked.modLink 0 fun l => { l with state := .hello, changes := [⟨3, none, 100, none, true⟩] }
     (s.link 0).state = .hello ∧ (s.link 0).changes = [⟨3, none, 100, none, true⟩] ∧ (s.link 0).laneMap.contains 3 = true) ∧
    (let s := linked.modLink 0 fun l => { l with state := .retraining }
     (s.link 0).state ≠ .up ∧ (s.link 0).state ≠ .hello) := by
  decide

theorem wit_SendData : idle.badPartials 0x400000001 2 = [] := by decide

theorem wit_Admission :
    (grantInOrder 5 0 [((1 : BitVec 15), 3), (2, 4)])[1]? = some (2, 2) ∧ ([((1 : BitVec 15), 3), (2, 4)])[1]? = some (2, 4) := by
  decide

/-! ## Witnesses: descriptors, steps and verdicts -/

theorem ringed_empty (m : ModState) (h : (ringed (inState m)).polls = true) : ringsEmpty (ringed (inState m)) 0 :=
  ⟨h, by cases m <;> decide, by cases m <;> decide, by cases m <;> decide⟩

/-- A save's fields that keep to R362: whole pages of host memory, room for the image. -/
def saveFields : CkptFields := ⟨true, true, 4096, 0xFFFFFFFFFF, 0, 0, 0, 0⟩

def held0 (w : JobWork) (started : Bool) : HeldDesc := ⟨0, 0, ⟨dh, w⟩, started⟩

theorem wit_DescriptorsTakeEffect :
    (ringsEmpty (ringed (inState .idle)) 0 ∧ dh.reservedClear = true) ∧
    (let s := ringed (inState .idle)
     (0x400000000 : DWord).toNat < 2 ^ 40 ∧ ([1] : List Byte) ≠ [] ∧ s.inMemory 0x400000000 1 = true ∧ s.kp.state = .idle ∧
       s.inMemory 0xEE6B27FFF 1 = true ∧ (1 : Nat) ≤ 2 ^ 36) ∧
    (ringsEmpty (ringed (inState .armed)) 0 ∧
      (let s := { ringed (inState .armed) with loader := { State.reset.loader with bound := true } }
       (0 : RingIx).val = s.stepRing ∧ s.kp.state = .armed ∧ s.stepBlocked = false ∧ s.loader.bound = true)) ∧
    (let s := ringed stepping
     s.kp.state = .running ∧ s.job.current ≠ none ∧ s.job.saves = [] ∧ s.job.stop = none ∧
       s.saveFault .direct saveFields = none) ∧
    (let s := ringed (inState .quiesced)
     ringsEmpty s 0 ∧ s.kp.state = .quiesced ∧ s.savesHold = false ∧ s.job.stop = none ∧
       s.restoreRefused (.restoreHost { saveFields with bytes := 0 } []) = none) := by
  refine ⟨⟨ringed_empty _ (by decide), rfl⟩, by decide, ⟨ringed_empty _ (by decide), by decide⟩, by decide +kernel,
    ⟨ringed_empty _ (by decide), by decide, by decide, by decide, by decide⟩⟩

theorem wit_steppingRings : ringsEmpty (ringed stepping) 0 := ⟨by decide, by decide, by decide, by decide⟩

/-- A snapshot region of 270 pages of each stack, the least that holds the system part. -/
def snapFields : CkptFields := { saveFields with snapOffset := 0x400000, snapPages := 270 }

theorem wit_snapshots :
    (ringed stepping).saveFault .snapshot snapFields = none ∧
    (ringed (inState .quiesced)).restoreRefused (.restoreSnapshot snapFields) = none := by
  decide +kernel

def held64 : State := (ringed idle).modRing 0 fun r => { r with held := List.replicate 63 (held0 .marker false) }

theorem wit_Doorbells :
    (State.reset.polls = false) ∧
    (let s := ringed idle
     s.polls = true ∧ 0 < s.host.heartbeatTimeout ∧ (∀ k : RingIx, (List.replicate 16 (0 : Word)).getD k.val 0 = (s.ring k).consumed)) ∧
    (held64.polls = true ∧ (held64.ring 0).enabled = true ∧ (held64.ring 0).held.length < 64 ∧
      (∀ k : RingIx, k ≠ 0 → ((1 : Word) :: List.replicate 15 0).getD k.val 0 = (held64.ring k).consumed) ∧
      ((1 : Word) :: List.replicate 15 0).getD 0 0 = (held64.ring 0).consumed + 1) ∧
    (let s := ringed idle
     2 ^ (s.ring 0).sizeLog2 < (((33 : Word) :: List.replicate 15 0).getD 0 0 - (s.ring 0).consumed).toNat) ∧
    ((idle.ring 0).held = []) ∧
    (let d := held0 (.copyFromModule 0 0x400000000 64) true
     let s := (ringed idle).modRing 0 fun r => { r with held := [d] }
     (s.ring 0).held = [d] ∧ d.started = true ∧ isCopy d.desc.work = true ∧ isCopy .marker = false) ∧
    ((idle.ring 0).holdoff = false) ∧
    (let s := ({ idle with host := { idle.host with busMaster := true, msixEnable := true, msixTable := [] } } : State).modRing 0
        fun r => { r with holdoff := true, owed := true }
     (s.ring 0).holdoff = true ∧ (s.ring 0).owed = true ∧ s.host.busMaster = true ∧ s.host.msixEnable = true ∧
       s.host.driverLost = false ∧ s.vectorMasked (s.ring 0).vector = false) ∧
    (let s := idle.modRing 0 fun r => { r with holdoff := true }
     (s.ring 0).holdoff = true ∧ (s.ring 0).owed = false) := by
  decide

theorem wit_DriverLoss :
    (State.reset.attachedNow = false) ∧
    (idle.attachedNow = true ∧ atRest idle ∧ (∀ k : RingIx, (idle.ring k).held = []) ∧ idle.job.stop = none ∧
      idle.job.drain = none ∧ idle.job.saves = [] ∧ idle.kp.state = .idle) ∧
    idle.polls = true ∧ (inState .acorn).polls = false := by
  refine ⟨by decide, ⟨by decide, idle_atRest, by decide, by decide, by decide, by decide, by decide⟩, by decide⟩

/-- A step record is posted and nothing bars its start. -/
def posted : State :=
  let s : State := { stepping with job := { stepping.job with phase := .posted } }
  s.modBay b0 fun y => { y with entries := [(2, 5)] }

theorem wit_StepRecord :
    (idle.job.current = none) ∧
    (posted.job.current = some ⟨5, 0, 0, 0, 0⟩ ∧ posted.job.phase = .posted ∧ posted.lineHigh = false ∧
      posted.restartGood = true ∧ posted.job.claimDue = false ∧ posted.job.claimed = false ∧
      (∀ m : SillId, (posted.sill m).active.shards = []) ∧ posted.coll.held = [] ∧
      (∀ e : EdgeId, (posted.edge e).waiting = []) ∧ (posted.bay b0).func .bay = .enabled ∧
      ((2 : ThreadIx), (5 : Nat)) ∈ (posted.bay b0).entries ∧
      (∀ q, ((2 : ThreadIx), q) ∈ (posted.bay b0).entries → q = 5)) ∧
    ((posted.modDie 3 fun r => { r with abandonLine := true }).lineHigh = true) := by
  refine ⟨by decide, ⟨by decide, by decide, by decide, by decide, by decide, by decide, by decide, by decide, by decide, by decide, by decide, ?_⟩,
    by decide⟩
  intro q h
  simpa [posted] using h

/-- A core has crashed, and the bundle image in memory, here of no byte, may have changed. -/
def crashedStep : State :=
  let s := posted.modBay b0 fun y => { y with crashed := true }
  { s with loader := { State.reset.loader with inEffect := some { (default : Bundle) with digest := 1 } } }

/-- Where the image no longer has its digest, the start is refused. -/
theorem wit_restartBad (h : Config.sha384 (digestInput []) ≠ 1) :
    crashedStep.job.phase = .posted ∧ crashedStep.lineHigh = false ∧ crashedStep.restartGood = false := by
  refine ⟨by decide, by decide, ?_⟩
  have hc : crashedStep.anyCrashed = true := by decide
  have hd : crashedStep.digestHolds { (default : Bundle) with digest := 1 } = false := by
    unfold State.digestHolds
    exact decide_eq_false h
  simp only [State.restartGood, hc]
  exact hd

/-- The program of the step has ended: nothing is left to read out, to sum or to sign. -/
theorem wit_Fences :
    (stepping.kp.state = .running ∧ stepping.job.phase = .running ∧ stepping.lineHigh = false ∧ stepping.job.abandoned = false ∧
      stepping.fenceReady = true) ∧
    ((stepping.modQueue b0 .kiln fun q => { q with running := some ⟨1, .kilnReadout default, .done⟩ }).fenceReady = false) ∧
    (idle.kp.state ≠ .running) ∧
    (let s := stepping.modDie 2 fun r => { r with abandonLine := true }
     s.kp.state = .running ∧ s.job.phase = .running ∧ (s.die 2).abandonLine = true ∧ s.job.abandoned = false) ∧
    (let s := ({ stepping with job := { stepping.job with abandoned := true } } : State).modDie 2 fun r =>
        { r with abandonLine := true }
     (s.die 2).abandonLine = true ∧ s.job.abandoned = true) ∧
    (let s := ({ stepping with job := { stepping.job with abandoned := true, drained := [b0] } } : State).modBay b0 fun y =>
        y.setFunc .bay .quiescing
     s.job.abandoned = true ∧ s.job.drained = [b0] ∧ (s.bay b0).func .bay = .quiescing) := by
  decide

/-- An abandoned attempt with no bay left to drain. -/
theorem wit_drained :
    let s : State := { stepping with job := { stepping.job with abandoned := true } }
    s.job.abandoned = true ∧ ∀ b : BayId, (s.bay b).func .bay ≠ .quiescing := by
  refine ⟨by decide, fun b => ?_⟩
  have h : ∀ (d : DieId) (i : BayIx), (State.reset.bay ⟨d, i⟩).func .bay ≠ .quiescing := by decide
  exact h b.die b.bay

/-- The step runs in a tree of this module, its parent 1 and its children 2 and 3. -/
def treed (phase : StepPhase) (children : List (BitVec 15)) : State :=
  { stepping with
    job := { stepping.job with phase := phase }
    coll := { State.reset.coll with tree := some ⟨1, false, children⟩ } }

theorem wit_VerdictMessages :
    (stepping.stale 6 = true ∧ stepping.stale 5 = false ∧ stepping.coll.tree = none) ∧
    (let s := treed .running [2, 3]
     s.stale 5 = false ∧ s.coll.tree = some ⟨1, false, [2, 3]⟩ ∧ (2 : BitVec 15) ∈ ([2, 3] : List (BitVec 15)) ∧
       (4 : BitVec 15) ∉ ([2, 3] : List (BitVec 15)) ∧ s.job.current ≠ none ∧ s.job.phase = .running) ∧
    ((treed .running [2, 3]).job.children = []) ∧
    (let s := treed .fence []
     s.stale 5 = false ∧ s.coll.tree = some ⟨1, false, []⟩ ∧ s.job.phase = .fence) := by
  decide

theorem wit_Withheld :
    stepping.job.current = some ⟨5, 0, 0, 0, 0⟩ ∧ ({ replay := true } : Bits).any = true ∧ stepping.gathersOut = false := by
  decide

def settledStep (v : Bits) : State := { stepping with job := { stepping.job with phase := .settled, verdict := some v } }

theorem wit_StepsEnd :
    ((settledStep {}).job.current = some ⟨5, 0, 0, 0, 0⟩ ∧ (settledStep {}).job.verdict = some {} ∧
      (settledStep {}).job.phase = .settled ∧ (settledStep {}).gathersOut = false) ∧
    (let s := (settledStep {}).modQueue b0 .link fun q => { q with running := some ⟨1, .gather default, .done⟩ }
     s.gathersOut = true ∧ s.kp.state ≠ .faulted) ∧
    (idle.job.current = none) ∧
    (let s := treed .fence []
     s.job.current = some ⟨5, 0, 0, 0, 0⟩ ∧ s.kp.state = .running ∧ s.job.phase = .fence) ∧
    (let s : State := { stepping with job := { stepping.job with contributed := { skew := true }, committed := List.finRange 12 } }
     s.job.contributed.skew = true ∧ s.job.committed.length = 12) := by
  decide

/-- A bent scan of 150 ms waits while a step runs, under a verdict timeout of some seconds. -/
def overdue (timeout : Nat) : State :=
  { stepping with job := { stepping.job with items := [⟨itemScan, 0xFFFF, some 7, 0⟩], verdictTimeout := timeout } }

theorem wit_Maintenance :
    (idle.kp.state ≠ .running) ∧
    ((overdue 10).kp.state = .running ∧ (overdue 10).overdueItem = some ⟨itemScan, 0xFFFF, some 7, 0⟩ ∧
      (overdue 10).deferLimit ≠ none ∧ (overdue 10).neverClaimed ⟨itemScan, 0xFFFF, some 7, 0⟩ = false ∧
      (overdue 0).neverClaimed ⟨itemScan, 0xFFFF, some 7, 0⟩ = true) ∧
    (idle.kp.state ≠ .armed) ∧
    (stepping.kp.state = .running ∧ stepping.setting keyAutoScan = 1) ∧
    (let s : State := { stepping with cfg := { stepping.cfg with mode := .rollout } }
     s.setting keyAutoScan ≠ 1) ∧
    (idle.job.running = none) ∧
    (let i : Item := ⟨itemScan, 0, some 7, 0⟩
     let s : State := { stepping with job := { stepping.job with running := some i } }
     s.job.running = some i ∧ i.code ≠ itemMarch ∧ i.tag = some 7 ∧ s.isIdleKind = false ∧ s.job.claimed = false) ∧
    (idle.job.stop = none ∧ idle.job.drain = none) ∧
    (let c : Ckpt := ⟨0, 0, .save .direct saveFields, [], .done, true⟩
     let s : State := { stepping with job := { stepping.job with stop := some c, drain := some c } }
     s.job.stop = some c ∧ c.work = .save .direct saveFields ∧ c.status = .done ∧ s.host.driverLost = false ∧
       s.job.drain = some c ∧ ckptFields c.work = some saveFields) := by
  decide

/-! ## Witnesses: the firmware, the clocks and the board -/

/-- The scheduler core has restarted at the given instants. -/
def restarted (at' : List Nat) : State :=
  { idle with
    clk := { idle.clk with aonMicros := 100000000 }
    fw := { idle.fw with restarts := idle.fw.restarts.set (coreNo .scheduler) at' } }

def down (c : CoreKind) : State := { idle with fw := { idle.fw with restarting := idle.fw.restarting.set (coreNo c) true } }

theorem wit_Cores :
    (let s := restarted [30000000, 50000000, 60000000]
     s.coreRuns .scheduler = true ∧
       ((s.fw.restarts[coreNo .scheduler]).filter fun t => decide (s.clk.aonMicros < t + 60000000)).length < 3 ∧
       (s.fw.restarts[coreNo .scheduler]).length < 4) ∧
    (let s := restarted [40000001, 50000000, 60000000]
     s.coreRuns .scheduler = true ∧
       ((s.fw.restarts[coreNo .scheduler]).filter fun t => decide (s.clk.aonMicros < t + 60000000)).length = 3 ∧
       (s.fw.restarts[coreNo .scheduler]).length = 3) ∧
    ((down .scheduler).coreRuns .scheduler = false) ∧
    (idle.fw.restarting[coreNo .power] = false) ∧
    ((down .power).fw.restarting[coreNo .power] = true ∧ (down .power).fw.dead = false ∧ (down .power).coreFailed .power = false ∧
      (down .power).minuteNow = (down .power).pwr.minute ∧ (down .power).cfg.rolling = none) ∧
    ((down .security).fw.restarting[coreNo .security] = true ∧ (down .security).coreFailed .security = false ∧
      (down .security).mgmt.heldSecurity = []) ∧
    ((down .scheduler).fw.restarting[coreNo .scheduler] = true ∧ (down .scheduler).coreFailed .scheduler = false) ∧
    (let s : State := { idle with fw := { idle.fw with dead := true } }
     s.fw.dead = true) ∧
    (let s : State := { idle with fw := { idle.fw with standbyOk := false } }
     s.fw.dead = false ∧ s.fw.standbyOk = false) ∧
    (let s : State := { idle with fw := { idle.fw with standbyOk := true } }
     s.fw.dead = false ∧ s.fw.standbyOk = true ∧ s.cfg.rolling = none ∧ s.cfg.staging = none ∧ s.job.stop = none ∧
       s.job.drain = none ∧ ∀ k : RingIx, (s.ring k).held = []) ∧
    (idle.fw.dead = false ∧ idle.fw.standbyLost = false) ∧
    (let s : State := { idle with fw := { idle.fw with standbyLost := true } }
     s.fw.standbyLost = true) := by
  decide

def scheduled (x : Schedule) : State :=
  { staged with cfg := { staged.cfg with schedule := some x } }

theorem wit_UpdatesAdvance :
    (idle.cfg.staging = none) ∧
    (let s : State := { idle with cfg := { idle.cfg with staging := some (7, ⟨.staged, 1, 1, 0, 0⟩, some 3) } }
     s.cfg.staging = some (7, ⟨.staged, 1, 1, 0, 0⟩, some 3) ∧ s.fw.restarting[0] = false) ∧
    (idle.cfg.schedule = none) ∧
    ((scheduled ⟨true, false, 1, 0, 7⟩).activationDue ⟨true, false, 1, 0, 7⟩ = false) ∧
    ((scheduled ⟨true, false, 0, 0, 7⟩).activationDue ⟨true, false, 0, 0, 7⟩ = true) ∧
    (let s := { scheduled ⟨false, false, 0, 0, 7⟩ with pkg := { idle.pkg with reserve := true } }
     s.activationDue ⟨false, false, 0, 0, 7⟩ = true ∧ s.activationBar ⟨false, false, 0, 0, 7⟩ = some .reserve) ∧
    (let s : State := { scheduled ⟨true, false, 0, 0, 7⟩ with cfg := { (scheduled ⟨true, false, 0, 0, 7⟩).cfg with rolling := some (4, false) } }
     s.cfg.rolling = some (4, false) ∧ s.cfg.schedule = some ⟨true, false, 0, 0, 7⟩ ∧ (4 : Nat) < 5 ∧ s.fw.dead = false ∧
       s.fw.restarting = Vector.replicate 3 false) ∧
    (idle.cfg.rolling = none) ∧
    ((inState .acorn).kp.state = .acorn ∧ (63 : Word).toNat + 256 < 320) := by
  decide +kernel

/-- For two compatible images the staging ends well and the scheduled activation is not barred. -/
theorem wit_compatible (h : Config.imagesCompatible 0 1 = true) :
    (let x : ImageSlot := ⟨.staged, 1, 1, 0, 0⟩
     let s : State := { idle with cfg := { idle.cfg with staging := some (7, x, none) } }
     s.cfg.staging = some (7, x, none) ∧ s.fw.restarting[0] = false ∧ s.compatible s.cfg.active x = true) ∧
    (∀ rolling : Bool, (scheduled ⟨rolling, false, 0, 0, 7⟩).activationDue ⟨rolling, false, 0, 0, 7⟩ = true ∧
      (scheduled ⟨rolling, false, 0, 0, 7⟩).activationBar ⟨rolling, false, 0, 0, 7⟩ = none) := by
  have hc : ∀ rolling : Bool, (scheduled ⟨rolling, false, 0, 0, 7⟩).compatible
      (scheduled ⟨rolling, false, 0, 0, 7⟩).cfg.active (scheduled ⟨rolling, false, 0, 0, 7⟩).cfg.other = true := by
    intro rolling
    show (Config.imagesCompatible 0 1 && _) = true
    rw [h]
    cases rolling <;> decide
  refine ⟨⟨rfl, by decide, ?_⟩, fun rolling => ⟨by cases rolling <;> decide, ?_⟩⟩
  · show (Config.imagesCompatible 0 1 && _) = true
    rw [h]
    decide
  · simp only [State.activationBar, hc]
    cases rolling <;> decide

/-- The module is the source of board time, or follows it. -/
def timed (role : Word) : State := { idle with clk := { idle.clk with timeCtrl := role, valid := true } }

theorem wit_Time :
    (idle.clk.slewLeft = 0) ∧
    (((idle.die 3).domains[16]).stopped = false) ∧
    (idle.powerRuns = true ∧ (1 : BitVec 3).toNat ≤ 1 ∧ 4 ≤ (4 : BitVec 3).toNat ∧ ((idle.die 3).domains[16]).lowRun < 9 ∧
      ((idle.die 3).domains[16]).highRun < 999) ∧
    (let s := idle.modDie 3 fun r => { r with domains := r.domains.set 16 { lowRun := 9 } }
     ((s.die 3).domains[16]).lowRun = 9) ∧
    (let s := idle.modDie 3 fun r => { r with domains := r.domains.set 16 { highRun := 999, marginCap := 0x48 } }
     ((s.die 3).domains[16]).highRun = 999 ∧ ((s.die 3).domains[16]).marginCap.toNat < 0x54 ∧
       ((s.die 3).domains[16]).marginCap.toNat ≤ ((s.die 3).domains[16]).target.toNat) ∧
    (let s : State := { timed 2 with clk := { (timed 2).clk with pendingLoad := some 2000000 } }
     s.clk.pendingLoad = some 2000000 ∧ s.timeRole ≠ 1 ∧ s.follows = false) ∧
    ((timed 1).clk.pendingLoad = none ∧ (timed 1).timeRole = 1 ∧ (timed 1).clk.valid = true) ∧
    ((timed 0).follows = true ∧ (timed 0).clk.holdover = false ∧ crc16 (timeBytes ⟨0, 0, 0, 0⟩) ≠ 0) ∧
    (let s : State := { timed 1 with clk := { (timed 1).clk with loadLo := 1000000 } }
     (1 : Word).getLsbD 0 = true ∧ s.loadRefused = false) ∧
    ((1 : Word).getLsbD 0 = true ∧ (timed 0).loadRefused = true ∧ (0xE : BitVec 4) ≠ 0xF) := by
  decide +kernel

theorem wit_Power :
    ((down .power).powerRuns = false) ∧
    (idle.powerRuns = true ∧ (List.replicate 16 1).length = 16 ∧ 0 < (List.replicate 16 1).sum) ∧
    (idle.pkg.reserve = false) ∧
    (({ idle with pkg := { idle.pkg with reserve := true } } : State).pkg.reserve = true) := by
  decide

theorem wit_Board :
    (idle.powerRuns = true ∧ idle.pkg.aux = true ∧ (sensorLevels (.stack 0)).1 ≤ (90 : Byte).toNat ∧
      (89 : Byte).toNat < (sensorLevels (.stack 0)).1) ∧
    (({ idle with pkg := { idle.pkg with aux := false } } : State).pkg.aux = false) ∧
    (let p : ResetPulse := ⟨99, false, 0, false⟩
     p.lowNs < 100) ∧
    (let p : ResetPulse := ⟨1000, true, 0, false⟩
     1000 ≤ p.lowNs) ∧
    (idle.bootReady = false) ∧
    (State.reset.bootReady = true ∧ State.reset.cfg.revertDue = false ∧ State.reset.cfg.fallbackDue = false ∧
      State.reset.cfg.other.state = .empty) := by
  decide

/-! ## Witnesses: the log, the sideband and the registers -/

def openRec (slot : Nat) : OpenRec := ⟨{ (default : Record) with subject := 9, isOpen := true }, slot, none, 0, 0, true⟩

theorem wit_Log :
    (let s : State := { idle with scribe := { idle.scribe with opens := [openRec 65] } }
     (s.scribe.opens.find? fun o => o.record.subject = 9) = some (openRec 65) ∧ ∀ o ∈ s.scribe.opens, o.record.subject ≠ 8) ∧
    (idle.scribe.mirror.contains 65 = false) ∧
    (let s : State := { idle with scribe := { idle.scribe with mirror := [65], slots := [(65, default)] } }
     s.scribe.mirror.contains 65 = true ∧ s.scribe.slots.find? (fun x => x.1 = 65) = some (65, default)) ∧
    (idle.pkg.aux = true ∧ (1048575 : Word).toNat ≤ 1048575 ∧ 1048575 < (1048576 : Word).toNat) ∧
    (({ idle with pkg := { idle.pkg with aux := false } } : State).pkg.aux = false) := by
  decide

theorem wit_Pldm :
    (idle.pkg.aux = true ∧ idle.powerRuns = true ∧ (0x0100 : BitVec 16).toNat < 0x0101 ∧ 0x011F < (0x0120 : BitVec 16).toNat ∧
      pldmSensors[20]? = some 0x011F ∧ pldmSensors.length < (22 : Word).toNat ∧ (1 : Byte) ≠ 0 ∧ (1 : Byte) ≠ 2) ∧
    (({ idle with pkg := { idle.pkg with aux := false } } : State).pkg.aux = false) ∧ (down .power).powerRuns = false := by
  decide

/-- A connection at a stage, with its sessions. -/
def connected (stage : Nat) (l : List SpdmSession) : State :=
  { idle with sec := { idle.sec with doe := { stage := stage, sessions := l, chunksOut := [1] } } }

theorem wit_Spdm :
    (idle.spdmUp = true ∧ (idle.conn .doe).stage = 0) ∧
    ((connected 1 []).spdmUp = true ∧ 1 ≤ ((connected 1 []).conn .doe).stage ∧ ((connected 1 []).conn .doe).stage < 2) ∧
    (2 ≤ ((connected 2 []).conn .doe).stage ∧ ((connected 2 []).conn .doe).stage < 3) ∧
    (((connected 3 []).conn .doe).stage = 3 ∧ ((connected 3 []).conn .doe).sessions.length < 4 ∧
      ((connected 3 []).conn .doe).chunksOut ≠ [] ∧ ((connected 3 []).conn .doe).chunk 0 [1] = some (1, [1])) ∧
    (4 ≤ ((connected 3 (List.replicate 4 ⟨1, true, 0⟩)).conn .doe).sessions.length) ∧
    (∃ x ∈ ((connected 3 [⟨1, false, 0⟩]).conn .doe).sessions, x.id = 1 ∧ x.established = false) ∧
    (((connected 3 [⟨1, true, 0⟩]).conn .doe).inSession 1 = true ∧ ((connected 3 [⟨1, true, 0⟩]).conn .doe).inSession 2 = false) ∧
    ((down .security).spdmUp = false) := by
  decide

theorem wit_RegisterWrites :
    (accessOf (placeOfOffset (0x004801C : BitVec 25).toNat) = none ∧ accessOf (placeOfOffset (0x001 : BitVec 25).toNat) = none) ∧
    (accessOf (placeOfOffset (0x0200008 : BitVec 25).toNat) ≠ none ∧ (0x7 : BitVec 4) ≠ 0xF) ∧
    (accessOf (placeOfOffset (0x0000000 : BitVec 25).toNat) = some .ro) ∧
    (accessOf (placeOfOffset (0x0300000 : BitVec 25).toNat) = some .rwp ∧ idle.kp.peg = true ∧
      rangeGood (placeOfOffset (0x0300000 : BitVec 25).toNat) 0x18 = false ∧
      rangeGood (placeOfOffset (0x0300000 : BitVec 25).toNat) 0x19 = true) ∧
    (State.reset.kp.peg = false ∧ State.reset.kp.pegPending = false) ∧
    (idle.polls = true ∧ State.reset.polls = false ∧ (1 : Word).getLsbD 0 = true ∧ (0 : Word).getLsbD 0 = false ∧
      idle.kp.state = .idle ∧ stepping.kp.state ≠ .idle ∧ State.reset.kp.pegPending = false) ∧
    (let s := ({ idle with
        kp := { idle.kp with peg := false, pegPending := true }
        host := { idle.host with dbLo := 64 } } : State).modRing 0 fun r => { r with ctrl := 0x0B, lo := 4096, cplLo := 65536 }
     s.kp.pegPending = true ∧ s.setupFault = none) ∧
    (let s : State := { idle with kp := { idle.kp with pegPending := true } }
     s.setupFault = some 0x0100000 ∧ 0x0100000 < 2 ^ 25) := by
  decide

theorem wit_Ledger :
    (idle.isIdleKind = true ∧ idle.ledgerRefused 0 0x7F = false ∧ idle.ledgerRefused 0 0xFF = true) ∧
    (stepping.kp.state = .running) ∧
    (idle.scribe.slotReg.getLsbD 31 = false ∧
      ({ idle with scribe := { idle.scribe with slotReg := 0x80000000 } } : State).scribe.slotReg.getLsbD 31 = true) := by
  decide

/-- An update list that protects the first 32 bytes of stack 0's window is loaded in an armed job. -/
def guarded : State :=
  (inState .armed).modSill 0 fun m => { m with
    lists := m.lists.set 0 ⟨[{ (default : Shard) with blocks := 1, master := 0x20000000 }], []⟩ }

theorem wit_Aperture :
    (0x300000 ≤ (0x3FFFFF : BitVec 36).toNat ∧ (0x3FFFFF : BitVec 36).toNat + ([5] : List Byte).length ≤ 0x400000) ∧
    (0x400000 ≤ (0x400000 : BitVec 36).toNat ∧ State.reset.memoryOn = false ∧
      idle.inMemory (idle.apertureAddr (0x400000 : BitVec 36).toNat) 1 = false) ∧
    (let s : State := { guarded with host := { guarded.host with apertureLo := 0xFFC00000, apertureHi := 3 } }
     s.jobArmed = true ∧ s.apertureAddr (0x400000 : BitVec 36).toNat = 0x400000000 ∧ s.meetsProtected 0x400000000 1 = true) ∧
    (idle.mgmt.waiting = []) ∧
    (let e : Event := ⟨1, .done, 1, 0, 0, 0⟩
     let s : State := { idle with mgmt := { idle.mgmt with waiting := [e], evtProduced := 4096 } }
     s.mgmt.waiting = [e] ∧ (s.mgmt.evtProduced - 1).toNat < 4096 ∧ s.fw.restarting[2] = false ∧ s.fw.dead = false) := by
  decide +kernel

theorem wit_Invariant : Good State.reset ∧ Machine.step State.reset = .next State.reset :=
  ⟨⟨by decide +kernel, by decide⟩, rfl⟩

/-! ## Single steps: the results that the rules give -/

/-- The state after a command that answers one. -/
def after (o : Host.Outcome State Fault Refusal) : State :=
  match o with
  | .next t => t
  | _ => State.reset

/-- The thread after an instruction on a bay whose registers a function gives. -/
def runs (f : Fin 16 → DWord) (i : Instr) : Thread := (after (exec i (ready f))).thread t0

theorem test_sum_wraps : (runs (fun k => if k = 1 then -1 else 2) (.sum t0 3 1 2)).regs[3] = 1 ∧
    (runs (fun k => if k = 1 then -1 else 2) (.sum t0 3 1 2)).pc = 5 := by decide +kernel
theorem test_diff_borrows : (runs (fun k => BitVec.ofNat 64 k.val) (.diff t0 3 1 2)).regs[3] = -1 := by decide +kernel
theorem test_rshs_floors : (runs (fun k => if k = 1 then -5 else 1) (.rshs t0 3 1 2)).regs[3] = -3 := by decide +kernel
theorem test_rsh_is_unsigned :
    (runs (fun k => if k = 1 then -1 else 63) (.rsh t0 3 1 2)).regs[3] = 1 := by decide +kernel
theorem test_lsh_by_64_is_by_0 : (runs (fun k => if k = 1 then 7 else 64) (.lsh t0 3 1 2)).regs[3] = 7 := by decide +kernel
theorem test_cmps_signed : (runs (fun k => if k = 1 then -1 else 1) (.cmps t0 3 1 2)).regs[3] = -1 := by decide +kernel
theorem test_cmpu_unsigned : (runs (fun k => if k = 1 then -1 else 1) (.cmpu t0 3 1 2)).regs[3] = 1 := by decide +kernel
theorem test_place_third_quarter :
    (runs (fun _ => 0x1111222233334444) (.place t0 3 2 0xABCD)).regs[3] = 0x1111ABCD33334444 := by decide +kernel
theorem test_set_sign_extends : (runs (fun _ => 0) (.set t0 3 0x80000)).regs[3] = 0xFFFFFFFFFFF80000 := by decide +kernel
theorem test_call_saves_next : (runs (fun _ => 0) (.call t0 15 (-4))).regs[15] = 5 ∧
    (runs (fun _ => 0) (.call t0 15 (-4))).pc = 0 := by decide +kernel
theorem test_store4_is_little_endian :
    ((after (exec (.store4 t0 1 0 1) (ready fun k => if k = 1 then 0xDDCCBBAA else 0))).bay b0).dmem =
      [(4, 0xAA), (5, 0xBB), (6, 0xCC), (7, 0xDD)] := by decide +kernel

theorem test_post_moves_the_tail :
    ((after (exec (.fetchPost ch 0 512) streaming)).stream b0 0).posted = 512 := by decide +kernel
theorem test_complete_counts :
    (((after (exec (.commandComplete b0 .vector) (busy 0))).bay b0).counters[2]).value = 1 := by decide +kernel
theorem test_first_beat_stores :
    Sparse.get (0 : W40) ((after (exec (.reductionBeat b0 1 0 1 ((5 : W40) :: List.replicate 255 0)) kilned)).bay b0).kiln
      (32 * 100 + 256) = 5 := by decide +kernel

/-- 1.0 and 2.0 stand at loft offsets 0 and 4 of die 0. -/
def floats : State := idle.writeLoft 0 0 (leBytes 4 0x3F800000 ++ leBytes 4 0x40000000)

theorem test_elementwise_sum_is_3 :
    ((after (exec (.elementwise ch ⟨1, 4, 4, false, 0, 0, 4, 0, 8, 1, 0⟩) floats)).die 0).loft.readNat 8 4 = 0x40400000 := by
  decide +kernel

theorem test_crc32c_check : crc32c [0x31, 0x32, 0x33, 0x34, 0x35, 0x36, 0x37, 0x38, 0x39] = 0xE3069283 := by decide +kernel
theorem test_crc16_check : crc16 [0x31, 0x32, 0x33, 0x34, 0x35, 0x36, 0x37, 0x38, 0x39] = 0x29B1 := by decide +kernel
theorem test_a8_largest : BlockFmt.a8.element 0x7E = .fin false 14 5 := by decide +kernel
theorem test_g8_infinity : BlockFmt.g8.element 0xFC = .inf true := by decide +kernel
theorem test_vote_tie : voteCode 4 2 = 0 ∧ voteCode 4 3 = 3 ∧ voteCode 4 1 = 1 := by decide

theorem test_partial_write_is_dropped :
    let t := after (exec (.registerWrite 0x0200020 5 0x7) idle)
    t.kp.droppedWrites = 1 ∧ t.kp.droppedLast = 0x0200020 ∧ t.clk.loadLo = 0 := by decide +kernel
theorem test_whole_write_is_kept : (after (exec (.registerWrite 0x0200020 5 0xF) idle)).clk.loadLo = 5 := by decide +kernel
theorem test_read_only_is_ignored : exec (.registerWrite 0 5 0xF) idle = .next idle := rfl
theorem test_scratch_reads_back :
    (after (exec (.apertureRead 0x300010 2 []) (after (exec (.apertureWrite 0x300010 [7, 8]) idle)))).io.bar2 = [7, 8] := by
  decide +kernel
theorem test_ledger_write : ((after (exec (.ringLedgerDataWrite 3 0x81 0xF) idle)).die 3).ledgerAt 0 = 0x81 := by decide +kernel
theorem test_attach_answers :
    let s : State := { idle with host := { idle.host with attached := false } }
    ((after (exec (.attach hd 0x5 0) s)).mgmt.events.map fun e => (e.kind, e.status, e.tag)) = [(0x01, .done, 7)] ∧
      (after (exec (.attach hd 0x5 0) s)).mgmt.accepted = 5 ∧
      (after (exec (.attach hd 0x5 0) s)).host.heartbeatTimeout = 30 := by decide +kernel
theorem test_route_write :
    (after (exec (.routeWrite hd 5 1 0) (scratched idle [0x23]))).route 5 = some 3 := by decide +kernel
theorem test_verdict_timeout_is_peer_lost :
    (after (exec .verdictTimeout (treed .fence []))).kp.state = .quiesced := by decide +kernel
theorem test_reset_pulse_counts_a_boot :
    (after (exec (.moduleReset ⟨1000, false, 5, false⟩) idle)).kp.bootCount = 1 ∧
      (after (exec (.moduleReset ⟨1000, false, 5, false⟩) idle)).pkg.i3cAddr = 5 := by decide +kernel
theorem test_step_runs_the_front :
    step { State.reset with pending := [.hold t0, .stop t0] } = exec (.hold t0) { State.reset with pending := [.stop t0] } := rfl
theorem test_turn_goes_round :
    ((after (exec (.hold ⟨b0, 3⟩) counting)).bay b0).lastIssued = 7 ∧ ((after (exec (.hold t0) counting)).bay b0).lastIssued = 0 ∧
      ((after (exec (.hold t0) counting)).thread t0).pc = 5 := by decide +kernel
theorem test_claimed_beat_copies :
    let x : SwitchSlot := ⟨[⟨.slice 0 (.offset 0), .slice 1 (.offset 0x4000000), 2⟩], [], [], []⟩
    let s := (segmented [x] 0).writeLoft 0 0 [7, 8, 9]
    ((after (exec (.slotIssue 0 ⟨[], [], [], []⟩) s)).die 0).loft.read 0x4000000 3 = [7, 8, 0] := by decide +kernel
theorem test_held_slot_stays :
    (((after (exec (.slotIssue 0 ⟨[], [], [], []⟩) gatedSlot)).die 0).segment.map Segment.issued) = some 0 := by decide +kernel
theorem test_segment_is_numbered :
    (((after (exec (.segmentStart 0 []) (started 0))).die 0).segment.map Segment.number) = some 0 ∧
      ((after (exec (.segmentStart 0 []) (started 0))).die 0).nextSegment = 1 := by decide +kernel
theorem test_cancelled_segment_runs_no_slot :
    let t := after (exec (.segmentStart 0 []) startedCancelled)
    (t.die 0).segment = none ∧ ((t.bay b0).counters[1]).last = statusCode .cancelled := by decide +kernel

end Sys2Proof.Tests
end

/-! PROOFS. What one write to BAR0 does, by the access code of the register it lands on (R9, R399, R400), and the registers whose
write has an effect of its own (R268, R401, R403). -/

namespace Sys2Proof.Machine

/-! ## The instructions that write one register -/

theorem exec_registerWrite (off : BitVec 25) (v : Word) (en : BitVec 4) (s : State) :
    exec (.registerWrite off v en) s = .next (s.writeReg off.toNat v en) := rfl

theorem exec_counterClear (off : BitVec 25) (v : Word) (en : BitVec 4) (s : State) :
    exec (.counterClear off v en) s = .next (s.writeReg off.toNat v en) := rfl

theorem exec_kpNudgeWrite (v : Word) (en : BitVec 4) (s : State) :
    exec (.kpNudgeWrite v en) s = .next (s.writeReg 0x02C v en) := rfl

theorem exec_kpPegWrite (v : Word) (en : BitVec 4) (s : State) :
    exec (.kpPegWrite v en) s = .next (s.writeReg 0x024 v en) := rfl

/-! ## A write by its access code (R9, R399, R400) -/

theorem State.writeReg_of_reserved (s : State) {off : Nat} (v : Word) (en : BitVec 4)
    (h : accessOf (placeOfOffset off) = none) : s.writeReg off v en = s := by
  simp only [State.writeReg, h]

theorem State.writeReg_of_partial (s : State) {off : Nat} (v : Word) {en : BitVec 4}
    (h : accessOf (placeOfOffset off) ≠ none) (hen : en ≠ 0xF) : s.writeReg off v en = s.dropWrite off := by
  obtain ⟨a, ha⟩ := Option.ne_none_iff_exists'.mp h
  simp only [State.writeReg, ha, if_pos hen]

theorem State.writeReg_of_ro (s : State) {off : Nat} (v : Word) (h : accessOf (placeOfOffset off) = some .ro) :
    s.writeReg off v 0xF = s := by
  simp [State.writeReg, h]

theorem State.writeReg_of_rwp (s : State) {off : Nat} (v : Word) (h : accessOf (placeOfOffset off) = some .rwp) :
    s.writeReg off v 0xF = s.writeRwp off (placeOfOffset off) v := by
  simp [State.writeReg, h]

/-! ## The gate of the set-up registers (R9, R403) -/

theorem State.writeRwp_of_shut (s : State) (off : Nat) {p : Place} {v : Word}
    (h : s.kp.peg = true ∨ s.kp.pegPending = true ∨ rangeGood p v = false) : s.writeRwp off p v = s.dropWrite off := by
  have hshut : (s.setupOpen && rangeGood p v) = false := by
    rcases h with h | h | h <;> simp [State.setupOpen, h]
  simp [State.writeRwp, hshut]

theorem State.writeRwp_of_open (s : State) (off : Nat) {p : Place} {v : Word} (hpeg : s.kp.peg = false)
    (hpend : s.kp.pegPending = false) (hr : rangeGood p v = true) : s.writeRwp off p v = s.setRwp p v := by
  simp [State.writeRwp, State.setupOpen, hpeg, hpend, hr]

/-! ## The registers of KP whose write has an effect of its own (R268, R401, R403) -/

theorem State.writeReg_nudge (s : State) (v : Word) : s.writeReg 0x02C v 0xF = s.writeNudge := rfl

theorem State.writeReg_peg (s : State) (v : Word) : s.writeReg 0x024 v 0xF = s.writePeg v := rfl

theorem State.writeReg_dropClear (s : State) (v : Word) : s.writeReg 0x040 v 0xF = s.writeClear (.kp 0x040) v := rfl

theorem State.writeNudge_of_polls (s : State) (h : s.polls = true) :
    s.writeNudge = { s with host := { s.host with nudged := true } } := by
  simp only [State.writeNudge, if_pos h]

theorem State.writeNudge_of_not_polls (s : State) (h : s.polls = false) : s.writeNudge = s := by
  simp only [State.writeNudge, h, Bool.false_eq_true, if_false]

theorem State.writePeg_of_idle (s : State) {v : Word} (hb : v.getLsbD 0 = true) (hi : s.kp.state = .idle) :
    s.writePeg v = { s with kp := { s.kp with pegPending := true } } := by
  simp only [State.writePeg, if_pos hb, if_pos hi]

theorem State.writePeg_of_not_idle (s : State) {v : Word} (hb : v.getLsbD 0 = true) (hi : s.kp.state ≠ .idle) :
    s.writePeg v = s.dropWrite 0x024 := by
  simp only [State.writePeg, if_pos hb, if_neg hi]

theorem State.writePeg_of_zero (s : State) {v : Word} (hb : v.getLsbD 0 = false) : s.writePeg v = s := by
  simp only [State.writePeg, hb, Bool.false_eq_true, if_false]

theorem State.writeClear_drops (s : State) {v : Word} (hb : v.getLsbD 0 = true) :
    s.writeClear (.kp 0x040) v = { s with kp := { s.kp with droppedWrites := 0, droppedLast := 0 } } := by
  simp only [State.writeClear, if_pos hb]

/-! ## The answer of the peg check (R266, R403) -/

theorem execPegCheck_idle (s : State) (h : s.kp.pegPending = false) : execPegCheck s = .next s := by
  simp [execPegCheck, h]

theorem execPegCheck_good (s : State) (h : s.kp.pegPending = true) (hf : s.setupFault = none) :
    execPegCheck s = .next { s with kp := { s.kp with peg := true, pegPending := false, setupError := 0 } } := by
  simp [execPegCheck, h, hf]

theorem execPegCheck_bad (s : State) {o : Nat} (h : s.kp.pegPending = true) (hf : s.setupFault = some o) :
    execPegCheck s =
      .next { s with kp := { s.kp with pegPending := false, setupError := BitVec.ofNat 32 (0x80000000 + o) } } := by
  simp [execPegCheck, h, hf]

/-- KP_SETUP_ERROR names the offset below its bit 31 (R266). -/
theorem setupError_fields {o : Nat} (h : o < 2 ^ 25) :
    (BitVec.ofNat 32 (0x80000000 + o)).getLsbD 31 = true ∧ (BitVec.ofNat 32 (0x80000000 + o)).toNat % 2 ^ 25 = o := by
  have hn : (BitVec.ofNat 32 (0x80000000 + o)).toNat = 0x80000000 + o := by
    rw [BitVec.toNat_ofNat]; omega
  refine ⟨?_, by omega⟩
  rw [← BitVec.msb_eq_getLsbD_last (x := BitVec.ofNat 32 (0x80000000 + o)), BitVec.msb_eq_decide, hn]
  simp

/-! ## The obligation -/

/-- A write to any offset does what the access code of its register says. -/
theorem registerWrite_by_access (s : State) (off : BitVec 25) (v : Word) (en : BitVec 4) :
    (accessOf (placeOfOffset off.toNat) = none → exec (.registerWrite off v en) s = .next s) ∧
    (accessOf (placeOfOffset off.toNat) ≠ none → en ≠ 0xF →
      exec (.registerWrite off v en) s = .next (s.dropWrite off.toNat)) ∧
    (accessOf (placeOfOffset off.toNat) = some .ro → exec (.registerWrite off v 0xF) s = .next s) ∧
    (accessOf (placeOfOffset off.toNat) = some .rwp →
      s.kp.peg = true ∨ s.kp.pegPending = true ∨ rangeGood (placeOfOffset off.toNat) v = false →
      exec (.registerWrite off v 0xF) s = .next (s.dropWrite off.toNat)) ∧
    (accessOf (placeOfOffset off.toNat) = some .rwp → s.kp.peg = false → s.kp.pegPending = false →
      rangeGood (placeOfOffset off.toNat) v = true →
      exec (.registerWrite off v 0xF) s = .next (s.setRwp (placeOfOffset off.toNat) v)) := by
  simp only [exec_registerWrite]
  refine ⟨fun h => ?_, fun h hen => ?_, fun h => ?_, fun h hshut => ?_, fun h hpeg hpend hr => ?_⟩
  · rw [s.writeReg_of_reserved v en h]
  · rw [s.writeReg_of_partial v h hen]
  · rw [s.writeReg_of_ro v h]
  · rw [s.writeReg_of_rwp v h, s.writeRwp_of_shut _ hshut]
  · rw [s.writeReg_of_rwp v h, s.writeRwp_of_open _ hpeg hpend hr]

/-- Settles O52: the access code decides a write (`registerWrite_by_access`), the other instructions are that write at their
offset, and the nudge, the peg, the clear and the peg check follow from their own equations. -/
theorem registerWritesFollowTheirAccess : Obligations.RegisterWritesFollowTheirAccess := by
  unfold Obligations.RegisterWritesFollowTheirAccess
  refine ⟨fun s off v en => ?_, fun s v => ?_⟩
  · obtain ⟨hres, hpart, hro, hshut, hopen⟩ := registerWrite_by_access s off v en
    exact ⟨hres, hpart, hro, hshut, hopen, rfl, rfl, rfl⟩
  · have hclear : exec (.counterClear 0x040 v 0xF) s = .next (s.writeReg 0x040 v 0xF) := exec_counterClear 0x040 v 0xF s
    rw [exec_kpNudgeWrite, exec_kpPegWrite, hclear, s.writeReg_nudge, s.writeReg_peg, s.writeReg_dropClear]
    refine ⟨fun hp => ?_, fun hp => ?_, fun hb hi => ?_, fun hb hi => ?_, fun hb => ?_, fun hb => ?_,
      fun hp => ⟨fun hf => ?_, fun o hf ho => ?_⟩, fun hp => ?_⟩
    · rw [s.writeNudge_of_polls hp]
    · rw [s.writeNudge_of_not_polls hp]
    · rw [s.writePeg_of_idle hb hi]
    · rw [s.writePeg_of_not_idle hb hi]
    · rw [s.writePeg_of_zero hb]
    · rw [s.writeClear_drops hb]
    · exact execPegCheck_good s hp hf
    · obtain ⟨hbit, hoff⟩ := setupError_fields ho
      exact ⟨_, execPegCheck_bad s hp hf, rfl, rfl, hbit, hoff⟩
    · exact execPegCheck_idle s hp

end Sys2Proof.Machine

/-! PROOFS. What an engine that is free does with the command it is given (R76, R90, R437): it runs it, refuses it, or
leaves it in its queue. -/

namespace Sys2Proof.Machine

/-! ## Queues of a bay -/

/-- Two changes of a queue that agree on what it holds are one. -/
theorem State.modQueue_congr (s : State) (b : BayId) (q : QueueIx) {f g : EngineQueue → EngineQueue}
    (h : f ((s.bay b).queue q) = g ((s.bay b).queue q)) : s.modQueue b q f = s.modQueue b q g := by
  have hq : f ((s.dies[b.die]).bays[b.bay]).queues[queueNo q] = g ((s.dies[b.die]).bays[b.bay]).queues[queueNo q] := h
  simp only [State.modQueue, State.modBay, State.modDie, RingDie.modBay, Bay.modQueue, updAt, hq]

@[simp] theorem State.modQueue_self (s : State) (b : BayId) (q : QueueIx) (f : EngineQueue → EngineQueue) :
    ((s.modQueue b q f).bay b).queue q = f ((s.bay b).queue q) := by
  simp only [State.modQueue, State.modBay_self, Bay.modQueue, Bay.queue, updAt_self]

theorem State.wakeVector_of_ne (s : State) (b : BayId) {q : QueueIx} (h : q ≠ .vector) : s.wakeVector b q = s := by
  simp only [State.wakeVector, h, if_false]

/-! ## A command at a free engine -/

section FreeEngine

variable {s : State} {h : CmdHead} {q : QueueIx} (cmd : EngineCmd) {ready good fits : Bool} (run : State → State × Status)

/-- A free engine runs a command with good fields once it is ready for it. -/
theorem State.takeCmd_runs (hf : engineFree s h q) (hq : q ≠ .vector) (hready : ready = true) (hgood : good = true)
    (hfits : fits = true) :
    s.takeCmd h q cmd ready good run fits = running (run s).1 h q cmd (run s).2 := by
  obtain ⟨hen, hrun, hwait, huc⟩ := hf
  simp [State.takeCmd, hen, hrun, hwait, huc, hready, hgood, hfits, s.wakeVector_of_ne h.bay hq, running]

/-- A free engine refuses a command with a bad field as it takes it (R437). -/
theorem State.takeCmd_refuses (hf : engineFree s h q) (hgood : good = false) :
    s.takeCmd h q cmd ready good run fits = (s.finishCmd h.bay q h.ctr .badDescriptor (cmdTag cmd)).settleFuncs h.bay := by
  obtain ⟨hen, hrun, hwait, huc⟩ := hf
  simp [State.takeCmd, hen, hrun, hwait, huc, hgood]

/-- A command with good fields waits in its queue while the engine is not ready for it (R76). -/
theorem State.takeCmd_waits (hf : engineFree s h q) (hready : ready = false) (hgood : good = true) :
    s.takeCmd h q cmd ready good run fits = s.modQueue h.bay q fun x => { x with waiting := [⟨h.ctr, true, cmd⟩] } := by
  obtain ⟨hen, hrun, hwait, huc⟩ := hf
  have henq : s.takeCmd h q cmd ready good run fits = s.enqueue h.bay q ⟨h.ctr, true, cmd⟩ := by
    simp [State.takeCmd, hen, hwait, huc, hready, hgood]
  rw [henq]
  simp only [State.enqueue, hen, hwait]
  exact s.modQueue_congr h.bay q (by rw [hwait]; rfl)

end FreeEngine

end Sys2Proof.Machine

/-! PROOFS. The commands of the LINK queue at a free engine (R172, R214, R219 to R240). -/

namespace Sys2Proof.Machine

/-! ## Each LINK command at its engine -/

theorem exec_reduce (c : CmdHead) (f : ReduceFields) (s : State) : exec (.reduce c f) s =
    .next (s.takeCmd c .link (.reduce f) true (s.reduceGood f) fun s => s.runReduce c.bay f) := rfl

theorem exec_gather (c : CmdHead) (f : GatherFields) (s : State) : exec (.gather c f) s =
    .next (s.takeCmd c .link (.gather f) true (s.runGood f.coll false f.first f.count) fun s => s.runGather f) := rfl

theorem exec_vote (c : CmdHead) (f : VoteFields) (s : State) : exec (.vote c f) s =
    .next (s.takeCmd c .link (.vote f) (!s.runGood f.coll true f.first f.count || s.signsReady f)
      (s.runGood f.coll true f.first f.count) fun s => s.runVote f) := rfl

theorem exec_sign (c : CmdHead) (f : SignFields) (s : State) : exec (.sign c f) s =
    .next (s.takeCmd c .link (.sign f) true (s.signShard f).isSome fun s => s.runSign f) := rfl

theorem exec_dispatch (c : CmdHead) (f : DispatchFields) (s : State) : exec (.dispatch c f) s =
    .next (s.takeCmd c .link (.dispatch f) true (s.dispatchGood c.bay f) fun s => s.runDispatch c.bay f) := rfl

theorem exec_combine (c : CmdHead) (f : CombineFields) (s : State) : exec (.combine c f) s =
    .next (s.takeCmd c .link (.combine f) (!s.combineGood f || s.combineReady f) (s.combineGood f)
      fun s => s.runCombine c.bay f) := rfl

theorem exec_send (c : CmdHead) (f : SendFields) (s : State) : exec (.send c f) s =
    .next (s.takeCmd c .link (.send f) true (inLoft f.src.toNat f.bytes.toNat) fun s => s.runSend c.bay f) := rfl

/-! ## What a GATHER, a SIGN and a SEND answer -/

theorem State.runGather_withheld (s : State) (f : GatherFields) {v : Bits} (h : s.withheld = some v) :
    s.runGather f = (s, if v.replay then .stepReplayed else .stepWithheld) := by
  simp only [State.runGather, h, withheldStatus]

/-- A run of chunks that is good belongs to an entry. -/
theorem State.collEntry_of_runGood (s : State) {coll : BitVec 12} {vote : Bool} {first : BitVec 28} {count : Word}
    (h : s.runGood coll vote first count = true) : ∃ x, s.collEntry coll.toNat = some x := by
  cases hc : s.collEntry coll.toNat with
  | none => simp [State.runGood, hc] at h
  | some x => exact ⟨x, rfl⟩

/-- A GATHER whose copies are all here asks for none (R224). -/
theorem State.runGather_complete (s : State) (f : GatherFields) (hg : s.runGood f.coll false f.first f.count = true)
    (hw : s.withheld = none) (hc : ∀ n ∈ runOf f.first.toNat f.count.toNat, (f.coll.toNat, n) ∈ s.coll.copies) :
    s.runGather f = (s, .done) := by
  obtain ⟨⟨e, g⟩, he⟩ := s.collEntry_of_runGood hg
  have hmissing : (runOf f.first.toNat f.count.toNat).filter (fun c => !s.coll.copies.contains (f.coll.toNat, c)) = [] :=
    List.filter_eq_nil_iff.mpr fun n hn => by simp [hc n hn]
  simp only [State.runGather, hw, he, hmissing, State.sendRun]

/-- A SIGN of a VOTE shard marks it signed and answers DONE (R172). -/
theorem State.runSign_signs (s : State) (f : SignFields) {m : SillId} {h : Shard} (hs : s.signShard f = some (m, h)) :
    (m.val, f.shard.toNat) ∈ (s.runSign f).1.coll.signed ∧ (s.runSign f).2 = .done := by
  simp only [State.runSign, hs]
  exact ⟨List.mem_append_right _ (List.mem_singleton_self _), trivial⟩

/-- A list of at most `n` elements is one piece. -/
theorem chunksOf_of_le {α : Type} {n : Nat} {l : List α} (h0 : l ≠ []) (hn : l.length ≤ n) :
    chunksOf n (l.length + 1) l = [l] := by
  have hpos : 0 < l.length := List.length_pos_iff.mpr h0
  obtain ⟨k, hk⟩ : ∃ k, l.length = k + 1 := ⟨l.length - 1, by omega⟩
  simp [chunksOf, hk, h0, List.take_of_length_le hn, List.drop_of_length_le hn]

/-- Up to 16,384 bytes for this module land in one piece (R219). -/
theorem State.runSend_here (s : State) (b : BayId) (f : SendFields) (hd : f.dstId = s.moduleId) (h0 : 0 < f.bytes.toNat)
    (hn : f.bytes.toNat ≤ 16384) :
    s.runSend b f = (s.landSend f.dst.toNat (s.readLoft b.die f.src.toNat f.bytes.toNat), .done) := by
  have hlen : (s.readLoft b.die f.src.toNat f.bytes.toNat).length = f.bytes.toNat := Memory.read_length _ _ _
  have hne : s.readLoft b.die f.src.toNat f.bytes.toNat ≠ [] := List.length_pos_iff.mp (by omega)
  have hone := chunksOf_of_le hne (hlen.trans_le hn)
  simp only [State.runSend, hd, if_true, hone, List.zipIdx_singleton, List.foldl_cons, List.foldl_nil, Nat.mul_zero, Nat.add_zero]

theorem State.runSend_unreachable (s : State) (b : BayId) (f : SendFields) {st : Status} (hd : f.dstId ≠ s.moduleId)
    (hu : s.unreachable f.dstId = some st) : s.runSend b f = (s.lost f.dstId st, st) := by
  simp only [State.runSend, hd, if_false, hu]

/-! ## The obligation -/

/-- Settles O27: at a free engine each command runs, or waits in its queue (`takeCmd_runs`, `takeCmd_waits`); what GATHER, SIGN
and SEND then answer are their own lemmas. -/
theorem linkQueueCommandsTakeEffect : Obligations.LinkQueueCommandsTakeEffect := by
  unfold Obligations.LinkQueueCommandsTakeEffect
  intro s c hf
  have runs {cmd : EngineCmd} {ready good : Bool} (run : State → State × Status) (hr : ready = true) (hg : good = true) :
      s.takeCmd c .link cmd ready good run = running (run s).1 c .link cmd (run s).2 :=
    State.takeCmd_runs cmd run hf (by decide) hr hg rfl
  refine ⟨fun f hg => ?_, fun f v hg hw => ?_, fun f hg hw hc => ?_, fun f hg => ⟨fun hr => ?_, fun hr => ?_⟩,
    fun f m h hs => ?_, fun f hg => ?_, fun f hg => ⟨fun hr => ?_, fun hr => ?_⟩, fun f hd h0 hn hl => ?_,
    fun f st hd hu hl => ?_⟩
  · exact ⟨_, _, Prod.mk.eta.symm, by rw [exec_reduce, runs _ rfl hg]⟩
  · rw [exec_gather, runs _ rfl hg, s.runGather_withheld f hw]
  · rw [exec_gather, runs _ rfl hg, s.runGather_complete f hg hw hc]
  · exact ⟨_, _, Prod.mk.eta.symm, by rw [exec_vote, runs _ (by simp [hr]) hg]⟩
  · rw [exec_vote, State.takeCmd_waits _ _ hf (by simp [hr, hg]) hg]
  · obtain ⟨hsigned, hdone⟩ := s.runSign_signs f hs
    exact ⟨_, by rw [exec_sign, runs _ rfl (by simp [hs]), hdone], hsigned⟩
  · exact ⟨_, _, Prod.mk.eta.symm, by rw [exec_dispatch, runs _ rfl hg]⟩
  · exact ⟨_, _, Prod.mk.eta.symm, by rw [exec_combine, runs _ (by simp [hr]) hg]⟩
  · rw [exec_combine, State.takeCmd_waits _ _ hf (by simp [hr, hg]) hg]
  · rw [exec_send, runs _ rfl hl, s.runSend_here c.bay f hd h0 hn]
  · rw [exec_send, runs _ rfl hl, s.runSend_unreachable c.bay f hd hu]

end Sys2Proof.Machine

/-! PROOFS. Merged writes to module memory that meet no poisoned sector, and the check of GRAD ranges (R146, R153, R178). -/

namespace Sys2Proof.Machine

/-! ## Writes that meet no poisoned sector in part -/

theorem State.writeMerged_of_no_badPartials (s : State) (a : Nat) {l : List Byte} (h : s.badPartials a l.length = []) :
    s.writeMerged a l = s.writeMem a l := by
  simp only [State.writeMerged, h, State.readList, List.foldl_nil]

theorem State.writeMerged_only (s : State) (a : Nat) {l : List Byte} (h : s.badPartials a l.length = []) :
    OnlySills s (s.writeMerged a l) := by
  rw [s.writeMerged_of_no_badPartials a h]
  exact s.writeMem_only a l

/-- A write of no bytes changes nothing. -/
theorem State.writeMerged_nil (s : State) (a : Nat) : s.writeMerged a [] = s := by
  have hnone : s.sectorsOf a ([] : List Byte).length = [] := rfl
  rw [s.writeMerged_of_no_badPartials a (by simp only [State.badPartials, hnone, List.filterMap_nil])]
  simp only [State.writeMem, hnone, List.foldl_nil, State.writeBytes]

/-! ## Stacks without a poisoned sector -/

/-- No sector of any stack is poisoned. -/
def State.NoPoison (s : State) : Prop := ∀ m : SillId, (s.sill m).poison = []

theorem State.NoPoison.badPartials {s : State} (h : s.NoPoison) (a n : Nat) : s.badPartials a n = [] := by
  simp [State.badPartials, h _]

theorem State.NoPoison.modSill {s : State} (h : s.NoPoison) (m : SillId) {f : Sill → Sill}
    (hf : ∀ x : Sill, x.poison = [] → (f x).poison = []) : (s.modSill m f).NoPoison := by
  intro k
  by_cases hk : m = k
  · subst hk
    rw [State.modSill_self]
    exact hf _ (h m)
  · rw [State.modSill_ne _ _ _ _ hk]
    exact h k

theorem State.NoPoison.writeBytes {s : State} (h : s.NoPoison) (a : Nat) (l : List Byte) : (s.writeBytes a l).NoPoison := by
  induction l generalizing s a with
  | nil => exact h
  | cons b rest ih =>
    refine ih ?_ (a + 1)
    split
    · exact h
    · next m o _ => exact ite_both h (h.modSill m fun _ hx => hx)

@[simp] theorem Sill.count_poison (x : Sill) (i n : Nat) : (x.count i n).poison = x.poison := rfl

@[simp] theorem Sill.moveBytes_poison (x : Sill) (isWrite : Bool) (n : Nat) : (x.moveBytes isWrite n).poison = x.poison := by
  rw [x.moveBytes_only isWrite n]

theorem State.NoPoison.noteWrite {s : State} (h : s.NoPoison) (x : SillId × Nat × Bool) : (s.noteWrite x).NoPoison := by
  obtain ⟨m, sector, whole⟩ := x
  refine h.modSill m fun y hy => ?_
  dsimp only
  split
  · exact hy
  · cases whole <;> simp [hy]

theorem State.NoPoison.writeMem {s : State} (h : s.NoPoison) (a : Nat) (l : List Byte) : (s.writeMem a l).NoPoison :=
  List.foldlRecOn _ _ (h.writeBytes a l) fun _ ht x _ => ht.noteWrite x

theorem State.NoPoison.writeStack_only {s : State} (h : s.NoPoison) (m : SillId) (o : Nat) (l : List Byte) :
    OnlySills s (s.writeStack m o l) := s.writeMerged_only _ (h.badPartials _ _)

theorem State.NoPoison.writeStack {s : State} (h : s.NoPoison) (m : SillId) (o : Nat) (l : List Byte) :
    (s.writeStack m o l).NoPoison := by
  unfold State.writeStack
  rw [s.writeMerged_of_no_badPartials _ (h.badPartials _ _)]
  exact h.writeMem _ l

/-! ## The check of GRAD ranges (R178) -/

/-- `t` differs from `s` at most in the stacks and in the job. -/
def OnlySillsAndJob (s t : State) : Prop := t = { s with sills := t.sills, job := t.job }

theorem OnlySillsAndJob.refl (s : State) : OnlySillsAndJob s s := rfl

theorem OnlySillsAndJob.trans {s t u : State} (h : OnlySillsAndJob s t) (k : OnlySillsAndJob t u) : OnlySillsAndJob s u := by
  unfold OnlySillsAndJob at *
  rw [k]
  conv_lhs => rw [h]

theorem OnlySills.toSillsAndJob {s t : State} (h : OnlySills s t) : OnlySillsAndJob s t := by
  unfold OnlySills at h
  unfold OnlySillsAndJob
  rw [h]

/-- What such a change leaves of the rest of the module. -/
theorem OnlySillsAndJob.frame {s t : State} (h : OnlySillsAndJob s t) :
    t.dies = s.dies ∧ t.links = s.links ∧ t.coll = s.coll := by
  unfold OnlySillsAndJob at h
  rw [h]
  exact ⟨rfl, rfl, rfl⟩

theorem State.setBits_sillsAndJob (s : State) (b : Bits) : OnlySillsAndJob s (s.setBits b) := by
  obtain ⟨-, h⟩ | ⟨-, -, h⟩ | ⟨-, -, h⟩ := s.setBits_cases b <;> rw [h] <;> rfl

theorem State.gradCheck_only (s : State) (a n : Nat) : OnlySillsAndJob s (s.gradCheck a n) := by
  refine List.foldlRecOn allSills _ (.refl s) fun t ht m _ => List.foldlRecOn _ _ ht fun u hu h _ => hu.trans ?_
  exact ite_both (.refl u) (.trans (t := u.countSill m 0x26 _) rfl (State.setBits_sillsAndJob _ _))

theorem meetOf_empty (a : Nat) (y : Nat × Nat) : (meetOf (a, 0) y).2 = 0 := by
  simp only [meetOf]
  omega

/-- No bytes, no bad value. -/
theorem State.gradCheck_empty (s : State) (a : Nat) : s.gradCheck a 0 = s := by
  simp only [State.gradCheck, meetOf_empty, State.badWords, if_true, List.foldl_fixed]

end Sys2Proof.Machine

/-! PROOFS. The tenons of the present attempt at the module they are for, and SEND_DATA (R18, R19, R178, R219, R224 to R240). -/

namespace Sys2Proof.Machine

/-! ## Each tenon at the link engine -/

theorem exec_gatherData (src : BitVec 15) (context : DWord) (payload : List Byte) (s : State) :
    exec (.gatherData src context payload) s = .next (s.takeGatherData (looseTenon src context payload)) := rfl

theorem exec_voteSigns (src : BitVec 15) (context : DWord) (payload : List Byte) (s : State) :
    exec (.voteSigns src context payload) s = .next (s.countVote (looseTenon src context payload)) := rfl

theorem exec_voteResult (src : BitVec 15) (context : DWord) (payload : List Byte) (s : State) :
    exec (.voteResult src context payload) s = .next (s.takeVoteResult src context payload) := rfl

theorem exec_dispatchCount (src : BitVec 15) (context : DWord) (payload : List Byte) (s : State) :
    exec (.dispatchCount src context payload) s =
      .next (s.ifFresh context fun s => s.takeCount src (ctxColl context) payload) := rfl

theorem exec_dispatchGrant (src : BitVec 15) (context : DWord) (payload : List Byte) (s : State) :
    exec (.dispatchGrant src context payload) s =
      .next (s.ifFresh context fun s => s.takeGrant src (ctxColl context) payload) := rfl

theorem exec_dispatchRows (src : BitVec 15) (context : DWord) (payload : List Byte) (s : State) :
    exec (.dispatchRows src context payload) s =
      .next (s.ifFresh context fun s => s.takeRows src (ctxColl context) payload) := rfl

theorem exec_combineRows (src : BitVec 15) (context : DWord) (payload : List Byte) (s : State) :
    exec (.combineRows src context payload) s =
      .next (s.ifFresh context fun s => s.takeCombineRows src (ctxColl context) payload) := rfl

theorem exec_sendData (src : BitVec 15) (context : DWord) (payload : List Byte) (s : State) :
    exec (.sendData src context payload) s = .next (s.landSend context.toNat payload) := rfl

/-- A tenon of the present attempt goes to its handler (R221). -/
theorem State.ifFresh_of_fresh {s : State} {context : DWord} (h : s.stale context = false) (f : State → State) :
    s.ifFresh context f = f s := by
  simp [State.ifFresh, h]

/-! ## GATHER_DATA (R18, R224, R240) -/

section Tenon

variable {s : State} {src : BitVec 15} {context : DWord} {payload : List Byte} {e : CollEntry} {g : List Nat}

/-- Before the verdict of a step in progress a chunk of copy waits. -/
theorem State.takeGatherData_waits (hf : s.stale context = false) (hv : s.job.verdict = none)
    (hc : s.job.current.isSome = true) : s.takeGatherData (looseTenon src context payload) =
      { s with coll := { s.coll with held := s.coll.held ++ [looseTenon src context payload] } } := by
  have hf' : s.stale (looseTenon src context payload).tenon.context = false := hf
  simp [State.takeGatherData, hf', hv, hc]

/-- With the verdict there, or with no step in progress, it goes to its place. -/
theorem State.takeGatherData_lands (h : s.job.verdict.isSome = true ∨ s.job.current = none) :
    s.takeGatherData (looseTenon src context payload) = s.landGather src context payload := by
  have hgo : (s.job.current.isSome && s.job.verdict.isNone) = false := by
    rcases h with h | h
    · simp [Option.isNone_eq_false_iff.mpr h]
    · simp [h]
  simp only [State.takeGatherData, hgo, Bool.false_and]
  rfl

/-- A withheld update has its verdict, or no step in progress. -/
theorem State.verdict_or_idle_of_withheld (h : s.withheld.isSome = true) :
    s.job.verdict.isSome = true ∨ s.job.current = none := by
  cases hv : s.job.verdict with
  | some v => exact .inl rfl
  | none =>
    right
    by_contra hc
    simp [State.withheld, hv, hc] at h

/-- A chunk of copy of a withheld update is late (R240). -/
theorem State.landGather_late (hf : s.stale context = false) (he : s.collEntry (ctxColl context) = some (e, g))
    (hk : e.vote = false) (hc : ctxChunk context < e.chunks) (ho : ownerId e g (ctxChunk context) = src)
    (hw : s.withheld.isSome = true) :
    s.landGather src context payload = s.countEdge (chunkEdge (ctxChunk context)) 0x07 := by
  simp [State.landGather, State.ifFresh_of_fresh hf, he, hk, hc, ho, hw]

/-- A chunk of copy lands in the stacks, where it meets no poisoned sector, and is noted (R224). -/
theorem State.landGather_lands (hf : s.stale context = false) (he : s.collEntry (ctxColl context) = some (e, g))
    (hk : e.vote = false) (hc : ctxChunk context < e.chunks) (ho : ownerId e g (ctxChunk context) = src)
    (hw : s.withheld = none) (hp : s.NoPoison) :
    ∃ t : State, OnlySills s t ∧ s.landGather src context payload =
      { t with coll := { t.coll with copies := t.coll.copies ++ [(ctxColl context, ctxChunk context)] } } := by
  simp only [State.landGather, State.ifFresh_of_fresh hf, he, hk, Nat.not_le.mpr hc, ho, hw, decide_false, ne_eq,
    not_true_eq_false, Bool.or_false, Bool.false_eq_true, if_false, Option.isSome_none]
  refine ⟨_, ?_, rfl⟩
  exact (hp.writeStack_only _ _ _).trans ((hp.writeStack _ _ _).writeStack_only _ _ _)

/-! ## VOTE_SIGNS and VOTE_RESULT (R226, R228) -/

/-- A vote on a chunk of this module's goes on where the vote counter has room. -/
theorem State.voteGoes_eq_room (hf : s.stale context = false) (ho : s.ownedChunk context true = some (e, g)) :
    s.voteGoes (looseTenon src context payload) = s.voteRoom (ctxColl context) (ctxChunk context) := by
  have hstale : s.stale (looseTenon src context payload).tenon.context = false := hf
  have howned : s.ownedChunk (looseTenon src context payload).tenon.context true = some (e, g) := ho
  simp only [State.voteGoes, hstale, howned, Option.isNone_some, Bool.false_or]
  rfl

/-- A member's vote on a chunk of this module's is counted. -/
theorem State.takeVote_counts (hf : s.stale context = false) (ho : s.ownedChunk context true = some (e, g)) {i : Nat}
    (hi : memberIx g src = some i) : s.takeVote (looseTenon src context payload) =
      s.addVote (ctxColl context) e g (ctxChunk context) i payload := by
  have hrule : s.takeVote (looseTenon src context payload) = s.ifFresh context fun s =>
      match s.ownedChunk context true with
      | none => s
      | some (e, g) =>
        match memberIx g src with
        | none => s
        | some i => s.addVote (ctxColl context) e g (ctxChunk context) i payload := rfl
  simp only [hrule, State.ifFresh_of_fresh hf, ho, hi]

theorem State.countVote_counts (hf : s.stale context = false) (ho : s.ownedChunk context true = some (e, g)) {i : Nat}
    (hi : memberIx g src = some i) (hr : s.voteRoom (ctxColl context) (ctxChunk context) = true) :
    s.countVote (looseTenon src context payload) =
      (s.addVote (ctxColl context) e g (ctxChunk context) i payload).retryEdge (chunkEdge (ctxChunk context)) := by
  simp only [State.countVote, State.voteGoes_eq_room hf ho, hr, if_true, State.takeVote_counts hf ho hi]
  rfl

theorem State.countVote_waits (hf : s.stale context = false) (ho : s.ownedChunk context true = some (e, g))
    (hr : s.voteRoom (ctxColl context) (ctxChunk context) = false) :
    s.countVote (looseTenon src context payload) = s.modEdge (chunkEdge (ctxChunk context)) fun x =>
      { x with waiting := x.waiting ++ [looseTenon src context payload] } := by
  simp only [State.countVote, State.voteGoes_eq_room hf ho, hr, Bool.false_eq_true, if_false]
  rfl

/-- The results of a chunk that stand already are left alone. -/
theorem State.takeVoteResult_again (hf : s.stale context = false) (he : s.collEntry (ctxColl context) = some (e, g))
    (hr : s.coll.results.contains (ctxColl context, ctxChunk context) = true) :
    s.takeVoteResult src context payload = s := by
  simp only [State.takeVoteResult, State.ifFresh_of_fresh hf, he, hr, Bool.or_true, if_true]

theorem State.takeVoteResult_lands (hf : s.stale context = false) (he : s.collEntry (ctxColl context) = some (e, g))
    (hk : e.vote = true) (hc : ctxChunk context < e.chunks) (ho : ownerId e g (ctxChunk context) = src)
    (hr : s.coll.results.contains (ctxColl context, ctxChunk context) = false) (hp : s.NoPoison) :
    ∃ t : State, OnlySills s t ∧ s.takeVoteResult src context payload =
      { t with coll := { t.coll with results := t.coll.results ++ [(ctxColl context, ctxChunk context)] } } := by
  simp only [State.takeVoteResult, State.ifFresh_of_fresh hf, he, hk, Nat.not_le.mpr hc, ho, hr, decide_false, ne_eq,
    not_true_eq_false, Bool.not_true, Bool.or_false, Bool.false_eq_true, if_false]
  refine ⟨_, ?_, rfl⟩
  exact hp.writeStack_only _ _ _

end Tenon

/-! ## SEND_DATA (R19, R178, R219) -/

/-- Guarding changes bytes, never their number. -/
@[simp] theorem State.guardBytes_length (s : State) (a : Nat) (l : List Byte) : (s.guardBytes a l).length = l.length := by
  unfold State.guardBytes
  split
  · rw [List.length_map, List.length_zipIdx]
  · rfl

theorem State.landSend_nil (s : State) (a : Nat) : s.landSend a [] = s := by
  have hnil : s.guardBytes a [] = [] := List.length_eq_zero_iff.mp (s.guardBytes_length a [])
  simp only [State.landSend, hnil, s.writeMerged_nil, List.length_nil, s.gradCheck_empty]

theorem State.landSend_only (s : State) (a : Nat) {l : List Byte} (h : s.badPartials a l.length = []) :
    OnlySillsAndJob s (s.landSend a l) :=
  (s.writeMerged_only a (by rwa [s.guardBytes_length])).toSillsAndJob.trans (State.gradCheck_only _ _ _)

/-! ## The obligation -/

/-- Settles O29: a tenon of the present attempt goes to its handler (`ifFresh_of_fresh`), whose cases are the lemmas above;
SEND_DATA is `landSend`. -/
theorem collectiveTenonsTakeEffect : Obligations.CollectiveTenonsTakeEffect := by
  unfold Obligations.CollectiveTenonsTakeEffect
  refine ⟨fun s src context payload hf => ⟨fun e g he hk hc ho => ⟨fun hw => ?_, fun hw hv hp => ?_⟩, fun hv hc => ?_,
      fun e g i ho hi => ⟨fun hr => ?_, fun hr => ?_⟩, fun e g he hk hc ho => ⟨fun hr => ?_, fun hr hp => ?_⟩,
      ?_, ?_, ?_, ?_⟩,
    fun s src context payload => ⟨_, exec_sendData .., rfl, fun hnil => ?_, fun hb => (s.landSend_only _ hb).frame⟩⟩
  · rw [exec_gatherData, State.takeGatherData_lands (State.verdict_or_idle_of_withheld hw),
      State.landGather_late hf he hk hc ho hw]
  · obtain ⟨t, ht : t = _, hl⟩ := State.landGather_lands (payload := payload) hf he hk hc ho hw hp
    rw [exec_gatherData, State.takeGatherData_lands hv, hl]
    exact ⟨_, rfl, by rw [ht], by rw [ht], by rw [ht]⟩
  · rw [exec_gatherData, State.takeGatherData_waits hf hv hc]
  · rw [exec_voteSigns, State.countVote_counts hf ho hi hr]
  · rw [exec_voteSigns, State.countVote_waits hf ho hr]
    exact ⟨_, rfl, by rw [State.modEdge_self], by rw [State.modEdge_self]⟩
  · rw [exec_voteResult, State.takeVoteResult_again hf he hr]
  · obtain ⟨t, ht : t = _, hl⟩ := State.takeVoteResult_lands (payload := payload) hf he hk hc ho hr hp
    rw [exec_voteResult, hl]
    exact ⟨_, rfl, by rw [ht], by rw [ht], by rw [ht]⟩
  · rw [exec_dispatchCount, State.ifFresh_of_fresh hf]
  · rw [exec_dispatchGrant, State.ifFresh_of_fresh hf]
  · rw [exec_dispatchRows, State.ifFresh_of_fresh hf]
  · rw [exec_combineRows, State.ifFresh_of_fresh hf]
  · have hsame : s.landSend context.toNat payload = s := hnil ▸ s.landSend_nil _
    exact ⟨congrArg State.sills hsame, congrArg State.job hsame⟩

end Sys2Proof.Machine

/-! PROOFS. The events of a ring die: the sleep of its bents, residue faults, bad loft words and router derating (R22, R88, R312,
R313, R358 to R361). -/

namespace Sys2Proof.Machine

/-! ## What a change of a die leaves of it -/

@[simp] theorem State.countRing_die_self (s : State) (d : DieId) (i n : Nat) :
    (s.countRing d i n).die d = (s.die d).count i n := State.modDie_self s d _

@[simp] theorem State.modBent_die_self (s : State) (d : DieId) (b : BentIx) (f : Bent → Bent) :
    (s.modBent d b f).die d = { s.die d with bents := updAt (s.die d).bents b f } := State.modDie_self s d _

@[simp] theorem State.setStopped_die_self (s : State) (d : DieId) (b : BentIx) (v : Bool) :
    (s.setStopped d b v).die d = (s.die d).modDomain (bentDomain b) fun x => { x with stopped := v } := State.modDie_self s d _

theorem State.modBent_ne (s : State) (d : DieId) (b k : BentIx) (f : Bent → Bent) (h : b ≠ k) :
    (s.modBent d b f).bent d k = s.bent d k := by
  simp only [State.bent, State.modBent_die_self]
  exact updAt_ne _ _ _ _ h

@[simp] theorem State.countRing_bent (s : State) (d : DieId) (i n : Nat) (b : BentIx) :
    (s.countRing d i n).bent d b = s.bent d b := by
  simp only [State.bent, State.countRing_die_self, RingDie.count]

@[simp] theorem State.setStopped_bent (s : State) (d : DieId) (b k : BentIx) (v : Bool) :
    (s.setStopped d b v).bent d k = s.bent d k := by
  simp only [State.bent, State.setStopped_die_self, RingDie.modDomain]

/-! ## The sleep of a bent (R22, R312, R313) -/

/-- In `t` one bent of a die has become `y`, with its clock stopped or running; no other bent, no bay and no byte of the loft
differs from `s`. -/
def BentBecame (s : State) (d : DieId) (b : BentIx) (y : Bent) (stopped : Bool) (t : State) : Prop :=
  t.bent d b = y ∧ ((t.die d).domains[bentDomain b]).stopped = stopped ∧
    (∀ k : BentIx, k ≠ b → t.bent d k = s.bent d k) ∧ (t.die d).bays = (s.die d).bays ∧ (t.die d).loft = (s.die d).loft

theorem State.modBent_setStopped_became (s : State) (d : DieId) (b : BentIx) (f : Bent → Bent) (v : Bool) :
    BentBecame s d b (f (s.bent d b)) v ((s.modBent d b f).setStopped d b v) := by
  refine ⟨?_, ?_, fun k hk => ?_, ?_, ?_⟩
  · rw [State.setStopped_bent, State.modBent_self]
  · simp only [State.setStopped_die_self, RingDie.modDomain, updAt_self]
  · rw [State.setStopped_bent, State.modBent_ne _ _ _ _ _ (Ne.symm hk)]
  · simp only [State.setStopped_die_self, State.modBent_die_self, RingDie.modDomain]
  · simp only [State.setStopped_die_self, State.modBent_die_self, RingDie.modDomain]

/-- A count before the change makes no difference. -/
theorem BentBecame.of_countRing {s t : State} {d : DieId} {b : BentIx} {y : Bent} {v : Bool} {i n : Nat}
    (h : BentBecame (s.countRing d i n) d b y v t) : BentBecame s d b y v t := by
  simpa only [BentBecame, State.countRing_bent, State.countRing_die_self, RingDie.count] using h

/-- A bent that sleeps is awake, with no deadline, once it is woken (R312, R313). -/
theorem State.wakeBent_became (s : State) (d : DieId) (b : BentIx) (late : Bool) (h : (s.bent d b).power ≠ .awake) :
    BentBecame s d b { s.bent d b with power := .awake, deadline := none } false (s.wakeBent d b late) := by
  have key (u : State) (hu : u.bent d b = s.bent d b) :
      BentBecame u d b { s.bent d b with power := .awake, deadline := none } false
      ((u.modBent d b fun x => { x with power := .awake, deadline := none }).setStopped d b false) :=
    hu ▸ u.modBent_setStopped_became d b (fun x => { x with power := .awake, deadline := none }) false
  unfold State.wakeBent
  rw [if_neg h]
  dsimp only
  split <;> split
  · exact (key _ (by simp only [State.countRing_bent])).of_countRing.of_countRing
  · exact (key _ (State.countRing_bent ..)).of_countRing
  · exact (key _ (State.countRing_bent ..)).of_countRing
  · exact key _ rfl

theorem State.wakeBent_awake (s : State) (d : DieId) (b : BentIx) (late : Bool) (h : (s.bent d b).power = .awake) :
    s.wakeBent d b late = s := by
  simp only [State.wakeBent, h, if_true]

theorem exec_bentClockStop_stops {s : State} {d : DieId} {b : BentIx} (hp : (s.bent d b).power = .awake)
    (hc : (s.die d).claims b = false) :
    exec (.bentClockStop d b) s = .next ((s.modBent d b fun x => { x with power := .stopped }).setStopped d b true) := by
  show execBentClockStop d b s = _
  simp [execBentClockStop, hp, hc]

theorem exec_bentClockStop_skips {s : State} {d : DieId} {b : BentIx}
    (h : (s.bent d b).power ≠ .awake ∨ (s.die d).claims b = true) : exec (.bentClockStop d b) s = .next s := by
  show execBentClockStop d b s = _
  rcases h with h | h <;> simp [execBentClockStop, h]

theorem exec_bentWake_wakes {s : State} {d : DieId} {b : BentIx} {held : Bool}
    (h : held = true → (s.bent d b).power = .gated) :
    exec (.bentWake d b held) s = .next (s.wakeBent d b ((s.die d).slotWants b)) := by
  show execBentWake d b held s = _
  cases held
  · rfl
  · simp [execBentWake, h rfl]

theorem exec_bentWake_skips {s : State} {d : DieId} {b : BentIx} {held : Bool}
    (h : (s.bent d b).power = .awake ∨ (held = true ∧ (s.bent d b).power = .stopped)) :
    exec (.bentWake d b held) s = .next s := by
  show execBentWake d b held s = _
  rcases h with h | ⟨rfl, h⟩
  · simp [execBentWake, h, s.wakeBent_awake d b _ h]
  · simp [execBentWake, h]

theorem exec_wakeDeadline_wakes {s : State} {d : DieId} {b : BentIx} {w : DWord} (hp : (s.bent d b).power = .gated)
    (hd : (s.bent d b).deadline = some w) :
    exec (.wakeDeadline d b) s = .next (s.wakeBent d b ((s.die d).slotWants b)) := by
  show execWakeDeadline d b s = _
  simp only [execWakeDeadline, hp, hd]

theorem exec_wakeDeadline_skips {s : State} {d : DieId} {b : BentIx}
    (h : (s.bent d b).power ≠ .gated ∨ (s.bent d b).deadline = none) : exec (.wakeDeadline d b) s = .next s := by
  show execWakeDeadline d b s = _
  unfold execWakeDeadline
  dsimp only
  split
  · next w hp hd => simp [hp, hd] at h
  · rfl

/-! ## Reports and REPLAY -/

theorem State.report_eq (s : State) (r : Report) :
    s.report r = { s with host := (s.report r).host, mgmt := (s.report r).mgmt, scribe := (s.report r).scribe } := by
  have h := s.report_only r
  unfold OnlyReports OnlyEvents at h
  conv_lhs => rw [h]
  rw [h]

@[simp] theorem State.report_kp (s : State) (r : Report) : (s.report r).kp = s.kp := by rw [s.report_eq r]
@[simp] theorem State.report_dies (s : State) (r : Report) : (s.report r).dies = s.dies := by rw [s.report_eq r]
@[simp] theorem State.report_job (s : State) (r : Report) : (s.report r).job = s.job := by rw [s.report_eq r]
@[simp] theorem State.report_die (s : State) (r : Report) (d : DieId) : (s.report r).die d = s.die d := by
  simp only [State.die, State.report_dies]
@[simp] theorem State.report_bent (s : State) (r : Report) (d : DieId) (b : BentIx) : (s.report r).bent d b = s.bent d b := by
  simp only [State.bent, State.report_die]

/-- While a step runs, REPLAY is set in its own bits (R178). -/
theorem State.setReplay_of_running {s : State} (hk : s.kp.state = .running) (hp : s.job.phase = .running) :
    s.setReplay = { s with job := { s.job with own := s.job.own.merge { replay := true } } } := by
  simp [State.setReplay, State.setBits, hk, hp]

@[simp] theorem Bits.merge_replay (b : Bits) : (b.merge { replay := true }).replay = true := Bool.or_true _

theorem State.not_isIdleKind_of_running {s : State} (h : s.kp.state = .running) : ¬s.isIdleKind = true := by
  simp [State.isIdleKind, h]

/-! ## BENT_RESIDUE_FAULT (R358, R361) -/

/-- A wrong value in an accumulator is in the bent alone, and no fault of its list. -/
theorem State.spoilEntry_keeps (s : State) (d : DieId) (b : BentIx) :
    (s.spoilEntry d b).kp = s.kp ∧ (s.spoilEntry d b).job = s.job ∧
      ((s.spoilEntry d b).bent d b).faults = (s.bent d b).faults := by
  refine ⟨rfl, rfl, ?_⟩
  simp only [State.spoilEntry, State.modBent_self]
  rfl

/-- The faults of the last 24 hours. -/
def recentFaults (s : State) (d : DieId) (b : BentIx) : List Nat :=
  (s.bent d b).faults.filter fun t => decide (s.clk.aonMicros < t + dayMicros)

/-- Some fault of the list is of the last 24 hours. -/
theorem one_le_recentFaults_iff (s : State) (d : DieId) (b : BentIx) :
    1 ≤ (recentFaults s d b).length ↔ ∃ x ∈ (s.bent d b).faults, s.clk.aonMicros < x + 86400000000 := by
  rw [recentFaults, Nat.one_le_iff_ne_zero, ← Nat.pos_iff_ne_zero, List.length_filter_pos_iff]
  simp only [decide_eq_true_eq]
  exact Iff.rfl

/-- The state with a fault of a bent counted and listed; outside a scan it has left a wrong value (R358). -/
def State.faultListed (s : State) (d : DieId) (b : BentIx) (inScan : Bool) : State :=
  let t := (s.countRing d 0x18).modBent d b fun x => { x with faults := recentFaults s d b ++ [s.clk.aonMicros] }
  if inScan then t else t.spoilEntry d b

theorem State.faultListed_keeps (s : State) (d : DieId) (b : BentIx) (inScan : Bool) :
    (s.faultListed d b inScan).kp = s.kp ∧ (s.faultListed d b inScan).job = s.job ∧
      ((s.faultListed d b inScan).bent d b).faults = recentFaults s d b ++ [s.clk.aonMicros] := by
  unfold State.faultListed
  cases inScan
  · obtain ⟨hkp, hjob, hfaults⟩ := State.spoilEntry_keeps ((s.countRing d 0x18).modBent d b fun x =>
      { x with faults := recentFaults s d b ++ [s.clk.aonMicros] }) d b
    exact ⟨hkp, hjob, hfaults.trans (by rw [State.modBent_self])⟩
  · exact ⟨rfl, rfl, by simp only [if_true, State.modBent_self]⟩

theorem exec_bentResidueFault (d : DieId) (b : BentIx) (inScan : Bool) (s : State) : ∃ r : Report,
    exec (.bentResidueFault d b inScan) s =
      if (s.die d).bentOn b && !s.job.failedBents.contains (d, b) then
        let t := ((s.faultListed d b inScan).report r).setReplay
        if inScan || decide (1 ≤ (recentFaults s d b).length) then
          let t : State := { t with job := { t.job with failedBents := t.job.failedBents ++ [(d, b)] } }
          .next (if t.isIdleKind then t.retireIdle else t)
        else .next t
      else .next s := ⟨_, rfl⟩

/-- While a step runs, a fault of a bent in service is listed and sets REPLAY, and a second one within 24 hours, or one in a scan,
fails the bent. -/
theorem exec_bentResidueFault_counts {s : State} {d : DieId} {b : BentIx} (inScan : Bool) (hk : s.kp.state = .running)
    (hp : s.job.phase = .running) (hon : (s.die d).bentOn b = true) (hnew : (d, b) ∉ s.job.failedBents) :
    ∃ t : State, exec (.bentResidueFault d b inScan) s = .next t ∧
      (t.bent d b).faults = recentFaults s d b ++ [s.clk.aonMicros] ∧
      t.job = { s.job with
        own := s.job.own.merge { replay := true }
        failedBents := s.job.failedBents ++ if inScan || decide (1 ≤ (recentFaults s d b).length) then [(d, b)] else [] } := by
  obtain ⟨r, hexec⟩ := exec_bentResidueFault d b inScan s
  obtain ⟨hkp, hjob, hfaults⟩ := s.faultListed_keeps d b inScan
  have hbent : (((s.faultListed d b inScan).report r).bent d b).faults = recentFaults s d b ++ [s.clk.aonMicros] := by
    rw [State.report_bent, hfaults]
  have hkp' : ((s.faultListed d b inScan).report r).kp.state = .running := by rw [State.report_kp, hkp, hk]
  have hjob' : ((s.faultListed d b inScan).report r).job = s.job := by rw [State.report_job, hjob]
  rw [hexec, if_pos (by simp [hon, hnew]), State.setReplay_of_running hkp' (by rw [hjob', hp])]
  dsimp only
  split
  · rw [if_neg (by exact State.not_isIdleKind_of_running hkp')]
    exact ⟨_, rfl, hbent, by rw [hjob']⟩
  · exact ⟨_, rfl, hbent, by simp only [hjob', List.append_nil]⟩

theorem exec_bentResidueFault_skips {s : State} {d : DieId} {b : BentIx} (inScan : Bool)
    (h : (s.die d).bentOn b = false ∨ (d, b) ∈ s.job.failedBents) : exec (.bentResidueFault d b inScan) s = .next s := by
  obtain ⟨r, hexec⟩ := exec_bentResidueFault d b inScan s
  rw [hexec, if_neg (by rcases h with h | h <;> simp [h])]

/-! ## LOFT_UNCORRECTABLE (R360) -/

/-- A waiting item changes the list of items alone. -/
theorem State.waitItem_items (s : State) (code : Nat) (mask : Word) :
    ∃ items : List Item, s.waitItem code mask = { s with job := { s.job with items := items } } := by
  unfold State.waitItem
  split <;> exact ⟨_, rfl⟩

/-- While a step runs, a bad word of the loft is zeroed, REPLAY is set, and its row has failed. -/
theorem exec_loftUncorrectable_zeroes {s : State} (d : DieId) (offset : BitVec 30) (hk : s.kp.state = .running)
    (hp : s.job.phase = .running) :
    ∃ t : State, exec (.loftUncorrectable d offset) s = .next t ∧ t.job.own.replay = true ∧
      (t.die d).loft = (s.die d).loft.write (offset.toNat / 32 * 32) (List.replicate 32 0) ∧
      offset.toNat / 8192 ∈ (t.die d).failedRows := by
  obtain ⟨r, hexec⟩ : ∃ r : Report, exec (.loftUncorrectable d offset) s =
      let t := ((s.writeLoft d (offset.toNat / 32 * 32) (List.replicate 32 0)).report r).setReplay
      if (t.die d).failedRows.contains (offset.toNat / 8192) then .next t
      else
        let t := t.modDie d fun r => { r with failedRows := r.failedRows ++ [offset.toNat / 8192] }
        .next (if t.isIdleKind then t.repairLoft t.failedLoftRows.length else t.waitItem itemLoftRow 0) := ⟨_, rfl⟩
  generalize hu : (s.writeLoft d (offset.toNat / 32 * 32) (List.replicate 32 0)).report r = u at hexec
  have hkp : u.kp.state = .running := by rw [← hu, State.report_kp, State.writeLoft_kp, hk]
  have hphase : u.job.phase = .running := by rw [← hu, State.report_job, State.writeLoft_job, hp]
  have hloft : (u.die d).loft = (s.die d).loft.write (offset.toNat / 32 * 32) (List.replicate 32 0) := by
    rw [← hu, State.report_die, State.writeLoft_self]
  rw [hexec, State.setReplay_of_running hkp hphase]
  dsimp only
  split
  · next hrow => exact ⟨_, rfl, Bits.merge_replay _, hloft, by simpa using hrow⟩
  · rw [if_neg (by exact State.not_isIdleKind_of_running hkp)]
    obtain ⟨items, hitems⟩ := State.waitItem_items (State.modDie
      { u with job := { u.job with own := u.job.own.merge { replay := true } } } d
      fun r => { r with failedRows := r.failedRows ++ [offset.toNat / 8192] }) itemLoftRow 0
    refine ⟨_, rfl, ?_⟩
    rw [hitems]
    refine ⟨Bits.merge_replay _, ?_, ?_⟩
    · simpa only [State.die, State.modDie, updAt_self] using hloft
    · simp only [State.die, State.modDie, updAt_self]
      exact List.mem_append_right _ (List.mem_singleton_self _)

/-! ## ROUTER_DERATE_LEVEL (R88) -/

/-- Threshold `k` of a derating register (R408). -/
def routerThreshold (w : Word) (k : Nat) : Nat := w.toNat / 256 ^ (k - 1) % 256

/-- The hysteresis of a derating register (R408). -/
def routerHyst (w : Word) : Nat := w.toNat / 2 ^ 24 % 16

/-- The level of a router by its thresholds and hysteresis. -/
theorem routerLevel_eq (w : Word) (level t : Nat) : routerLevel w level t =
    let up := if t ≥ routerThreshold w 3 then 3 else if t ≥ routerThreshold w 2 then 2
      else if t ≥ routerThreshold w 1 then 1 else 0
    if up ≥ level then up
    else if level = 3 ∧ t + routerHyst w > routerThreshold w 3 then 3
    else if level ≥ 2 ∧ t + routerHyst w > routerThreshold w 2 then 2
    else if t + routerHyst w > routerThreshold w 1 then 1
    else 0 := by
  have hhyst : (w.extractLsb' 24 4).toNat = routerHyst w := by
    rw [BitVec.extractLsb'_toNat, Nat.shiftRight_eq_div_pow]
    rfl
  simp only [routerLevel, hhyst]
  rfl

/-- At or above the third threshold a router is at level 3. -/
theorem routerLevel_of_hot {w : Word} {level t : Nat} (hl : level ≤ 3) (ht : routerThreshold w 3 ≤ t) :
    routerLevel w level t = 3 := by
  simp only [routerLevel_eq, ge_iff_le, ht, if_true, hl]

/-- At or below the first threshold less HYST it is at level 0. -/
theorem routerLevel_of_cool {w : Word} {level t : Nat} (h12 : routerThreshold w 1 ≤ routerThreshold w 2)
    (h23 : routerThreshold w 2 ≤ routerThreshold w 3) (ht : t < routerThreshold w 1)
    (hh : t + routerHyst w ≤ routerThreshold w 1) : routerLevel w level t = 0 := by
  rw [routerLevel_eq]
  generalize routerThreshold w 1 = a at *
  generalize routerThreshold w 2 = b at *
  generalize routerThreshold w 3 = c at *
  dsimp only
  split_ifs <;> omega

/-- Between its own bounds a level stays. -/
theorem routerLevel_of_between {w : Word} {level t : Nat} (h12 : routerThreshold w 1 ≤ routerThreshold w 2)
    (h23 : routerThreshold w 2 ≤ routerThreshold w 3) (h1 : 1 ≤ level) (h2 : level ≤ 2)
    (hlo : routerThreshold w level < t + routerHyst w) (hhi : t < routerThreshold w (level + 1)) :
    routerLevel w level t = level := by
  obtain rfl | rfl : level = 1 ∨ level = 2 := by omega
  all_goals
    rw [routerLevel_eq]
    simp only [Nat.reduceAdd] at hhi
    dsimp only
    split_ifs <;> omega

/-- A report of the level writes the log, and the router alone differs. -/
theorem exec_routerDerateLevel (d : DieId) (i : Fin 4) (c : Byte) (s : State) :
    ∃ t : State, exec (.routerDerateLevel d i c) s = .next t ∧ t.die d = { s.die d with
      routers := updAt (s.die d).routers i fun x =>
        { x with level := routerLevel (s.die d).derate ((s.die d).routers[i]).level c.toNat, temp := c } } := by
  show ∃ t : State, execRouterDerateLevel d i c s = .next t ∧ _
  refine ⟨_, rfl, ?_⟩
  split
  · rw [State.report_die, State.modDie_self]
  · rw [State.modDie_self]

/-! ## The obligation -/

/-- Settles O21: the bents by `BentBecame`, the faults while a step runs by their own lemmas, and the derating by
`routerLevel_eq`. -/
theorem dieEventsTakeEffect : Obligations.DieEventsTakeEffect := by
  unfold Obligations.DieEventsTakeEffect
  refine ⟨fun s die bent => ⟨fun hp hc => ?_, fun h => ?_, fun held hp hh => ?_, fun held h => ?_, fun w hp hd => ?_,
      fun h => ?_⟩,
    fun s die hk hp => ⟨fun bent inScan hon hnew => ?_, fun bent inScan h => ?_, fun offset => ?_⟩,
    fun s die router celsius => ?_⟩
  · exact ⟨_, exec_bentClockStop_stops hp hc, s.modBent_setStopped_became die bent _ true⟩
  · exact exec_bentClockStop_skips h
  · exact ⟨_, exec_bentWake_wakes hh, s.wakeBent_became die bent _ hp⟩
  · exact exec_bentWake_skips h
  · exact ⟨_, exec_wakeDeadline_wakes hp hd, s.wakeBent_became die bent _ (by rw [hp]; decide)⟩
  · exact exec_wakeDeadline_skips h
  · obtain ⟨t, hexec, hfaults, hjob⟩ := exec_bentResidueFault_counts inScan hk hp hon hnew
    refine ⟨t, hexec, by rw [hjob]; exact Bits.merge_replay _, by rw [hfaults, List.getLast?_concat], ?_⟩
    simp only [hjob, Bool.or_eq_true, decide_eq_true_eq, one_le_recentFaults_iff]
  · exact exec_bentResidueFault_skips inScan h
  · obtain ⟨t, hexec, hreplay, hloft, hrow⟩ := exec_loftUncorrectable_zeroes die offset hk hp
    refine ⟨t, hexec, hreplay, fun i hi => ?_, fun a ha => ?_, hrow⟩
    · rw [hloft, Memory.get_write, if_pos (by rw [List.length_replicate]; omega)]
      exact List.getD_replicate _ (by omega)
    · rw [hloft, Memory.get_write, if_neg (by rw [List.length_replicate]; omega)]
  · obtain ⟨t, hexec, hdie⟩ := exec_routerDerateLevel die router celsius s
    refine ⟨t, hexec, by rw [hdie, updAt_self], fun h12 h23 hl => ⟨fun h => ?_, fun h hh => ?_, ?_⟩, fun k hk => ?_,
      by rw [hdie], by rw [hdie], by rw [hdie]⟩
    · rw [hdie, updAt_self]
      exact routerLevel_of_hot hl h
    · rw [hdie, updAt_self]
      exact routerLevel_of_cool h12 h23 h hh
    · rintro l rfl h1 h2 hlo hne hhi
      rw [hdie, updAt_self]
      exact routerLevel_of_between h12 h23 h1 h2 (Nat.lt_of_le_of_ne hlo hne) hhi
    · rw [hdie]
      exact updAt_ne _ _ _ _ (Ne.symm hk)

end Sys2Proof.Machine

/-! PROOFS. PASS, MOVE and WAKE at a free RING engine (R22, R81, R125, R313, R333, R436, R437). -/

namespace Sys2Proof.Machine

/-! ## The cycles of a segment (R80 to R88) -/

/-- A die as it was but for the segment in progress and what its cycles count and move for the outside. -/
def RingDie.OnlyCycles (r q : RingDie) : Prop :=
  q = { r with
    counters := q.counters, routers := q.routers, sillBeats := q.sillBeats
    segment := q.segment, quarter := q.quarter, nextSegment := q.nextSegment }

theorem RingDie.OnlyCycles.refl (r : RingDie) : r.OnlyCycles r := rfl

theorem RingDie.OnlyCycles.trans {r q p : RingDie} (h : r.OnlyCycles q) (k : q.OnlyCycles p) : r.OnlyCycles p := by
  unfold RingDie.OnlyCycles at *
  rw [k]
  conv_lhs => rw [h]

/-- Counters, routers and the reserved beats that wait are what a cycle changes. -/
theorem RingDie.OnlyCycles.withTraffic {r q : RingDie} (h : r.OnlyCycles q) (counters : Sparse Word) (routers : Vector Router 4)
    (sillBeats : Nat) : r.OnlyCycles { q with counters := counters, routers := routers, sillBeats := sillBeats } := h.trans rfl

theorem RingDie.OnlyCycles.count {r q : RingDie} (h : r.OnlyCycles q) (i n : Nat) : r.OnlyCycles (q.count i n) := h.trans rfl

theorem RingDie.moveOutside_cycles (r : RingDie) (offerIn offerOut : List (Fin 4 × Nat)) (held : List (Fin 4)) :
    r.OnlyCycles (r.moveOutside offerIn offerOut held) := by
  unfold RingDie.moveOutside
  have hmoved (l : List (Fin 4)) (n : Fin 4 → Nat) : r.OnlyCycles (l.foldl (fun r i => r.count (0x29 + i.val) (n i)) r) :=
    List.foldlRecOn l _ (.refl r) fun _ hq i _ => hq.count _ _
  exact (((hmoved _ _).count _ _).count _ _).withTraffic _ _ _

theorem RingDie.holdCycle_cycles (r : RingDie) (offerIn offerOut : List (Fin 4 × Nat)) (causes : List HoldCause) :
    r.OnlyCycles (r.holdCycle offerIn offerOut causes) := by
  unfold RingDie.holdCycle
  refine RingDie.OnlyCycles.withTraffic
    (List.foldlRecOn _ _ (r.moveOutside_cycles offerIn offerOut _) fun q hq cause _ => ?_) _ _ _
  cases cause <;> exact hq.count _ _

theorem RingDie.issueCycle_cycles (r : RingDie) (offerIn offerOut : List (Fin 4 × Nat)) (claimed : List (Fin 4)) :
    r.OnlyCycles (r.issueCycle offerIn offerOut claimed) := by
  unfold RingDie.issueCycle
  have hcount : r.OnlyCycles (r.count 0x20) := (RingDie.OnlyCycles.refl r).count 0x20 1
  exact (hcount.trans (RingDie.moveOutside_cycles _ _ _ _)).withTraffic _ _ _

theorem RingDie.builtSlot_cycles (r : RingDie) (d : DieId) (t : Nat) (claimed : List (Fin 4)) :
    r.OnlyCycles (r.builtSlot d t claimed) := by
  refine RingDie.OnlyCycles.trans ?_ (RingDie.issueCycle_cycles _ _ _ _)
  exact ite_both (.refl r) (r.holdCycle_cycles _ _ _)

theorem RingDie.moveSlots_cycles (d : DieId) (f : MoveFields) (fuel t left : Nat) (r : RingDie) :
    r.OnlyCycles (RingDie.moveSlots d f fuel t left r) := by
  induction fuel generalizing t left r with
  | zero => exact .refl r
  | succ fuel ih =>
    cases left with
    | zero => exact .refl r
    | succ left => exact ite_both ((r.builtSlot_cycles d t _).trans (ih ..)) ((r.builtSlot_cycles d t _).trans (ih ..))

/-- A segment that claims no bent leaves them all. -/
theorem RingDie.beginSegment_cycles (r : RingDie) (bays : List BayIx) (quarter : Bool) (slots : List SwitchSlot) :
    r.OnlyCycles (r.beginSegment bays 0 quarter slots) := by
  have hbents : (r.claimBents 0).bents = r.bents := by
    ext1 i hi
    simp [RingDie.claimBents]
  have hclaim : r.claimBents 0 = r := by
    show { r with bents := (r.claimBents 0).bents } = r
    rw [hbents]
  unfold RingDie.beginSegment
  rw [hclaim]
  rfl

/-- The names that a die gives its bents do not depend on its cycles. -/
theorem RingDie.OnlyCycles.wakeBents {r q : RingDie} (h : r.OnlyCycles q) (mask : BitVec 16) :
    q.wakeBents mask = r.wakeBents mask := by
  unfold RingDie.OnlyCycles at h
  rw [h]
  rfl

theorem RingDie.OnlyCycles.kept {r q : RingDie} (h : r.OnlyCycles q) : q.loft = r.loft ∧ q.bents = r.bents := by
  unfold RingDie.OnlyCycles at h
  rw [h]
  exact ⟨rfl, rfl⟩

/-! ## Each RING command at its engine -/

theorem exec_pass (c : CmdHead) (f : PassFields) (s : State) : exec (.pass c f) s =
    .next (s.takeCmd c .ring (.pass f) (s.passReady c.bay f) (s.passGood c.bay f) (fun s => s.runPass c.bay f)
      (s.passFits c.bay f)) := rfl

theorem exec_move (c : CmdHead) (f : MoveFields) (s : State) : exec (.move c f) s =
    .next (s.takeCmd c .ring (.move f) (s.die c.bay.die).segment.isNone
      (State.moveEndGood c.bay.die f.src5.toNat f.src.toNat f.bytes.toNat &&
        State.moveEndGood c.bay.die f.dst5.toNat f.dst.toNat f.bytes.toNat)
      fun s => (s.runMove c.bay f, .done)) := rfl

theorem exec_wake (c : CmdHead) (f : WakeFields) (s : State) : exec (.wake c f) s =
    .next (s.takeCmd c .ring (.wake f) (s.die c.bay.die).segment.isNone true fun s => (s.runWake c.bay f, .done)) := rfl

/-! ## PASS -/

theorem State.runPass_status (s : State) (b : BayId) (f : PassFields) :
    (s.runPass b f).2 = .done ∨ (s.runPass b f).2 = .doneFlagged := by
  unfold State.runPass
  dsimp only
  split
  · exact .inr rfl
  · exact .inl rfl

/-! ## MOVE -/

/-- The state in which the segment of a MOVE has run its slots. -/
def State.moveSegment (s : State) (b : BayId) (f : MoveFields) : State :=
  s.modDie b.die fun r => RingDie.moveSlots b.die f (4 * ceilDiv f.bytes.toNat 1024 + 4) 0 (ceilDiv f.bytes.toNat 1024)
    (r.beginSegment [b.bay] 0 r.quarter [])

theorem State.moveSegment_loft (s : State) (b : BayId) (f : MoveFields) :
    ((s.moveSegment b f).die b.die).loft = (s.die b.die).loft := by
  unfold State.moveSegment
  rw [State.modDie_self]
  obtain ⟨hloft, -⟩ := ((s.die b.die).beginSegment_cycles [b.bay] (s.die b.die).quarter []).trans
    (RingDie.moveSlots_cycles b.die f (4 * ceilDiv f.bytes.toNat 1024 + 4) 0 (ceilDiv f.bytes.toNat 1024) _) |>.kept
  exact hloft

/-- A MOVE from slice to slice writes the bytes that stood at its source (R436). -/
theorem State.runMove_slices (s : State) (b : BayId) (f : MoveFields) (hs : f.src5.toNat < 16) (hd : f.dst5.toNat < 16) :
    s.runMove b f = (s.moveSegment b f).writeLoft b.die f.dst.toNat
      ((s.die b.die).loft.read f.src.toNat f.bytes.toNat) := by
  have hread : (s.moveSegment b f).moveRead b.die f.src5.toNat f.src.toNat f.bytes.toNat =
      (s.die b.die).loft.read f.src.toNat f.bytes.toNat := by
    rw [State.moveRead, if_pos hs, State.readLoft, s.moveSegment_loft]
  have hwrite : s.runMove b f = (s.moveSegment b f).moveWrite b.die f.dst5.toNat f.dst.toNat
      ((s.moveSegment b f).moveRead b.die f.src5.toNat f.src.toNat f.bytes.toNat) := rfl
  rw [hwrite, hread, State.moveWrite, if_pos hd]

theorem State.runMove_loft (s : State) (b : BayId) (f : MoveFields) (hs : f.src5.toNat < 16) (hd : f.dst5.toNat < 16) :
    ((s.runMove b f).die b.die).loft =
      (s.die b.die).loft.write f.dst.toNat ((s.die b.die).loft.read f.src.toNat f.bytes.toNat) := by
  rw [s.runMove_slices b f hs hd, State.writeLoft_self, s.moveSegment_loft]

theorem State.runMove_ne (s : State) (b : BayId) (f : MoveFields) (hs : f.src5.toNat < 16) (hd : f.dst5.toNat < 16) {d : DieId}
    (h : d ≠ b.die) : (s.runMove b f).die d = s.die d := by
  rw [s.runMove_slices b f hs hd, State.writeLoft_ne _ _ _ _ _ (Ne.symm h), State.moveSegment,
    State.modDie_ne _ _ _ _ (Ne.symm h)]

/-! ## WAKE (R22, R313, R333) -/

/-- A second hint with the same deadline changes nothing: a station named twice is hinted once. -/
theorem Bent.hint_hint (x : Bent) (due : DWord) (short : Bool) (n unit : Nat) :
    (x.hint due short n unit).hint due short n unit = x.hint due short n unit := by
  unfold Bent.hint
  by_cases hh : x.husk = true
  · simp [hh]
  · by_cases hg : x.power = .gated
    · simp [hh, hg]
    · cases short <;> simp [hh, hg, Bent.gate]

/-- What a WAKE does to one bent. -/
def State.hintBent (d : DieId) (due : DWord) (short : Bool) (n : Nat) (s : State) (i : BentIx) : State :=
  (s.modBent d i fun x => x.hint due short n i.val).setStopped d i
    (decide (((s.bent d i).hint due short n i.val).power ≠ .awake))

theorem State.hintBent_bent (d : DieId) (due : DWord) (short : Bool) (n : Nat) (s : State) (i k : BentIx) :
    (s.hintBent d due short n i).bent d k = if k = i then (s.bent d k).hint due short n k.val else s.bent d k := by
  unfold State.hintBent
  rw [State.setStopped_bent]
  split
  · next h => rw [h, State.modBent_self]
  · next h => rw [State.modBent_ne _ _ _ _ _ (Ne.symm h)]

/-- Every bent of the list is hinted, and no other. -/
theorem State.foldl_hintBent_bent (d : DieId) (due : DWord) (short : Bool) (n : Nat) (l : List BentIx) (s : State) (k : BentIx) :
    (l.foldl (State.hintBent d due short n) s).bent d k =
      if k ∈ l then (s.bent d k).hint due short n k.val else s.bent d k := by
  induction l generalizing s with
  | nil => simp
  | cons i rest ih =>
    rw [List.foldl_cons, ih, State.hintBent_bent]
    by_cases hi : k = i
    · simp [hi, Bent.hint_hint]
    · simp [hi]

/-- The die of a WAKE after the one slot of its segment. -/
def State.wakeSegment (s : State) (b : BayId) : State :=
  ({ s with free := s.free + 1 } : State).modDie b.die fun r => (r.beginSegment [b.bay] 0 r.quarter []).builtSlot b.die 0 []

theorem State.wakeSegment_cycles (s : State) (b : BayId) : (s.die b.die).OnlyCycles ((s.wakeSegment b).die b.die) := by
  unfold State.wakeSegment
  rw [State.modDie_self]
  exact ((s.die b.die).beginSegment_cycles [b.bay] _ []).trans (RingDie.builtSlot_cycles _ b.die 0 [])

/-- A WAKE hints the bents that it names (R313). -/
theorem State.runWake_bent (s : State) (b : BayId) (f : WakeFields) (k : BentIx) :
    let ns := (s.die b.die).cyclesNs f.cycles.toNat
    (s.runWake b f).bent b.die k = if k ∈ (s.die b.die).wakeBents f.bentMask then
      (s.bent b.die k).hint (s.clk.boardTime + BitVec.ofNat 64 ns) (decide (ns < 2200)) s.free k.val else s.bent b.die k := by
  intro ns
  have hrun : s.runWake b f = (((s.wakeSegment b).die b.die).wakeBents f.bentMask).foldl
      (State.hintBent b.die (s.clk.boardTime + BitVec.ofNat 64 ns) (decide (ns < 2200)) s.free) (s.wakeSegment b) := rfl
  have hbents : (s.wakeSegment b).bent b.die k = s.bent b.die k := by
    obtain ⟨-, hbents⟩ := (s.wakeSegment_cycles b).kept
    simp only [State.bent, hbents]
  rw [hrun, State.foldl_hintBent_bent, (s.wakeSegment_cycles b).wakeBents, hbents]

/-- A bent that carries husk load, or is gated, takes the deadline; another is stopped, or gated with its banks lost. -/
theorem Bent.hint_eq (x : Bent) (due : DWord) (ns n unit : Nat) : x.hint due (decide (ns < 2200)) n unit =
    if x.husk = true ∨ x.power = .gated then { x with deadline := some due }
    else if ns < 2200 then { x with power := .stopped }
    else { x with
      power := .gated, deadline := some due, live := lostBank n (2 * unit), loadBank := lostBank n (2 * unit + 1) } := by
  unfold Bent.hint Bent.gate
  by_cases hh : x.husk = true
  · simp [hh]
  · by_cases hg : x.power = .gated
    · simp [hg]
    · simp [hh, hg]

/-! ## The obligation -/

/-- An engine that runs a command changes no bent. -/
@[simp] theorem running_bent (s : State) (h : CmdHead) (q : QueueIx) (cmd : EngineCmd) (st : Status) (k : BentIx) :
    (running s h q cmd st).bent h.bay.die k = s.bent h.bay.die k := by
  simp only [running, State.modQueue, State.modBay, State.bent, State.modDie_self, RingDie.modBay]

/-- Settles O19: a free engine runs, queues or refuses the command (`takeCmd_runs`, `takeCmd_waits`, `takeCmd_refuses`); what MOVE
and WAKE leave is `runMove_loft` and `runWake_bent`. -/
theorem ringQueueCommandsTakeEffect : Obligations.RingQueueCommandsTakeEffect := by
  unfold Obligations.RingQueueCommandsTakeEffect
  intro s c hf
  refine ⟨fun f hg => ⟨fun hr hfit => ?_, fun hr => ?_⟩, fun f hg => ?_, fun f hseg hsrc hdst => ⟨?_, fun hs hd =>
    ⟨fun i hi => ?_, fun a ha => ?_, fun d hne => s.runMove_ne c.bay f hs hd hne⟩⟩, fun f hseg => ?_⟩
  · refine ⟨_, _, Prod.mk.eta.symm, s.runPass_status c.bay f, ?_⟩
    rw [exec_pass, State.takeCmd_runs _ _ hf (by decide) hr hg hfit]
  · rw [exec_pass, State.takeCmd_waits _ _ hf hr hg]
  · rw [exec_pass, State.takeCmd_refuses _ _ hf hg]
    rfl
  · rw [exec_move, State.takeCmd_runs _ _ hf (by decide) (by rw [hseg]; rfl) (by rw [hsrc, hdst]; rfl) rfl]
  · rw [s.runMove_loft c.bay f hs hd, Memory.get_write, if_pos (by rw [Memory.read_length]; omega), Nat.add_sub_cancel_left,
      Memory.read_getD _ _ _ _ hi]
  · rw [s.runMove_loft c.bay f hs hd, Memory.get_write, if_neg (by rw [Memory.read_length]; omega)]
  · refine ⟨_, by rw [exec_wake, State.takeCmd_runs _ _ hf (by decide) (by rw [hseg]; rfl) rfl rfl], ?_, fun i => ?_⟩
    · rw [running, State.modQueue_self]
    · rw [running_bent, s.runWake_bent c.bay f i, Bent.hint_eq]
      by_cases hi : i ∈ (s.die c.bay.die).wakeBents f.bentMask
      · simp only [hi, if_true, not_true_eq_false, if_false]
      · simp only [hi, if_false, not_false_eq_true, if_true]

end Sys2Proof.Machine

/-! PROOFS. The codes of the number formats (R26 to R38): what a sign bit and a magnitude decode as, block scales, and the sign that
every conversion keeps (R27, R30 to R34). -/

namespace Sys2Proof.Machine

/-! ## A code is its sign bit and its magnitude -/

section SignedCode
variable {w mag : Nat} (neg : Bool) (h : mag < w)
include h

theorem signedCode_mod : ((if neg then w else 0) + mag) % w = mag := by
  cases neg <;> simp [Nat.mod_eq_of_lt h]

theorem signedCode_sign : (((if neg then w else 0) + mag) / w % 2 == 1) = neg := by
  have hw : 0 < w := by omega
  cases neg <;> simp [Nat.add_div_left, hw, Nat.div_eq_of_lt h]

end SignedCode

/-! ## H16, F32 and W40 (R33 to R36) -/

/-- A code of the layout of R33 by its sign and its magnitude bits. -/
theorem decFloat_signed (f : Nat) (neg : Bool) {mag : Nat} (h : mag < 2 ^ (f + 8)) :
    decFloat f ((if neg then 2 ^ (f + 8) else 0) + mag) =
      if mag / 2 ^ f = 255 then (if mag % 2 ^ f = 0 then .inf neg else .nan)
      else if mag / 2 ^ f = 0 then .fin neg (mag % 2 ^ f) (-126 - f)
      else .fin neg (2 ^ f + mag % 2 ^ f) (((mag / 2 ^ f : Nat) : Int) - 127 - f) := by
  have hmod := signedCode_mod neg h
  have hfrac : ((if neg then 2 ^ (f + 8) else 0) + mag) % 2 ^ f = mag % 2 ^ f := by
    rw [← Nat.mod_mod_of_dvd _ (pow_dvd_pow 2 (Nat.le_add_right f 8)), hmod]
  have hex : ((if neg then 2 ^ (f + 8) else 0) + mag) / 2 ^ f % 256 = mag / 2 ^ f := by
    rw [← Nat.mod_mul_right_div_self, show 2 ^ f * 256 = 2 ^ (f + 8) from (pow_add 2 f 8).symm, hmod]
  simp only [decFloat, hfrac, hex, signedCode_sign neg h]

/-- Up to the code of infinity, at the top of the range, no code is a NaN: each has the sign of its sign bit. -/
theorem decFloat_isNeg (f : Nat) (neg : Bool) {mag : Nat} (h : mag ≤ 255 * 2 ^ f) :
    (decFloat f ((if neg then 2 ^ (f + 8) else 0) + mag)).isNeg = neg := by
  have hlt : mag < 2 ^ (f + 8) := by
    have := Nat.two_pow_pos f
    rw [pow_add]
    omega
  rw [decFloat_signed f neg hlt]
  by_cases htop : mag / 2 ^ f = 255
  · have hzero : mag % 2 ^ f = 0 := by
      have := Nat.div_add_mod mag (2 ^ f)
      rw [htop] at this
      omega
    rw [if_pos htop, if_pos hzero, Dyad.isNeg]
  · rw [if_neg htop]
    split <;> rfl

theorem decFloat_zero (f : Nat) (neg : Bool) :
    decFloat f (if neg then 2 ^ (f + 8) else 0) = .fin neg 0 (-126 - f) := by
  simpa using decFloat_signed f neg (Nat.two_pow_pos (f + 8))

@[simp] theorem roundBits_zero (f : Nat) (emin e : Int) : roundBits f emin 0 e = 0 := by
  simp [roundBits]

/-- A conversion into a layout of R33 keeps the sign, also where it rounds to zero or to infinity (R34). -/
theorem decFloat_encFloat_isNeg (f : Nat) (neg : Bool) (m : Nat) (e : Int) :
    (decFloat f (encFloat f (.fin neg m e))).isNeg = neg :=
  decFloat_isNeg f neg (Nat.min_le_right _ _)

theorem decFloat_encFloat_zero (f : Nat) (neg : Bool) (e : Int) :
    decFloat f (encFloat f (.fin neg 0 e)) = .fin neg 0 (-126 - f) := by
  simp [encFloat, decFloat_zero]

/-! ## The elements of A8, G8 and A4 (R30 to R32) -/

/-- The value of a finite element by its sign and its magnitude bits. -/
def BlockFmt.finiteValue (k : BlockFmt) (neg : Bool) (mag : Nat) : Dyad :=
  if mag / 2 ^ k.frac = 0 then .fin neg (mag % 2 ^ k.frac) (k.emin - k.frac)
  else .fin neg (2 ^ k.frac + mag % 2 ^ k.frac) (k.emin - k.frac + ((mag / 2 ^ k.frac : Nat) : Int) - 1)

@[simp] theorem BlockFmt.finiteValue_isNeg (k : BlockFmt) (neg : Bool) (mag : Nat) : (k.finiteValue neg mag).isNeg = neg := by
  unfold BlockFmt.finiteValue
  split <;> rfl

@[simp] theorem BlockFmt.finiteValue_zero (k : BlockFmt) (neg : Bool) :
    k.finiteValue neg 0 = .fin neg 0 (k.emin - k.frac) := by
  simp [BlockFmt.finiteValue]

/-- The value by the exponent field and the fraction field. -/
theorem BlockFmt.finiteValue_fields (k : BlockFmt) (neg : Bool) (ex : Nat) {frac : Nat} (h : frac < 2 ^ k.frac) :
    k.finiteValue neg (2 ^ k.frac * ex + frac) =
      if ex = 0 then .fin neg frac (k.emin - k.frac)
      else .fin neg (2 ^ k.frac + frac) (k.emin - k.frac + (ex : Int) - 1) := by
  have hdiv : (2 ^ k.frac * ex + frac) / 2 ^ k.frac = ex := by
    rw [Nat.mul_add_div (Nat.two_pow_pos _), Nat.div_eq_of_lt h, Nat.add_zero]
  have hmod : (2 ^ k.frac * ex + frac) % 2 ^ k.frac = frac := by
    rw [Nat.mul_add_mod, Nat.mod_eq_of_lt h]
  simp only [BlockFmt.finiteValue, hdiv, hmod]

theorem BlockFmt.maxCode_lt_signBit (k : BlockFmt) : k.maxCode < k.signBit := by
  cases k <;> decide

/-- Up to the largest finite magnitude an element is finite, with the sign of its sign bit. -/
theorem BlockFmt.element_finite (k : BlockFmt) (neg : Bool) {mag : Nat} (h : mag ≤ k.maxCode) :
    k.element ((if neg then k.signBit else 0) + mag) = k.finiteValue neg mag := by
  have hlt : mag < k.signBit := Nat.lt_of_le_of_lt h k.maxCode_lt_signBit
  simp only [BlockFmt.element, signedCode_mod neg hlt, signedCode_sign neg hlt]
  cases k with
  | a8 => exact if_neg fun e => absurd h (by simp [e, BlockFmt.maxCode])
  | g8 =>
    rw [BlockFmt.maxCode] at h
    simp only [show mag ≠ 0x7C by omega, show ¬mag > 0x7C by omega, if_false]
    rfl
  | a4 => rfl

/-- The one NaN magnitude of A8 (R30). -/
theorem a8_element_nan (neg : Bool) : BlockFmt.a8.element ((if neg then 128 else 0) + 0x7F) = .nan := by
  cases neg <;> rfl

/-- The infinities of G8 (R31). -/
theorem g8_element_inf (neg : Bool) : BlockFmt.g8.element ((if neg then 128 else 0) + 0x7C) = .inf neg := by
  cases neg <;> rfl

/-- The NaN magnitudes of G8 (R31). -/
theorem g8_element_nan (neg : Bool) {mag : Nat} (h : 0x7C < mag) (hlt : mag < 128) :
    BlockFmt.g8.element ((if neg then 128 else 0) + mag) = .nan := by
  have hmod : ((if neg then 128 else 0) + mag) % BlockFmt.g8.signBit = mag := signedCode_mod neg hlt
  simp only [BlockFmt.element, hmod, if_neg h.ne', gt_iff_lt, if_pos h]

theorem BlockFmt.element_zero (k : BlockFmt) (neg : Bool) :
    k.element (if neg then k.signBit else 0) = .fin neg 0 (k.emin - k.frac) := by
  simpa using k.element_finite neg (Nat.zero_le _)

/-- An element of a block keeps the sign, also where it rounds to zero or saturates (R34). -/
theorem BlockFmt.element_codeOf_isNeg (k : BlockFmt) (x : Nat) (neg : Bool) (m : Nat) (e : Int) :
    (k.element (k.codeOf x (.fin neg m e))).isNeg = neg := by
  rw [BlockFmt.codeOf, k.element_finite neg (mag := k.roundCode _ _) (Nat.min_le_right _ _), finiteValue_isNeg]

theorem BlockFmt.element_codeOf_zero (k : BlockFmt) (x : Nat) (neg : Bool) (e : Int) :
    k.element (k.codeOf x (.fin neg 0 e)) = .fin neg 0 (k.emin - k.frac) := by
  simp [BlockFmt.codeOf, BlockFmt.roundCode, k.element_zero]

/-- The values of A8 by its fields (R30). -/
theorem a8_element_fields (neg : Bool) {ex frac : Nat} (hex : ex ≤ 15) (hfrac : frac ≤ 7) :
    BlockFmt.a8.element ((if neg then 128 else 0) + 8 * ex + frac) =
      if ex = 15 ∧ frac = 7 then .nan else if ex = 0 then .fin neg frac (-9) else .fin neg (8 + frac) ((ex : Int) - 10) := by
  rw [Nat.add_assoc]
  by_cases hnan : ex = 15 ∧ frac = 7
  · obtain ⟨rfl, rfl⟩ := hnan
    exact a8_element_nan neg
  · have hmag : 8 * ex + frac ≤ BlockFmt.a8.maxCode := by
      rw [BlockFmt.maxCode]
      omega
    have hexp : ((-6 : Int) - (3 : Nat) + ex - 1) = ex - 10 := by omega
    rw [if_neg hnan, ← hexp]
    exact (BlockFmt.a8.element_finite neg hmag).trans (BlockFmt.a8.finiteValue_fields neg ex (Nat.lt_succ_of_le hfrac))

/-- The values of G8 by its fields (R31). -/
theorem g8_element_fields (neg : Bool) {ex frac : Nat} (hex : ex ≤ 31) (hfrac : frac ≤ 3) :
    BlockFmt.g8.element ((if neg then 128 else 0) + 4 * ex + frac) =
      if ex = 31 then (if frac = 0 then .inf neg else .nan)
      else if ex = 0 then .fin neg frac (-16) else .fin neg (4 + frac) ((ex : Int) - 17) := by
  rw [Nat.add_assoc]
  by_cases htop : ex = 31
  · subst htop
    rw [if_pos rfl]
    by_cases hzero : frac = 0
    · subst hzero
      exact g8_element_inf neg
    · rw [if_neg hzero]
      exact g8_element_nan neg (by omega) (by omega)
  · have hmag : 4 * ex + frac ≤ BlockFmt.g8.maxCode := by
      rw [BlockFmt.maxCode]
      omega
    have hexp : ((-14 : Int) - (2 : Nat) + ex - 1) = ex - 17 := by omega
    rw [if_neg htop, ← hexp]
    exact (BlockFmt.g8.element_finite neg hmag).trans (BlockFmt.g8.finiteValue_fields neg ex (Nat.lt_succ_of_le hfrac))

/-- The 16 codes of A4 (R32). -/
theorem a4_element_table (neg : Bool) {c : Nat} (hc : c < 8) : BlockFmt.a4.element ((if neg then 8 else 0) + c) =
    .fin neg ([0, 1, 2, 3, 2, 3, 2, 3].getD c 0) ([-1, -1, -1, -1, 0, 0, 1, 1].getD c 0) := by
  have h : BlockFmt.a4.element ((if neg then 8 else 0) + c) = BlockFmt.a4.finiteValue neg c :=
    BlockFmt.a4.element_finite neg (Nat.le_of_lt_succ hc)
  rw [h]
  interval_cases c <;> rfl

/-! ## Block scales (R27) -/

@[simp] theorem BlockFmt.decode_nanBlock (k : BlockFmt) (code : Nat) : k.decode 0xFF code = .nan := rfl

/-- Below 0xFF the scale byte is a power of two. -/
theorem BlockFmt.decode_of_scale (k : BlockFmt) {x : Nat} (code : Nat) (hx : x ≤ 0xFE) :
    k.decode x code = (k.element code).scale2 ((x : Int) - 127) :=
  if_neg (by omega)

/-! ## The obligation -/

/-- Settles O55: a scale byte scales or makes NaN (`decode_of_scale`); a conversion never reaches a NaN code, so it keeps the sign
(`decFloat_isNeg`, `element_finite`); the codes of A4, A8 and G8 are their lemmas above. -/
theorem blocksAndSignsFollowTheFormats : Obligations.BlocksAndSignsFollowTheFormats := by
  unfold Obligations.BlocksAndSignsFollowTheFormats
  refine ⟨fun k x code => ⟨fun hx neg m e he => ?_, fun hx neg he => ?_, fun hx he => ?_, k.decode_nanBlock code⟩,
    fun neg m e => ⟨fun f _ => ⟨decFloat_encFloat_isNeg f neg m e, ?_⟩, fun k x => ⟨k.element_codeOf_isNeg x neg m e, ?_⟩⟩,
    fun f _ => ?_, fun k => ?_, fun neg c => a4_element_table neg, fun neg ex frac => a8_element_fields neg,
    fun neg ex frac => g8_element_fields neg⟩
  · rw [k.decode_of_scale code hx, he]
    rfl
  · rw [k.decode_of_scale code hx, he]
    rfl
  · rw [k.decode_of_scale code hx, he]
    rfl
  · rintro rfl
    rw [decFloat_encFloat_zero]
    rfl
  · rintro rfl
    rw [k.element_codeOf_zero]
    rfl
  · rw [show decFloat f (2 ^ (f + 8)) = _ from decFloat_zero f true]
    exact ⟨rfl, rfl⟩
  · rw [show k.element k.signBit = _ from k.element_zero true]
    exact ⟨rfl, rfl⟩

end Sys2Proof.Machine

/-! PROOFS. What the registers read after reset (R43, R149, R211, R264, R323, R340, R380, R398, R401, R407). -/

namespace Sys2Proof.Machine

/-! ## The registers of a ring die and of a link (R399) -/

theorem placeOfOffset_ring (d : DieId) {o : Nat} (ho : o < 0x40000) (h4 : o % 4 = 0) :
    placeOfOffset (0x0400000 + 0x40000 * d.val + o) = .ring d o := by
  obtain ⟨d, hd⟩ := d
  have hdie : (0x0400000 + 0x40000 * d + o - 0x0400000) / 0x40000 = d := by omega
  have hoff : (0x0400000 + 0x40000 * d + o) % 0x40000 = o := by omega
  unfold placeOfOffset
  rw [if_neg (by omega), if_neg (by omega), if_neg (by omega), if_neg (by omega), if_neg (by omega), dif_pos (by omega)]
  simp only [hdie, hoff]

theorem placeOfOffset_link (k : LinkId) {o : Nat} (ho : o < 0x10000) (h4 : o % 4 = 0) :
    placeOfOffset (0x0C00000 + 0x10000 * k.val + o) = .link k o := by
  obtain ⟨k, hk⟩ := k
  have hlink : (0x0C00000 + 0x10000 * k + o - 0x0C00000) / 0x10000 = k := by omega
  have hoff : (0x0C00000 + 0x10000 * k + o) % 0x10000 = o := by omega
  unfold placeOfOffset
  rw [if_neg (by omega), if_neg (by omega), if_neg (by omega), if_neg (by omega), if_neg (by omega), dif_neg (by omega),
    dif_neg (by omega), dif_pos (by omega)]
  simp only [hlink, hoff]

theorem State.readReg_ring (s : State) (d : DieId) {o : Nat} (ho : o < 0x40000) (h4 : o % 4 = 0) :
    s.readReg (0x0400000 + 0x40000 * d.val + o) = s.readRing d o := by
  rw [State.readReg, placeOfOffset_ring d ho h4]

theorem State.readReg_link (s : State) (k : LinkId) {o : Nat} (ho : o < 0x10000) (h4 : o % 4 = 0) :
    s.readReg (0x0C00000 + 0x10000 * k.val + o) = s.readLink k o := by
  rw [State.readReg, placeOfOffset_link k ho h4]

/-! ## The units after reset -/

@[simp] theorem State.reset_die (d : DieId) : State.reset.die d = {} :=
  Vector.getElem_replicate _

@[simp] theorem State.reset_link (k : LinkId) : State.reset.link k = {} :=
  Vector.getElem_replicate _

/-- All memories are empty but the MSI-X table, which lists its masked vectors in order; the dies are alike, and so are the sills. -/
theorem good_reset : Good State.reset := by
  have hdies : State.reset.dies = Vector.replicate 16 {} := rfl
  have hsills : State.reset.sills = Vector.replicate 12 {} := rfl
  refine ⟨?_, by decide⟩
  simp only [memoriesWf, hdies, hsills, Vector.toList_replicate, List.all_replicate]
  decide

/-- The registers that each ring die has alike (R43, R95, R407 to R411). -/
theorem State.reset_readRing (d : DieId) :
    ∀ x ∈ [(0x0000C, 0), (0x00010, 0x0369645F), (0x00014, 0x32), (0x00018, 0), (0x0001C, 0), (0x00100, 0), (0x00104, 0x7F),
      (0x10000, 0)], State.reset.readRing d x.1 = BitVec.ofNat 32 x.2 := by
  simp only [List.forall_mem_cons, State.readRing, State.ledgerData, State.reset_die]
  exact ⟨by decide, rfl, rfl, by decide, by decide, rfl, rfl, rfl, nofun⟩

theorem State.reset_readLink (k : LinkId) :
    ∀ x ∈ [(0x0, 0x00031481), (0x4, 0x18002000), (0x8, 0x03FC0404)], State.reset.readLink k x.1 = BitVec.ofNat 32 x.2 := by
  simp only [List.forall_mem_cons, State.readLink, State.reset_link]
  exact ⟨rfl, rfl, rfl, nofun⟩

/-! ## The obligation -/

/-- Settles O58: the registers that the module has once are a closed table; those of a die and of a link read its own reset
fields (`readReg_ring`, `readReg_link`), and the invariant is `good_reset`. -/
theorem resetLeavesTheSpecifiedValues : Obligations.ResetLeavesTheSpecifiedValues := by
  unfold Obligations.ResetLeavesTheSpecifiedValues
  refine ⟨by decide, fun d x hx => ?_, fun k x hx => ?_, good_reset, rfl⟩
  · have hplace : ∀ o ∈ [0x0C, 0x10, 0x14, 0x18, 0x1C, 0x100, 0x104, 0x10000], o < 0x40000 ∧ o % 4 = 0 := by decide
    obtain ⟨ho, h4⟩ := hplace x.1 (List.mem_map_of_mem (f := Prod.fst) hx)
    rw [State.readReg_ring _ d ho h4, State.reset_readRing d x hx]
  · have hplace : ∀ o ∈ [0x0, 0x4, 0x8], o < 0x10000 ∧ o % 4 = 0 := by decide
    obtain ⟨ho, h4⟩ := hplace x.1 (List.mem_map_of_mem (f := Prod.fst) hx)
    rw [State.readReg_link _ k ho h4, State.reset_readLink k x hx]

end Sys2Proof.Machine

/-! PROOFS. What a beat leaves in a bent: one accumulator entry of all 256 lanes is written, everything else stays (R48, R58, R62,
R63). -/

namespace Sys2Proof.Machine

/-- The entry of a lane lies in the 256 indices of an entry only if it is that entry. -/
theorem entryIndex_mem_iff (k entry : Nat) {lane : Nat} (h : lane < 256) :
    entry * 256 ≤ k * 256 + lane ∧ k * 256 + lane < entry * 256 + 256 ↔ k = entry := by
  omega

/-- The accumulator after a beat, by lane and entry (R48, R58). -/
theorem Bent.beat_entryAt (x : Bent) (pair : Nat) (row : TrainRow) (entry : Nat) (firstK : Bool) (k : Nat) {lane : Nat}
    (h : lane < 256) :
    (x.beat pair row entry firstK).1.entryAt k lane =
      if k = entry then
        encF32 (laneBeat pair x.live row lane (if firstK then Dyad.zero else decF32 (x.entryAt entry lane))).1
      else x.entryAt k lane := by
  simp only [Bent.beat, Bent.entryAt, Sparse.get_setRange, List.length_map, List.length_range, entryIndex_mem_iff k entry h]
  by_cases hk : k = entry
  · subst hk
    simp [h]
  · simp only [hk, if_false]

/-- A beat changes nothing of a bent but its accumulator. -/
theorem Bent.beat_frame (x : Bent) (pair : Nat) (row : TrainRow) (entry : Nat) (firstK : Bool) :
    (x.beat pair row entry firstK).1 = { x with acc := (x.beat pair row entry firstK).1.acc } := rfl

/-! ## The obligation -/

/-- Settles O18: the written entry and the other entries are the two cases of `Bent.beat_entryAt`; the banks and the power state
stay by `Bent.beat_frame`. -/
theorem beatAddsIntoOneEntry : Obligations.BeatAddsIntoOneEntry := by
  unfold Obligations.BeatAddsIntoOneEntry
  intro x pair row entry firstK y
  have hframe : y = { x with acc := y.acc } := x.beat_frame pair row entry firstK
  refine ⟨fun lane h => ?_, fun k lane h hk => ?_, by rw [hframe], by rw [hframe], by rw [hframe]⟩
  · rw [x.beat_entryAt pair row entry firstK entry h, if_pos rfl]
  · rw [x.beat_entryAt pair row entry firstK k h, if_neg hk]

end Sys2Proof.Machine

/-! PROOFS. What a completion leaves of its bay and its die (R77, R94). -/

namespace Sys2Proof.Machine

/-! ## One unit of a bank -/

/-- A change that leaves the element as it is leaves the vector. -/
theorem updAt_eq_self {α : Type} {n : Nat} (v : Vector α n) (i : Fin n) {f : α → α} (h : f v[i] = v[i]) : updAt v i f = v := by
  rw [updAt, h]
  exact Vector.set_getElem_self _

/-- Two changes of a die that agree on it are one. -/
theorem State.modDie_congr (s : State) (d : DieId) {f g : RingDie → RingDie} (h : f (s.die d) = g (s.die d)) :
    s.modDie d f = s.modDie d g := by
  have hd : f s.dies[d] = g s.dies[d] := h
  simp only [State.modDie, updAt, hd]

/-- Two changes of a bay that agree on it are one. -/
theorem State.modBay_congr (s : State) (b : BayId) {f g : Bay → Bay} (h : f (s.bay b) = g (s.bay b)) :
    s.modBay b f = s.modBay b g := by
  have hb : f (s.die b.die).bays[b.bay] = g (s.die b.die).bays[b.bay] := h
  exact s.modDie_congr b.die (by simp only [RingDie.modBay, updAt, hb])

/-- A change that leaves the bay as it is leaves the state. -/
theorem State.modBay_eq_self (s : State) (b : BayId) {f : Bay → Bay} (h : f (s.bay b) = s.bay b) : s.modBay b f = s := by
  have hdie : (s.dies[b.die]).modBay b.bay f = s.dies[b.die] := by
    rw [RingDie.modBay, updAt_eq_self (s.dies[b.die]).bays b.bay h]
  rw [State.modBay, State.modDie, updAt_eq_self s.dies b.die hdie]

@[simp] theorem State.countRing_bay (s : State) (d : DieId) (i n : Nat) (b : BayId) : (s.countRing d i n).bay b = s.bay b := by
  by_cases h : d = b.die
  · simp only [State.bay, h, State.countRing_die_self, RingDie.count]
  · simp only [State.bay, State.countRing, State.modDie_ne _ _ _ _ h]

@[simp] theorem State.setReplay_dies (s : State) : s.setReplay.dies = s.dies := by
  rcases s.setBits_cases { replay := true } with ⟨-, h⟩ | ⟨-, -, h⟩ | ⟨-, -, h⟩ <;> rw [State.setReplay, h]

@[simp] theorem State.setReplay_die (s : State) (d : DieId) : s.setReplay.die d = s.die d := by
  simp only [State.die, State.setReplay_dies]

/-! ## A completion (R77) -/

/-- The die is as `r` but for its counters. -/
def RingDie.Counted (r q : RingDie) : Prop := ∃ n : Sparse Word, q = { r with counters := n }

theorem RingDie.Counted.count {r q : RingDie} (h : r.Counted q) (i n : Nat) : r.Counted (q.count i n) := by
  obtain ⟨m, rfl⟩ := h
  exact ⟨_, rfl⟩

/-- What a completion does: it counts at its counter, and at counters of the die, sets REPLAY and writes records where its status
asks for them (R77, R94). -/
theorem State.finishCmd_induct {P : State → Prop} (s : State) (b : BayId) (q : QueueIx) (c : CtrIx) (st : Status) (tag : Word)
    (done : P (s.modBay b fun y => y.countDone c st)) (count : ∀ t i, P t → P (State.countRing t b.die i))
    (replay : ∀ t, P t → P t.setReplay) (report : ∀ t r, P t → P (State.report t r)) : P (s.finishCmd b q c st tag) := by
  have cancelled (t : State) (h : P t) :
      P (if st = .disabled ∨ st = .cancelled then (t.countRing b.die 0x39).setReplay else t) :=
    ite_both (replay _ (count _ _ h)) h
  have malformed (t : State) (h : P t) :
      P (if st = .badDescriptor ∧ (q = .fetch ∨ q = .store) then t.countRing b.die 0x58 else t) := ite_both (count _ _ h) h
  have counted := malformed _ (cancelled _ done)
  exact ite_both (report _ _ counted) counted

/-- A completion changes its own bay by what it counts and wakes, and of the rest of the die the counters alone. -/
theorem State.finishCmd_die (s : State) (b : BayId) (q : QueueIx) (c : CtrIx) (st : Status) (tag : Word) :
    ((s.die b.die).modBay b.bay fun y => y.countDone c st).Counted ((s.finishCmd b q c st tag).die b.die) := by
  refine s.finishCmd_induct (P := fun t => RingDie.Counted _ (t.die b.die)) b q c st tag ⟨_, State.modDie_self _ _ _⟩
    (fun t i h => ?_) (fun t h => ?_) fun t r h => ?_
  · rw [State.countRing_die_self]
    exact h.count i 1
  · rwa [State.setReplay_die]
  · rwa [State.report_die]

theorem State.finishCmd_bay (s : State) (b : BayId) (q : QueueIx) (c : CtrIx) (st : Status) (tag : Word) :
    (s.finishCmd b q c st tag).bay b = (s.bay b).countDone c st := by
  obtain ⟨n, h⟩ := s.finishCmd_die b q c st tag
  simp only [State.bay, h, RingDie.modBay, updAt_self]

/-- Counting at one counter leaves the others. -/
theorem Bay.countDone_counter (y : Bay) (c k : CtrIx) (st : Status) :
    (y.countDone c st).counters[k] = if k = c then (y.counters[k]).finish st else y.counters[k] := by
  show (updAt y.counters c fun x => x.finish st)[k] = _
  split
  · next h => rw [h, updAt_self]
  · next h => exact updAt_ne _ _ _ _ (Ne.symm h)

/-! ## The obligation -/

/-- Settles O16: the counter has finished a command (`CompCounter.finish`) and the others stay, by `finishCmd_bay` and
`countDone_counter`. -/
theorem completionsRaiseTheirCounter : Obligations.CompletionsRaiseTheirCounter := by
  unfold Obligations.CompletionsRaiseTheirCounter
  intro s b q c st t
  have hctr (k : CtrIx) : (t.bay b).counters[k] =
      if k = c then ((s.bay b).counters[k]).finish st else (s.bay b).counters[k] := by
    rw [s.finishCmd_bay b q c st 0, Bay.countDone_counter]
  have hself := (hctr c).trans (if_pos rfl)
  refine ⟨by rw [hself]; rfl, fun hst => ?_, fun hd hf => ?_, fun k hk => by rw [hctr k, if_neg hk]⟩
  · have herr : statusError st = false := by rcases hst with rfl | rfl <;> rfl
    simp only [hself, CompCounter.finish, herr, Bool.or_false, Bool.false_eq_true, if_false, and_self]
  · have herr : statusError st = true := by simp [statusError, hd, hf]
    simp only [hself, CompCounter.finish, herr, Bool.or_true, if_true, and_self]

end Sys2Proof.Machine

/-! PROOFS. The push of a record to its queue, and the place that lets a stalled one in (R76, R258). -/

namespace Sys2Proof.Machine

/-! ## Records of a queue that are malformed (R437) -/

/-- An engine that runs a command looks at no record behind it. -/
theorem State.flushBad_of_running (n : Nat) (s : State) (b : BayId) (q : QueueIx) (h : ((s.bay b).queue q).running ≠ none) :
    State.flushBad n s b q = s := by
  cases n with
  | zero => rfl
  | succ n =>
    obtain ⟨r, hr⟩ := Option.ne_none_iff_exists'.mp h
    simp only [State.flushBad, hr]

/-- An empty queue holds no malformed record. -/
theorem State.flushBad_of_nil (n : Nat) (s : State) (b : BayId) (q : QueueIx) (h : ((s.bay b).queue q).waiting = []) :
    State.flushBad n s b q = s := by
  cases n with
  | zero => rfl
  | succ n =>
    simp only [State.flushBad, h]
    cases ((s.bay b).queue q).running <;> rfl

/-! ## QUEUE_SLOT_FREE and PUSH (R76, R258) -/

theorem queueOfNo_queueNo (q : QueueIx) : queueOfNo (BitVec.ofNat 4 (queueNo q).val) = some q := by
  cases q <;> rfl

/-- The address of a push is its register and the signed immediate, modulo 2^64. -/
theorem toNat_add_signExtend (a : DWord) (imm : BitVec 16) :
    (a + imm.signExtend 64).toNat = ((a.toInt + imm.toInt) % 2 ^ 64).toNat := by
  conv_lhs => rw [← BitVec.ofInt_toInt (x := a), BitVec.signExtend, ← BitVec.ofInt_add, BitVec.toNat_ofInt]
  rfl

/-- The state in which a thread has its turn and has not yet done anything (R75). -/
def State.turn (s : State) (t : ThreadRef) : State := s.modBay t.bay fun y => { y with lastIssued := t.thread }

@[simp] theorem State.turn_bay (s : State) (t : ThreadRef) : (s.turn t).bay t.bay = { s.bay t.bay with lastIssued := t.thread } :=
  State.modBay_self _ _ _

theorem State.turn_queue (s : State) (t : ThreadRef) (q : QueueIx) :
    ((s.turn t).bay t.bay).queue q = (s.bay t.bay).queue q := by
  rw [State.turn_bay]
  rfl

theorem State.turn_queueState (s : State) (t : ThreadRef) (q : QueueIx) :
    ((s.turn t).bay t.bay).queueState q = (s.bay t.bay).queueState q := by
  rw [State.turn_bay]
  rfl

theorem State.turn_thread (s : State) (t : ThreadRef) : (s.turn t).thread t = s.thread t := by
  rw [State.thread, State.turn_bay]
  rfl

/-- A thread that has its turn and becomes another has issued. -/
theorem State.turn_modThread (s : State) (t : ThreadRef) (f : Thread → Thread) :
    (s.turn t).modThread t f = issued s t (f (s.thread t)) := by
  rw [State.modThread, State.turn, State.modBay_modBay]
  rfl

/-- Issuing changes no queue. -/
theorem issued_queue (s : State) (t : ThreadRef) (x : Thread) (q : QueueIx) :
    ((issued s t x).bay t.bay).queue q = (s.bay t.bay).queue q := by
  rw [issued, State.modBay_self]
  rfl

@[simp] theorem State.modThread_thread (s : State) (t : ThreadRef) (f : Thread → Thread) :
    (s.modThread t f).thread t = f (s.thread t) := by
  simp only [State.modThread, State.thread, State.modBay_self, Bay.modThread, updAt_self]

theorem State.modThread_queue (s : State) (t : ThreadRef) (f : Thread → Thread) (q : QueueIx) :
    ((s.modThread t f).bay t.bay).queue q = (s.bay t.bay).queue q := by
  rw [State.modThread, State.modBay_self]
  rfl

/-- The thread whose turn it is pushes an aligned record of its own queue (R76, R257). -/
theorem exec_push {s : State} {t : ThreadRef} {q : QueueIx} {a : Fin 16} {imm : BitVec 16} (hready : threadReady s t)
    (hab : s.abandoning = false) (hbay : (s.bay t.bay).func .bay = .enabled)
    (hprod : ((s.bay t.bay).queue q).producer = t.thread) {addr : Nat}
    (haddr : ((s.thread t).regs[a] + imm.signExtend 64).toNat = addr) (h64 : addr % 64 = 0) (hmem : addr + 64 ≤ 65536) :
    exec (.push t (BitVec.ofNat 4 (queueNo q).val) a imm) s =
      .next ((s.turn t).pushRecord t q (readRecord q ((s.bay t.bay).dmem.read addr 64))) := by
  have hab' : (s.turn t).abandoning = false := hab
  have hbay' : ((s.turn t).bay t.bay).func .bay = .enabled := by rw [State.turn_bay]; exact hbay
  have hdmem : ((s.turn t).bay t.bay).dmem = (s.bay t.bay).dmem := by rw [State.turn_bay]
  have hissue (f : State → State) : s.issue t f = f (s.turn t) := if_pos hready
  show execPush t _ a imm s = _
  simp only [execPush, hissue, queueOfNo_queueNo, hab', hbay', State.turn_thread, State.turn_queue, haddr, hprod, hdmem, h64,
    inDmem, hmem, ne_eq, not_true_eq_false, decide_false, decide_true, Bool.or_self, Bool.false_eq_true, Bool.true_eq_false, or_self,
    if_false]

/-- A push to a queue with room joins the commands that wait there (R76). -/
theorem State.pushRecord_joins {s : State} {t : ThreadRef} {q : QueueIx} (c : QueuedCmd)
    (hen : (s.bay t.bay).queueState q = .enabled) (hroom : ((s.bay t.bay).queue q).waiting.length < 64)
    (hrun : ((s.bay t.bay).queue q).running ≠ none) :
    s.pushRecord t q c = (s.modThread t Thread.step).modQueue t.bay q fun x => { x with waiting := x.waiting ++ [c] } := by
  rw [State.pushRecord, if_neg (not_not.mpr hen), if_pos hroom, State.flushBad_of_running]
  rw [State.modQueue_self]
  exact (State.modBay_self ..).symm ▸ hrun

/-- A push to a full queue stalls its thread (R76). -/
theorem State.pushRecord_stalls {s : State} {t : ThreadRef} {q : QueueIx} (c : QueuedCmd)
    (hen : (s.bay t.bay).queueState q = .enabled) (hfull : 64 ≤ ((s.bay t.bay).queue q).waiting.length) :
    s.pushRecord t q c = (s.countRing t.bay.die (0x31 + t.bay.bay.val)).modThread t fun x =>
      { x.step with mode := .stall q c.ctr c.unusedClear c.cmd } := by
  rw [State.pushRecord, if_neg (not_not.mpr hen), if_neg (Nat.not_lt.mpr hfull)]

/-- The thread stalls in a push to the queue. -/
def ThreadMode.stallsAt (q : QueueIx) : ThreadMode → Bool
  | .stall q' _ _ _ => q' = q
  | _ => false

/-- The first of the eight threads that stalls at a queue. -/
theorem find_stalled {y : Bay} {q : QueueIx} {i : ThreadIx} {ctr : CtrIx} {clear : Bool} {cmd : EngineCmd}
    (hi : (y.threads[i]).mode = .stall q ctr clear cmd)
    (hfirst : ∀ j : ThreadIx, j < i → ∀ c u e, (y.threads[j]).mode ≠ .stall q c u e) :
    (List.finRange 8).find? (fun t => ((y.threads[t]).mode).stallsAt q) = some i := by
  rw [← Fin.find?_eq_find?_finRange, Fin.find?_eq_some_iff]
  refine ⟨by rw [hi]; exact decide_eq_true rfl, fun j hj => ?_⟩
  cases hm : (y.threads[j]).mode with
  | stall q' c u e => exact decide_eq_false fun h => hfirst j hj c u e (h ▸ hm)
  | ready => rfl
  | wait c target => rfl
  | halted => rfl

/-- QUEUE_SLOT_FREE lets the first thread that a queue stalls go on, its record behind those that wait (R76). -/
theorem exec_queueSlotFree {s : State} {b : BayId} {q : QueueIx} {i : ThreadIx} {ctr : CtrIx} {clear : Bool} {cmd : EngineCmd}
    (hi : ((s.bay b).threads[i]).mode = .stall q ctr clear cmd)
    (hfirst : ∀ j : ThreadIx, j < i → ∀ c u e, ((s.bay b).threads[j]).mode ≠ .stall q c u e)
    (hroom : ((s.bay b).queue q).waiting.length < 64) :
    exec (.queueSlotFree b q) s = .next (State.flushBad 64
      ((s.modBay b fun y => y.modThread i fun x => { x with mode := .ready }).modQueue b q fun x =>
        { x with waiting := x.waiting ++ [⟨ctr, clear, cmd⟩] }) b q) := by
  show execQueueSlotFree b q s = _
  unfold execQueueSlotFree
  generalize hstalled : List.find? _ (List.finRange 8) = stalled
  have hsome : stalled = some i := hstalled.symm.trans (find_stalled hi hfirst)
  simp only [hsome, hi, hroom, if_true]

/-! ## The obligation -/

/-- Settles O12: a push issues (`exec_push`) and its record joins the queue or stalls the thread (`pushRecord_joins`,
`pushRecord_stalls`); a stalled one goes on by `exec_queueSlotFree`. -/
theorem pushesFillTheirQueues : Obligations.PushesFillTheirQueues := by
  unfold Obligations.PushesFillTheirQueues
  refine ⟨fun s t q a imm hready => ?_, fun s b q i ctr clear cmd hi hfirst hroom hrun => ?_⟩
  · intro x at' rec' old hab hbay hen hprod h64 hmem
    have hexec := exec_push hready hab hbay hprod (toNat_add_signExtend x.regs[a] imm) h64 hmem
    have hstate : ((s.turn t).bay t.bay).queueState q = .enabled := (s.turn_queueState t q).trans hen
    refine ⟨fun hroom hrun => ?_, fun hfull => ⟨_, hexec, ?_⟩⟩
    · rw [hexec, State.pushRecord_joins _ hstate (by rwa [State.turn_queue]) (by rwa [State.turn_queue]), State.turn_modThread]
      exact congrArg _ (State.modQueue_congr _ _ _ (by rw [issued_queue]))
    · rw [State.pushRecord_stalls _ hstate (by rwa [State.turn_queue]), State.modThread_thread, State.modThread_queue,
        State.thread, State.countRing_bay, State.turn_queue]
      exact ⟨by rw [← State.thread, State.turn_thread]; rfl, rfl⟩
  · rw [exec_queueSlotFree hi hfirst hroom, State.flushBad_of_running]
    · rfl
    · rw [State.modQueue_self]
      exact (State.modBay_self ..).symm ▸ hrun

end Sys2Proof.Machine

/-! PROOFS. COMMAND_COMPLETE, and the commands that their engine does not run (R77, R90, R91, R141, R219, R437). -/

namespace Sys2Proof.Machine

/-! ## FUNCTION requests where none waits (R90, R93) -/

/-- With no request that waits, starting those that may start changes nothing. -/
theorem State.nextFuncs_of_nil (s : State) (b : BayId) (fence : Bool) (h : (s.bay b).funcWaiting = []) : s.nextFuncs b fence = s := by
  rw [State.nextFuncs, h, State.startFuncs]
  exact s.modBay_eq_self b (by rw [← h])

/-- A bay that drains for no disable and has no request that waits stays as it is. -/
theorem State.settleFuncs_of_quiet (s : State) (b : BayId) (hq : ∀ k, (s.bay b).func k ≠ .quiescing)
    (hw : (s.bay b).funcWaiting = []) : s.settleFuncs b = s := by
  have hfold : [FuncKind.bay, .vector, .fetch, .store].foldl (fun s k =>
      if (s.bay b).func k = .quiescing && (s.bay b).funcIdle k then (s.modBay b fun y => y.setFunc k .disabled).answerActive b k
      else s) s = s := by simp [hq]
  rw [State.settleFuncs, hfold, s.nextFuncs_of_nil b false hw]

/-! ## COMMAND_COMPLETE (R77, R90) -/

theorem exec_commandComplete_idle {s : State} {b : BayId} {q : QueueIx} (hr : ((s.bay b).queue q).running = none)
    (hw : ((s.bay b).queue q).waiting = []) : exec (.commandComplete b q) s = .next (s.settleFuncs b) := by
  show execCommandComplete b q s = _
  simp only [execCommandComplete, hr, State.flushBad_of_nil 64 s b q hw]

theorem exec_commandComplete_running {s : State} {b : BayId} {q : QueueIx} {r : RunningCmd}
    (hr : ((s.bay b).queue q).running = some r) : exec (.commandComplete b q) s =
      .next (if s.canFinish b r.cmd r.status then s.finishRunning b q r else s) := by
  show execCommandComplete b q s = _
  simp only [execCommandComplete, hr]

@[simp] theorem Bay.countDone_queue (y : Bay) (c : CtrIx) (st : Status) (q : QueueIx) : (y.countDone c st).queue q = y.queue q := rfl

/-- With no command that waits, the vector engine keeps nothing of the last one and its clock stops (R22). -/
theorem State.restVector_of_nil {s : State} {b : BayId} (h : ((s.bay b).queue .vector).waiting = []) :
    s.restVector b .vector = s.modBay b fun y => { y with vecOld := [], vecLedger := none, vecPower := .stopped } := by
  have hw : (((s.modBay b fun y => { y with vecOld := [], vecLedger := none }).bay b).queue .vector).waiting = [] := by
    rw [State.modBay_self]
    exact h
  simp only [State.restVector, if_true, hw, List.isEmpty_nil, decide_true, Bool.and_self, State.modBay_modBay]
  rfl

/-- A ROW that releases nothing ends with its status; then the queue, the engine and the functions are looked at. -/
theorem State.finishRunning_row {f : RowFields} (hrel : f.release = 0) (s : State) (b : BayId) (c : CtrIx) :
    s.finishRunning b .vector ⟨c, .row f, .done⟩ = ((State.flushBad 64
      ((s.modQueue b .vector fun x => { x with running := none }).finishCmd b .vector c .done) b .vector).restVector b
      .vector).settleFuncs b := by
  have hfrees : (if statusError .done then [] else s.releasesOf b (.row f)) = [] := by simp [State.releasesOf, hrel]
  unfold State.finishRunning
  dsimp only
  rw [hfrees]
  rfl

/-- Such a ROW, the last command of a quiet bay's VECTOR queue, leaves the engine with its clock stopped. -/
theorem State.finishRunning_lastRow {s : State} {b : BayId} {f : RowFields} (hrel : f.release = 0) (c : CtrIx)
    (hw : ((s.bay b).queue .vector).waiting = []) (hfw : (s.bay b).funcWaiting = [])
    (hq : ∀ k : FuncKind, (s.bay b).func k ≠ .quiescing) :
    s.finishRunning b .vector ⟨c, .row f, .done⟩ =
      ((s.modQueue b .vector fun x => { x with running := none }).finishCmd b .vector c .done).modBay b fun y =>
        { y with vecOld := [], vecLedger := none, vecPower := .stopped } := by
  rw [s.finishRunning_row hrel]
  generalize ht : (s.modQueue b .vector fun x => { x with running := none }).finishCmd b .vector c .done = t
  have hbay : t.bay b = ((s.bay b).modQueue (queueNo .vector) fun x => { x with running := none }).countDone c .done := by
    rw [← ht, State.finishCmd_bay, State.modQueue, State.modBay_self]
  have hqueue : ((t.bay b).queue .vector).waiting = [] := by
    rw [hbay, Bay.countDone_queue, Bay.queue, Bay.modQueue, updAt_self]
    exact hw
  rw [State.flushBad_of_nil _ _ _ _ hqueue, State.restVector_of_nil hqueue, State.settleFuncs_of_quiet]
  · rw [State.modBay_self, hbay]
    exact hq
  · rw [State.modBay_self, hbay]
    exact hfw

/-! ## Commands that are not run (R90, R91, R437) -/

section NotRun

variable {s : State} {h : CmdHead} {q : QueueIx} {cmd : EngineCmd} {ready good fits : Bool} {run : State → State × Status}

/-- A free engine refuses a record with a field or an unused bit that is bad, as it takes it (R437). -/
theorem State.takeCmd_refuses_record (hen : (s.bay h.bay).queueState q = .enabled)
    (hrun : ((s.bay h.bay).queue q).running = none) (hwait : ((s.bay h.bay).queue q).waiting = [])
    (hbad : h.unusedClear = false ∨ good = false) :
    s.takeCmd h q cmd ready good run fits = (s.finishCmd h.bay q h.ctr .badDescriptor (cmdTag cmd)).settleFuncs h.bay := by
  rcases hbad with hbad | hbad <;> simp [State.takeCmd, hen, hrun, hwait, hbad]

/-- A function that is off answers DISABLED and runs nothing (R90, R91). -/
theorem State.takeCmd_off (hoff : (s.bay h.bay).queueState q = .disabled ∨ (s.bay h.bay).queueState q = .aborted) :
    s.takeCmd h q cmd ready good run fits = s.finishCmd h.bay q h.ctr .disabled (cmdTag cmd) := by
  rcases hoff with hoff | hoff <;> simp [State.takeCmd, hoff]

end NotRun

theorem exec_elementwise (c : CmdHead) (f : ElemFields) (s : State) : exec (.elementwise c f) s =
    .next (s.takeCmd c .vector (.elementwise f) true (s.elemGood c.bay.die f) fun s => s.runElementwise c.bay f) := rfl

theorem exec_row (c : CmdHead) (f : RowFields) (s : State) : exec (.row c f) s =
    .next (s.takeCmd c .vector (.row f) true (rowGood f) fun s => s.runRow c.bay f) := rfl

theorem exec_kilnOpen (c : CmdHead) (f : KilnOpenFields) (s : State) : exec (.kilnOpen c f) s =
    .next (s.takeCmd c .kiln (.kilnOpen f) true true fun s =>
      if s.kilnOpenGood c.bay f then (s.openRegion c.bay f, .done) else (s, .badDescriptor)) := rfl

/-- A FETCH_POST is given to its engine, whatever the engine then does with it. -/
theorem exec_fetchPost (c : CmdHead) (k : BitVec 6) (n : BitVec 10) (s : State) : ∃ run : State → State × Status,
    exec (.fetchPost c k n) s = .next (s.takeCmd c .fetch (.fetchPost k n) true true run) := ⟨_, rfl⟩

/-- An OP outside 1 to 0x1F is undefined (R437). -/
theorem State.elemGood_of_undefined (s : State) (d : DieId) {f : ElemFields} (h : f.op = 0 ∨ 0x20 ≤ f.op.toNat) :
    s.elemGood d f = false := by
  have hop : ¬(1 ≤ f.op.toNat ∧ f.op.toNat ≤ 0x1F) := by
    rcases h with h | h
    · simp [h]
    · omega
  unfold State.elemGood
  dsimp only
  split
  · simp [hop]
  · rfl

/-! ## The obligation -/

/-- Settles O17: COMMAND_COMPLETE by what runs (`finishRunning_lastRow` for the last ROW), a refused record by
`takeCmd_refuses_record`, a function that is off by `takeCmd_off`. -/
theorem commandsCompleteOrAreRefused : Obligations.CommandsCompleteOrAreRefused := by
  unfold Obligations.CommandsCompleteOrAreRefused
  refine ⟨fun s b q => ⟨exec_commandComplete_idle, fun r hr => ⟨fun hc => ?_, fun hc => ?_⟩,
      fun r f hr hcmd hst hrel hw hfw hq => ?_⟩,
    fun s c f hen hrun hwait hbad => ?_, fun s c => ⟨fun k n hoff => ?_, fun f hoff => ?_, fun f hoff => ?_⟩⟩
  · rw [exec_commandComplete_running hr, hc, if_neg Bool.false_ne_true]
  · rw [exec_commandComplete_running hr, hc, if_pos rfl]
  · obtain ⟨ctr, cmd, st⟩ := r
    subst hcmd hst
    have hends : s.canFinish b (.row f) .done = true := rfl
    exact (exec_commandComplete_running hr).trans
      (congrArg _ ((if_pos hends).trans (State.finishRunning_lastRow hrel ctr hw hfw hq)))
  · have hbad' : c.unusedClear = false ∨ s.elemGood c.bay.die f = false := by
      rcases hbad with h | h | h
      · exact .inr (s.elemGood_of_undefined _ (.inl h))
      · exact .inr (s.elemGood_of_undefined _ (.inr h))
      · exact .inl h
    rw [exec_elementwise, State.takeCmd_refuses_record hen hrun hwait hbad']
    rfl
  · obtain ⟨run, hexec⟩ := exec_fetchPost c k n s
    rw [hexec, State.takeCmd_off hoff]
    rfl
  · rw [exec_kilnOpen, State.takeCmd_off hoff]
    rfl
  · rw [exec_row, State.takeCmd_off hoff]
    rfl

end Sys2Proof.Machine

/-! PROOFS. The start of a segment: taken, waiting, refused (R81, R92, R100, R125, R143). -/

namespace Sys2Proof.Machine

/-! ## Functions that drain while no request waits (R90, R93) -/

theorem State.foldl_respond_only {α : Type} (l : List α) (tag : α → Word) (s : State) :
    OnlyEvents s (l.foldl (fun s a => s.respond (tag a) .done) s) :=
  List.foldlRecOn l _ (OnlyEvents.refl s) fun _ h _ _ => h.trans (State.respond_only _ _ _ _)

/-- `t` differs from `s` at most in the functions of a bay, in the vectors raised and in the event ring. -/
def OnlyFuncs (b : BayId) (s t : State) : Prop :=
  ∃ (fs : Vector FuncState 4) (active : List (FuncKind × FuncAction × Word)),
    OnlyEvents (s.modBay b fun y => { y with funcs := fs, funcActive := active }) t

theorem OnlyFuncs.refl (b : BayId) (s : State) : OnlyFuncs b s s :=
  ⟨(s.bay b).funcs, (s.bay b).funcActive, by rw [s.modBay_eq_self b rfl]; exact .refl s⟩

theorem OnlyEvents.die {s t : State} (h : OnlyEvents s t) (d : DieId) : t.die d = s.die d := by
  obtain ⟨-, -, -, -, -, -, hdies, -⟩ := h.frame
  simp only [State.die, hdies]

theorem OnlyFuncs.bay {b : BayId} {s t : State} (h : OnlyFuncs b s t) :
    ∃ fs active, t.bay b = { s.bay b with funcs := fs, funcActive := active } := by
  obtain ⟨fs, active, hev⟩ := h
  exact ⟨fs, active, by rw [State.bay, hev.die, ← State.bay, State.modBay_self]⟩

/-- Of the die only its bays differ. -/
theorem OnlyFuncs.die {b : BayId} {s t : State} (h : OnlyFuncs b s t) :
    ∃ bays, t.die b.die = { s.die b.die with bays := bays } := by
  obtain ⟨fs, active, hev⟩ := h
  exact ⟨_, by rw [hev.die, State.modBay, State.modDie_self, RingDie.modBay]⟩

theorem OnlyFuncs.job {b : BayId} {s t : State} (h : OnlyFuncs b s t) : t.job = s.job := by
  obtain ⟨fs, active, hev⟩ := h
  obtain ⟨-, -, -, -, -, -, -, -, -, -, -, -, hjob, -⟩ := hev.frame
  exact hjob

/-- A change of the bay after an event is the event after the change. -/
theorem OnlyEvents.modBay {s t : State} (h : OnlyEvents s t) (b : BayId) (f : Bay → Bay) :
    OnlyEvents (s.modBay b f) (t.modBay b f) := by
  unfold OnlyEvents at *
  rw [h]
  rfl

theorem OnlyFuncs.trans {b : BayId} {s t u : State} (h : OnlyFuncs b s t) (k : OnlyFuncs b t u) : OnlyFuncs b s u := by
  obtain ⟨fs, active, h⟩ := h
  obtain ⟨fs', active', k⟩ := k
  refine ⟨fs', active', ?_⟩
  have hboth := (h.modBay b fun y => { y with funcs := fs', funcActive := active' }).trans k
  rwa [State.modBay_modBay] at hboth

theorem State.answerActive_only (s : State) (b : BayId) (k : FuncKind) : OnlyFuncs b s (s.answerActive b k) := by
  refine ⟨(s.bay b).funcs, (s.bay b).funcActive.filter fun a => a.1 ≠ k, ?_⟩
  rw [s.modBay_congr b (g := fun y => { y with funcActive := y.funcActive.filter fun a => a.1 ≠ k }) rfl]
  exact State.foldl_respond_only _ _ _

theorem State.setFunc_only (s : State) (b : BayId) (k : FuncKind) (v : FuncState) :
    OnlyFuncs b s (s.modBay b fun y => y.setFunc k v) :=
  ⟨(s.bay b).funcs.set (funcNo k) v, (s.bay b).funcActive, by
    rw [s.modBay_congr b (g := fun y => y.setFunc k v) rfl]
    exact .refl _⟩

/-- Where no request waits, only functions that have drained change (R90). -/
theorem State.settleFuncs_only {s : State} {b : BayId} (hw : (s.bay b).funcWaiting = []) : OnlyFuncs b s (s.settleFuncs b) := by
  unfold State.settleFuncs
  dsimp only
  generalize hu : List.foldl _ s _ = u
  have hdrain : OnlyFuncs b s u := by
    rw [← hu]
    exact List.foldlRecOn _ _ (.refl b s) fun t h k _ =>
      ite_both ((h.trans (t.setFunc_only b k .disabled)).trans (State.answerActive_only _ b k)) h
  obtain ⟨fs, active, hbay⟩ := hdrain.bay
  rwa [u.nextFuncs_of_nil b false (by rw [hbay]; exact hw)]

/-! ## A start command at the head of its queue (R81) -/

theorem State.startAt_congr {s t : State} {b : BayId} (n : Nat) (h : t.bay b = s.bay b) : t.startAt b n = s.startAt b n := by
  simp only [State.startAt, h]

/-- The start command of a segment heads the RING queue of an engine that runs nothing. -/
theorem State.startAt_eq_some {s : State} {b : BayId} {n : Nat} {c : QueuedCmd} (h : s.startAt b n = some c) :
    c.cmd = .segmentStart n ∧ ((s.bay b).queue .ring).running = none := by
  unfold State.startAt at h
  dsimp only at h
  split at h
  · next hr hw =>
    split at h
    · next hc => exact ⟨Option.some.inj h ▸ hc, hr⟩
    · cases h
  · cases h

/-- The queue of an engine that has taken the start command of a segment. -/
def EngineQueue.started (x : EngineQueue) (c : CtrIx) (n : Nat) : EngineQueue :=
  { x with waiting := x.waiting.drop 1, running := some ⟨c, .segmentStart n, .done⟩ }

theorem State.takeStart_of_none {s : State} {b : BayId} {n : Nat} (h : s.startAt b n = none) : s.takeStart b n = s := by
  simp only [State.takeStart, h]

theorem State.takeStart_of_some {s : State} {b : BayId} {n : Nat} {c : QueuedCmd} (h : s.startAt b n = some c) :
    s.takeStart b n = s.modQueue b .ring fun x => x.started c.ctr n := by
  obtain ⟨hcmd, -⟩ := State.startAt_eq_some h
  simp only [State.takeStart, h, hcmd, EngineQueue.started]

/-- An engine that runs a command has no start command at the head of its queue. -/
theorem State.startAt_of_running {s : State} {b : BayId} (n : Nat) {r : RunningCmd}
    (h : ((s.bay b).queue .ring).running = some r) : s.startAt b n = none := by
  simp only [State.startAt, h]

theorem State.takeStart_die (s : State) (b : BayId) (n : Nat) :
    ∃ bays, (s.takeStart b n).die b.die = { s.die b.die with bays := bays } := by
  cases h : s.startAt b n with
  | none => exact ⟨_, by rw [State.takeStart_of_none h]⟩
  | some c => exact ⟨_, by rw [State.takeStart_of_some h, State.modQueue, State.modBay, State.modDie_self, RingDie.modBay]⟩

theorem State.takeStart_bay_ne (s : State) {b k : BayId} (n : Nat) (h : b ≠ k) : (s.takeStart b n).bay k = s.bay k := by
  cases hs : s.startAt b n with
  | none => rw [State.takeStart_of_none hs]
  | some c => rw [State.takeStart_of_some hs, State.modQueue, State.modBay_ne _ _ _ _ h]

/-- The start commands of the named bays, taken by their engines. -/
def State.takeStarts (s : State) (d : DieId) (n : Nat) (bays : List BayIx) : State :=
  bays.foldl (fun s b => s.takeStart ⟨d, b⟩ n) s

theorem State.takeStarts_die (s : State) (d : DieId) (n : Nat) (l : List BayIx) :
    ∃ bays, (s.takeStarts d n l).die d = { s.die d with bays := bays } := by
  refine List.foldlRecOn (motive := fun t : State => ∃ bays, t.die d = { s.die d with bays := bays }) l _ ⟨_, rfl⟩
    fun t h b _ => ?_
  obtain ⟨bays, h⟩ := h
  obtain ⟨bays', h'⟩ := t.takeStart_die ⟨d, b⟩ n
  exact ⟨bays', h'.trans (by rw [h])⟩

/-- A bay without the start command at its queue's head stays as it is. -/
theorem State.takeStarts_of_none {s : State} {d : DieId} {n : Nat} {b : BayIx} (l : List BayIx)
    (h : s.startAt ⟨d, b⟩ n = none) : (s.takeStarts d n l).bay ⟨d, b⟩ = s.bay ⟨d, b⟩ := by
  refine List.foldlRecOn (motive := fun t : State => t.bay ⟨d, b⟩ = s.bay ⟨d, b⟩) l _ rfl fun t ht k _ => ?_
  by_cases hk : k = b
  · rw [hk, State.takeStart_of_none ((State.startAt_congr n ht).trans h), ht]
  · rw [t.takeStart_bay_ne n (by simpa using hk), ht]

/-- Every named bay whose queue the start command heads has taken it, once. -/
theorem State.takeStarts_queue {s : State} {d : DieId} {n : Nat} {b : BayIx} {c : QueuedCmd} {l : List BayIx} (hb : b ∈ l)
    (h : s.startAt ⟨d, b⟩ n = some c) :
    ((s.takeStarts d n l).bay ⟨d, b⟩).queue .ring = ((s.bay ⟨d, b⟩).queue .ring).started c.ctr n := by
  induction l generalizing s with
  | nil => cases hb
  | cons k rest ih =>
    show ((State.takeStarts (s.takeStart ⟨d, k⟩ n) d n rest).bay ⟨d, b⟩).queue .ring = _
    by_cases hk : k = b
    · subst hk
      have htaken : ((s.takeStart ⟨d, k⟩ n).bay ⟨d, k⟩).queue .ring = ((s.bay ⟨d, k⟩).queue .ring).started c.ctr n := by
        rw [State.takeStart_of_some h, State.modQueue_self]
      have hnone : (s.takeStart ⟨d, k⟩ n).startAt ⟨d, k⟩ n = none :=
        State.startAt_of_running (r := ⟨c.ctr, .segmentStart n, .done⟩) n (by rw [htaken]; rfl)
      rw [State.takeStarts_of_none rest hnone, htaken]
    · have hbay := s.takeStart_bay_ne (b := ⟨d, k⟩) (k := ⟨d, b⟩) n (by simpa using hk)
      have hrest : b ∈ rest := by simpa [Ne.symm hk] using hb
      rw [ih hrest ((State.startAt_congr n hbay).trans h), hbay]

/-! ## Buffers that a segment reads are its own (R140) -/

/-- A stream changed: of its die only the bays differ, and no queue of theirs. -/
def OnlyStreams (d : DieId) (s t : State) : Prop :=
  (∃ bays, t.die d = { s.die d with bays := bays }) ∧
    ∀ (b : BayIx) (q : QueueIx), (t.bay ⟨d, b⟩).queue q = (s.bay ⟨d, b⟩).queue q

theorem OnlyStreams.trans {d : DieId} {s t u : State} (h : OnlyStreams d s t) (k : OnlyStreams d t u) : OnlyStreams d s u := by
  obtain ⟨⟨_, hdie⟩, hqueue⟩ := h
  obtain ⟨⟨bays, kdie⟩, kqueue⟩ := k
  exact ⟨⟨bays, by rw [kdie, hdie]⟩, fun b q => (kqueue b q).trans (hqueue b q)⟩

theorem State.modStream_onlyStreams (s : State) (b : BayId) (k : SlotIx) (f : Stream → Stream) :
    OnlyStreams b.die s (s.modStream b k f) := by
  refine ⟨⟨_, by rw [State.modStream, State.modBay, State.modDie_self, RingDie.modBay]⟩, fun c q => ?_⟩
  by_cases h : b = ⟨b.die, c⟩
  · rw [← h, State.modStream, State.modBay_self]
    rfl
  · rw [State.modStream, State.modBay_ne _ _ _ _ h]

theorem State.useReads_onlyStreams (s : State) (d : DieId) (g : SwitchSegment) : OnlyStreams d s (s.useReads d g) :=
  List.foldlRecOn _ _ ⟨⟨_, rfl⟩, fun _ _ => rfl⟩ fun t h x _ =>
    h.trans (t.modStream_onlyStreams ⟨d, ((t.die d).physStream x.1).1⟩ _ _)

/-! ## What the next segment does (R81, R92, R125, R143) -/

/-- The state in which the next segment has started. -/
def State.beginStarted (s : State) (d : DieId) (n : Nat) (g : SwitchSegment) : State :=
  ((s.takeStarts d n g.bays).useReads d g).modDie d fun r => r.beginSegment g.bays g.mask g.quarter g.slots

/-- With the start command at the head of every named bay's queue the segment is refused, starts, or waits. -/
theorem State.startSegment_of_starts {s : State} {d : DieId} {n : Nat} {g : SwitchSegment} (hseg : (s.die d).segment = none)
    (hprog : (s.die d).nextProgram = some (n, g)) (hhere : ∀ b ∈ g.bays, (s.startAt ⟨d, b⟩ n).isSome = true) :
    s.startSegment d =
      if g.bays.any fun b => (s.bay ⟨d, b⟩).gone then s.refuseSegment d n g.bays .disabled
      else if g.completions.any fun c => s.arrived d c && s.arrivedCancelled d c then s.refuseSegment d n g.bays .cancelled
      else if (g.completions.all fun c => s.arrived d c) && s.readsFilled d g &&
          ((s.die d).train.isEmpty || (s.die d).quarter == g.quarter) then s.beginStarted d n g
      else s.startWaits d n g.bays := by
  have hall : (g.bays.all fun b => (s.bay ⟨d, b⟩).gone || s.startLost ⟨d, b⟩ n || (s.startAt ⟨d, b⟩ n).isSome) = true := by
    simp only [List.all_eq_true]
    exact fun b hb => by rw [hhere b hb, Bool.or_true]
  have hlost : (g.bays.any fun b => s.startLost ⟨d, b⟩ n) = false := by
    simp only [List.any_eq_false, State.startLost, Bool.and_eq_true, not_and]
    exact fun b hb _ => by simp [Option.isSome_iff_ne_none.mp (hhere b hb)]
  simp only [State.startSegment, hseg, hprog, hall, hlost]
  rfl

/-- No bay is off: the segment is not refused with DISABLED. -/
theorem any_gone_eq_false {s : State} {d : DieId} {l : List BayIx} (h : ∀ b ∈ l, (s.bay ⟨d, b⟩).gone = false) :
    (l.any fun b => (s.bay ⟨d, b⟩).gone) = false := by
  simpa only [List.any_eq_false, Bool.not_eq_true] using h

section BeginSegment

variable (r : RingDie) (bays : List BayIx) (claimed : BitVec 16) (quarter : Bool) (slots : List SwitchSlot)

@[simp] theorem RingDie.beginSegment_segment : (r.beginSegment bays claimed quarter slots).segment =
    some ⟨bays, claimed, r.nextSegment, 0, quarter, slots⟩ := rfl
@[simp] theorem RingDie.beginSegment_nextSegment :
    (r.beginSegment bays claimed quarter slots).nextSegment = (r.nextSegment + 1) % 65536 := rfl
@[simp] theorem RingDie.beginSegment_loft : (r.beginSegment bays claimed quarter slots).loft = r.loft := by
  rw [RingDie.beginSegment, RingDie.claimBents]
@[simp] theorem RingDie.beginSegment_bays : (r.beginSegment bays claimed quarter slots).bays = r.bays := by
  rw [RingDie.beginSegment, RingDie.claimBents]

end BeginSegment

/-- A segment that has started is in progress under its number, and its start commands run (R81, R100). -/
theorem State.beginStarted_die (s : State) (d : DieId) (n : Nat) (g : SwitchSegment) :
    ((s.beginStarted d n g).die d).segment = some ⟨g.bays, g.mask, (s.die d).nextSegment, 0, g.quarter, g.slots⟩ ∧
      ((s.beginStarted d n g).die d).nextSegment = ((s.die d).nextSegment + 1) % 65536 ∧
      ((s.beginStarted d n g).die d).loft = (s.die d).loft := by
  obtain ⟨_, htaken⟩ := s.takeStarts_die d n g.bays
  obtain ⟨⟨bays, hdie⟩, -⟩ := (s.takeStarts d n g.bays).useReads_onlyStreams d g
  rw [State.beginStarted, State.modDie_self]
  simp only [RingDie.beginSegment_segment, RingDie.beginSegment_nextSegment, RingDie.beginSegment_loft, hdie, htaken, and_self]

theorem State.beginStarted_queue {s : State} {d : DieId} {n : Nat} {g : SwitchSegment} {b : BayIx} {c : QueuedCmd}
    (hb : b ∈ g.bays) (h : s.startAt ⟨d, b⟩ n = some c) :
    ((s.beginStarted d n g).bay ⟨d, b⟩).queue .ring = ((s.bay ⟨d, b⟩).queue .ring).started c.ctr n := by
  obtain ⟨-, hqueue⟩ := (s.takeStarts d n g.bays).useReads_onlyStreams d g
  rw [← State.takeStarts_queue hb h, ← hqueue b .ring, State.beginStarted, State.bay, State.modDie_self, RingDie.beginSegment_bays,
    State.bay]

/-- While a segment waits, nothing but counters of its die changes (R96). -/
theorem State.startWaits_counted (s : State) (d : DieId) (n : Nat) (l : List BayIx) :
    (s.startWaits d n l).job = s.job ∧ (s.die d).Counted ((s.startWaits d n l).die d) := by
  refine List.foldlRecOn (motive := fun t : State => t.job = s.job ∧ (s.die d).Counted (t.die d)) l _ ⟨rfl, _, rfl⟩
    fun t h b _ => ?_
  obtain ⟨hjob, hdie⟩ := h
  split
  · exact ⟨hjob, by rw [State.countRing_die_self]; exact hdie.count _ _⟩
  · exact ⟨hjob, hdie⟩

/-! ## A segment that is refused (R92, R94) -/

/-- A command answered DISABLED while a step runs sets REPLAY (R94). -/
theorem State.finishCmd_disabled_replay {s : State} (b : BayId) (q : QueueIx) (c : CtrIx) (tag : Word)
    (hk : s.kp.state = .running) (hp : s.job.phase = .running) :
    (s.finishCmd b q c .disabled tag).job.own.replay = true := by
  have hset : ((((s.modBay b fun y => y.countDone c .disabled).countRing b.die 0x39)).setReplay).job.own.replay = true := by
    have hk' : ((s.modBay b fun y => y.countDone c .disabled).countRing b.die 0x39).kp.state = .running := hk
    rw [State.setReplay_of_running hk' hp]
    exact Bits.merge_replay _
  have hreport (r : Report) :
      (((s.modBay b fun y => y.countDone c .disabled).countRing b.die 0x39).setReplay.report r).job.own.replay = true := by
    rwa [State.report_job]
  exact ite_both (P := fun t : State => t.job.own.replay = true) (hreport _) hset

/-- The start command of a segment in a bay that is off ends as DISABLED, which changes counters, functions, records and
verdict bits alone. -/
theorem State.endStart_disabled {s : State} {b : BayId} {n : Nat} {c : QueuedCmd} (h : s.startAt b n = some c)
    (hw : (s.bay b).funcWaiting = []) (hk : s.kp.state = .running) (hp : s.job.phase = .running) :
    (s.endStart b n .disabled).job.own.replay = true ∧
      (∃ bays counters, (s.endStart b n .disabled).die b.die = { s.die b.die with bays := bays, counters := counters }) ∧
      (((s.endStart b n .disabled).bay b).queue .ring).waiting = ((s.bay b).queue .ring).waiting.tail := by
  have hend : s.endStart b n .disabled =
      ((s.modQueue b .ring fun x => { x with waiting := x.waiting.drop 1 }).finishCmd b .ring c.ctr .disabled).settleFuncs b := by
    simp only [State.endStart, h]
  rw [hend]
  generalize hu : (s.modQueue b .ring fun x => { x with waiting := x.waiting.drop 1 }).finishCmd b .ring c.ctr .disabled = u
  have hbay : u.bay b =
      ((s.bay b).modQueue (queueNo .ring) fun x => { x with waiting := x.waiting.drop 1 }).countDone c.ctr .disabled := by
    rw [← hu, State.finishCmd_bay, State.modQueue, State.modBay_self]
  have hfuncs : OnlyFuncs b u (u.settleFuncs b) := State.settleFuncs_only (by rw [hbay]; exact hw)
  refine ⟨?_, ?_, ?_⟩
  · rw [hfuncs.job, ← hu]
    exact State.finishCmd_disabled_replay b .ring c.ctr 0 hk hp
  · obtain ⟨bays, hdie⟩ := hfuncs.die
    obtain ⟨counters, hdone⟩ :=
      (s.modQueue b .ring fun x => { x with waiting := x.waiting.drop 1 }).finishCmd_die b .ring c.ctr .disabled 0
    rw [hu] at hdone
    refine ⟨bays, counters, ?_⟩
    rw [hdie, hdone, State.modQueue, State.modBay, State.modDie_self, RingDie.modBay, RingDie.modBay]
  · obtain ⟨fs, active, hset⟩ := hfuncs.bay
    rw [hset, hbay, ← List.drop_one]
    show ((((s.bay b).modQueue (queueNo .ring) fun x => { x with waiting := x.waiting.drop 1 }).queue .ring).waiting) = _
    rw [Bay.queue, Bay.modQueue, updAt_self]
    rfl

end Sys2Proof.Machine

/-! PROOFS. The slots of a segment, held or issued whole, and its end (R55, R66, R79 to R82, R100). -/

namespace Sys2Proof.Machine

/-! ## What an operation keeps of every die -/

/-- No die differs in `π`. -/
def State.Keeps {α : Type} (π : RingDie → α) (s t : State) : Prop := ∀ d : DieId, π (t.die d) = π (s.die d)

theorem State.Keeps.refl {α : Type} (π : RingDie → α) (s : State) : s.Keeps π s := fun _ => rfl

theorem State.Keeps.trans {α : Type} {π : RingDie → α} {s t u : State} (h : s.Keeps π t) (k : t.Keeps π u) : s.Keeps π u :=
  fun d => (k d).trans (h d)

/-- A change of a die that leaves `π` of it. -/
theorem State.modDie_keeps {α : Type} {π : RingDie → α} (s : State) (d : DieId) {f : RingDie → RingDie}
    (h : π (f (s.die d)) = π (s.die d)) : s.Keeps π (s.modDie d f) := by
  intro e
  by_cases he : d = e
  · rw [← he, State.modDie_self, h]
  · rw [State.modDie_ne _ _ _ _ he]

theorem State.countRing_keeps {α : Type} {π : RingDie → α} (hπ : ∀ r n, π { r with counters := n } = π r) (s : State)
    (d : DieId) (i n : Nat) : s.Keeps π (s.countRing d i n) := s.modDie_keeps d (hπ _ _)

/-- What the ring of a die holds beside its counters: the segment in progress, the bents and the train. -/
def RingDie.ring (r : RingDie) : Option Segment × Vector Bent 16 × List TrainBeat := (r.segment, r.bents, r.train)

theorem RingDie.ring_counters (r : RingDie) (n : Sparse Word) : { r with counters := n }.ring = r.ring := rfl

/-- What the memories of a die hold. -/
def RingDie.memory (r : RingDie) : Memory × Vector Memory 4 := (r.loft, r.bays.map Bay.dmem)

/-- The segment in progress, the train and the loft of a die. -/
def RingDie.path (r : RingDie) : Option Segment × List TrainBeat × Memory := (r.segment, r.train, r.loft)

/-! ## The cycle of a slot (R82, R88) -/

theorem RingDie.countCycle_counted (r : RingDie) (x : SlotCycle) : r.Counted (r.countCycle x) := by
  have count (l : List (Fin 17)) (base : Nat) {q : RingDie} (h : r.Counted q) :
      r.Counted (l.foldl (fun r d => r.count (base + d.val)) q) :=
    List.foldlRecOn l _ h fun _ hp _ _ => hp.count _ _
  exact count _ _ (count _ _ (count _ _ ⟨_, rfl⟩))

theorem RingDie.count_segment (r : RingDie) (i n : Nat) : (r.count i n).segment = r.segment := rfl

theorem RingDie.moveOutside_segment (r : RingDie) (offerIn offerOut : List (Fin 4 × Nat)) (held : List (Fin 4)) :
    (r.moveOutside offerIn offerOut held).segment = r.segment := by
  have hmoved (l : List (Fin 4)) (n : Fin 4 → Nat) :
      (l.foldl (fun r i => r.count (0x29 + i.val) (n i)) r).segment = r.segment :=
    List.foldlRecOn (motive := fun q : RingDie => q.segment = r.segment) l _ rfl fun _ h _ _ => h
  unfold RingDie.moveOutside
  dsimp only
  rw [RingDie.count_segment, RingDie.count_segment, hmoved]

theorem RingDie.holdCycle_segment (r : RingDie) (offerIn offerOut : List (Fin 4 × Nat)) (causes : List HoldCause) :
    (r.holdCycle offerIn offerOut causes).segment = r.segment := by
  refine List.foldlRecOn (motive := fun q : RingDie => q.segment = r.segment) _ _ (r.moveOutside_segment _ _ _)
    fun q h cause _ => ?_
  cases cause <;> exact h

/-! ## A slot that is held (R82) -/

theorem RingDie.nextSlot_of {r : RingDie} {g : Segment} {x : SwitchSlot} (hg : r.segment = some g)
    (hx : g.slots[g.issued]? = some x) : r.nextSlot = some (g, x) := by
  simp only [RingDie.nextSlot, hg, Option.bind_some, hx, Option.map_some]

/-- The causes of holding do not depend on counters. -/
theorem State.slotHolds_congr {s t : State} {d : DieId} (hd : (s.die d).Counted (t.die d))
    (hrouters : ∀ e, (t.die e).routers = (s.die e).routers) (hstream : ∀ b k, t.stream b k = s.stream b k) (quarter : Bool)
    (x : SwitchSlot) : t.slotHolds d quarter x = s.slotHolds d quarter x := by
  obtain ⟨n, hn⟩ := hd
  have hinbox (i : Fin 4) : t.farInbox d i = s.farInbox d i := by simp only [State.farInbox, hrouters]
  have htake (c : ClaimedBeat) : t.storeTake d c = s.storeTake d c := by
    simp only [State.storeTake, hstream, hn]
    rfl
  have hlacks : t.storeLacks d x = s.storeLacks d x := by
    simp only [State.storeLacks, htake, hstream, hn]
    rfl
  simp only [State.slotHolds, hinbox, hlacks, hn]
  rfl

/-- The state in which a cycle's clock events are counted. -/
def State.cycled (s : State) (d : DieId) (cycle : SlotCycle) : State := s.modDie d fun r => r.countCycle cycle

theorem State.cycled_counted (s : State) (d : DieId) (cycle : SlotCycle) : (s.die d).Counted ((s.cycled d cycle).die d) := by
  rw [State.cycled, State.modDie_self]
  exact RingDie.countCycle_counted _ _

theorem State.cycled_keeps {α : Type} {π : RingDie → α} (hπ : ∀ r n, π { r with counters := n } = π r) (s : State) (d : DieId)
    (cycle : SlotCycle) : s.Keeps π (s.cycled d cycle) := by
  refine s.modDie_keeps d ?_
  obtain ⟨n, hn⟩ := (s.die d).countCycle_counted cycle
  rw [hn, hπ]

theorem State.cycled_slotHolds (s : State) (d : DieId) (cycle : SlotCycle) (quarter : Bool) (x : SwitchSlot) :
    (s.cycled d cycle).slotHolds d quarter x = s.slotHolds d quarter x := by
  have hbays := s.cycled_keeps (π := RingDie.bays) (fun _ _ => rfl) d cycle
  refine State.slotHolds_congr (s.cycled_counted d cycle) (s.cycled_keeps (fun _ _ => rfl) d cycle) (fun b k => ?_) quarter x
  simp only [State.stream, State.bay, hbays b.die]

/-- The state in which a slot is held (R82). -/
def State.slotHeld (s : State) (d : DieId) (g : Segment) (x : SwitchSlot) (cycle : SlotCycle) : State :=
  ((s.cycled d cycle).storeLacks d x).foldl (fun s y => s.modStream y.1 y.2.1 fun t => t.lack y.2.2 1) (s.cycled d cycle)
    |>.modDie d fun r => r.holdCycle x.offerIn x.offerOut (s.slotHolds d g.quarter x)

theorem exec_slotIssue_holds {s : State} {d : DieId} {g : Segment} {x : SwitchSlot} (cycle : SlotCycle)
    (hg : (s.die d).segment = some g) (hx : g.slots[g.issued]? = some x) (hh : s.slotHolds d g.quarter x ≠ []) :
    exec (.slotIssue d cycle) s = .next (s.slotHeld d g x cycle) := by
  have hh' := s.cycled_slotHolds d cycle g.quarter x
  rw [State.cycled] at hh'
  show execSlotIssue d cycle s = _
  simp only [execSlotIssue, RingDie.nextSlot_of hg hx, hh', hh, ne_eq, not_false_eq_true, if_true]
  rfl

theorem State.modStream_keeps_ring (s : State) (b : BayId) (k : SlotIx) (f : Stream → Stream) :
    s.Keeps RingDie.ring (s.modStream b k f) := s.modDie_keeps _ rfl

/-- What an element changed does not say of it is the same for the vector. -/
theorem map_updAt {α β : Type} {n : Nat} (v : Vector α n) (i : Fin n) {f : α → α} {g : α → β} (h : g (f v[i]) = g v[i]) :
    (updAt v i f).map g = v.map g := by
  have hi : g (f v[i]) = (v.map g)[i] := by rw [h, Fin.getElem_fin, Fin.getElem_fin, Vector.getElem_map]
  rw [updAt, Vector.map_set, hi]
  exact Vector.set_getElem_self _

theorem State.modStream_keeps_memory (s : State) (b : BayId) (k : SlotIx) (f : Stream → Stream) :
    s.Keeps RingDie.memory (s.modStream b k f) := by
  refine s.modDie_keeps _ ?_
  rw [RingDie.memory, RingDie.modBay, map_updAt _ _ rfl]
  rfl

/-- A slot that is held moves nothing of the rings and the memories. -/
theorem State.slotHeld_keeps {α : Type} {π : RingDie → α} (hπ : ∀ r n, π { r with counters := n } = π r)
    (hstream : ∀ (s : State) b k f, s.Keeps π (s.modStream b k f))
    (hhold : ∀ r i o c, π (RingDie.holdCycle r i o c) = π r) (s : State) (d : DieId) (g : Segment) (x : SwitchSlot)
    (cycle : SlotCycle) : s.Keeps π (s.slotHeld d g x cycle) := by
  have hlack : s.Keeps π (((s.cycled d cycle).storeLacks d x).foldl
      (fun s y => s.modStream y.1 y.2.1 fun t => t.lack y.2.2 1) (s.cycled d cycle)) :=
    List.foldlRecOn _ _ (s.cycled_keeps hπ d cycle) fun t h y _ => h.trans (hstream t _ _ _)
  exact hlack.trans (State.modDie_keeps _ d (hhold ..))

theorem RingDie.OnlyCycles.frame {r q : RingDie} (h : r.OnlyCycles q) :
    q.bents = r.bents ∧ q.train = r.train ∧ q.loft = r.loft ∧ q.bays = r.bays ∧ q.bentOn = r.bentOn := by
  unfold RingDie.OnlyCycles at h
  rw [h]
  exact ⟨rfl, rfl, rfl, rfl, rfl⟩

theorem RingDie.holdCycle_ring (r : RingDie) (i o : List (Fin 4 × Nat)) (causes : List HoldCause) :
    (r.holdCycle i o causes).ring = r.ring := by
  obtain ⟨hbents, htrain, -⟩ := (r.holdCycle_cycles i o causes).frame
  rw [RingDie.ring, hbents, htrain, r.holdCycle_segment]
  rfl

theorem RingDie.holdCycle_memory (r : RingDie) (i o : List (Fin 4 × Nat)) (causes : List HoldCause) :
    (r.holdCycle i o causes).memory = r.memory := by
  obtain ⟨-, -, hloft, hbays, -⟩ := (r.holdCycle_cycles i o causes).frame
  rw [RingDie.memory, hloft, hbays]
  rfl

/-! ## A slot that issues (R80, R82) -/

/-- The state in which a slot has issued, before its beats and acts. -/
def State.slotIssued (s : State) (d : DieId) (g : Segment) (x : SwitchSlot) (cycle : SlotCycle) : State :=
  (s.cycled d cycle).modDie d fun r =>
    let r := if r.fillSlot g.quarter x.acts then r.count 0x11 else r
    { (r.issueCycle x.offerIn x.offerOut (claimedRouters x)) with segment := some { g with issued := g.issued + 1 } }

theorem exec_slotIssue_issues {s : State} {d : DieId} {g : Segment} {x : SwitchSlot} {cycle : SlotCycle}
    (hg : (s.die d).segment = some g) (hx : g.slots[g.issued]? = some x) (hh : s.slotHolds d g.quarter x = [])
    (hc : cycle.corrected = []) :
    exec (.slotIssue d cycle) s = .next (x.acts.foldl (fun s a => s.runAct d g.quarter a)
      (x.claimed.foldl (fun s b => s.moveBeat d b) (s.slotIssued d g x cycle))) := by
  have hh' := s.cycled_slotHolds d cycle g.quarter x
  rw [State.cycled] at hh'
  show execSlotIssue d cycle s = _
  simp only [execSlotIssue, RingDie.nextSlot_of hg hx, hh', hh, hc, ne_eq, not_true_eq_false, if_false, List.foldl_nil]
  rfl

theorem RingDie.OnlyCycles.withSegment {r q : RingDie} (h : r.OnlyCycles q) (g : Option Segment) :
    r.OnlyCycles { q with segment := g } := h.trans rfl

/-- A slot that has issued is counted, and the one after it is next. -/
theorem State.slotIssued_die (s : State) (d : DieId) (g : Segment) (x : SwitchSlot) (cycle : SlotCycle) :
    (s.die d).OnlyCycles ((s.slotIssued d g x cycle).die d) ∧
      ((s.slotIssued d g x cycle).die d).segment = some { g with issued := g.issued + 1 } := by
  have hcycled : (s.die d).OnlyCycles ((s.cycled d cycle).die d) := by
    obtain ⟨n, hn⟩ := s.cycled_counted d cycle
    rw [hn]
    rfl
  rw [State.slotIssued, State.modDie_self]
  refine ⟨?_, rfl⟩
  have hfill := ite_both (c := ((s.cycled d cycle).die d).fillSlot g.quarter x.acts = true) (hcycled.count 0x11 1) hcycled
  exact (hfill.trans (RingDie.issueCycle_cycles _ x.offerIn x.offerOut (claimedRouters x))).withSegment _

/-! ## Claimed beats (R79, R80) -/

theorem State.takeBuffer_keeps_ring {s t : State} {b : BayId} {k : SlotIx} {scale : Bool} {n : Nat}
    (h : s.takeBuffer b k scale n = some t) : s.Keeps RingDie.ring t := by
  obtain ⟨-, h⟩ := Option.ite_none_right_eq_some.mp h
  rw [← Option.some.inj h]
  have hlow (r : RingDie) : r.noteLow.ring = r.ring := by
    unfold RingDie.noteLow
    split
    · exact RingDie.ring_counters r _
    · rfl
  exact (State.modStream_keeps_ring (State.takeFree s).2 b k _).trans (State.modDie_keeps _ _ (hlow _))

theorem State.modRouter_keeps_ring (s : State) (d : DieId) (i : Fin 4) (f : Router → Router) :
    s.Keeps RingDie.ring (s.modRouter d i f) := s.modDie_keeps _ rfl

theorem State.fillStore_keeps_ring (s : State) (d : DieId) (p : SlicePlace) (n : Nat) :
    s.Keeps RingDie.ring (s.fillStore d p n) := by
  unfold State.fillStore
  split
  · exact ite_both (State.modStream_keeps_ring _ _ _ _) (.refl _ _)
  · exact .refl _ _

/-- The buffer that a beat takes of a STORE stream moves no segment, no bent and no train. -/
theorem State.takeForBeat_keeps_ring (s : State) (o : Option (BayId × SlotIx)) :
    s.Keeps RingDie.ring (o.elim s fun y => (s.takeBuffer y.1 y.2 false 0).getD s) := by
  cases o with
  | none => exact .refl _ _
  | some y =>
    rw [Option.elim_some]
    cases h : s.takeBuffer y.1 y.2 false 0 with
    | none => exact .refl _ _
    | some t => exact State.takeBuffer_keeps_ring h

/-- A beat leaves its producer (R79). -/
def State.popBeat (s : State) (d : DieId) : BeatEnd → State
  | .router i => s.modRouter d i fun y => { y with inbox := y.inbox.drop 1 }
  | _ => s

/-- A beat arrives at its consumer (R79). -/
def State.putBeat (s : State) (d : DieId) (bytes : List Byte) : BeatEnd → State
  | .slice _ p => (s.placeAt d p).elim s fun o => (s.writeLoft d o bytes).fillStore d p bytes.length
  | .bay b (some o) => s.modBay ⟨d, b⟩ fun y => { y with dmem := y.dmem.write o bytes }
  | .bay _ none => s
  | .router i =>
    match acrossRouter d i with
    | some n => s.modRouter n (facing i) fun y => { y with inbox := y.inbox ++ [bytes] }
    | none => s

theorem State.moveBeat_eq (s : State) (d : DieId) (x : ClaimedBeat) : s.moveBeat d x =
    (((s.storeTake d x).elim s fun y => (s.takeBuffer y.1 y.2 false 0).getD s).popBeat d x.src).putBeat d (s.beatSource d x)
      x.dst := by
  obtain ⟨src, dst, n⟩ := x
  rcases dst with ⟨i, p⟩ | ⟨b, _ | o⟩ | i <;> rfl

theorem State.popBeat_keeps_ring (s : State) (d : DieId) (src : BeatEnd) : s.Keeps RingDie.ring (s.popBeat d src) := by
  cases src with
  | router i => exact s.modRouter_keeps_ring d i _
  | slice i p => exact .refl _ _
  | bay b o => exact .refl _ _

theorem State.putBeat_keeps_ring (s : State) (d : DieId) (bytes : List Byte) (dst : BeatEnd) :
    s.Keeps RingDie.ring (s.putBeat d bytes dst) := by
  rcases dst with ⟨i, p⟩ | ⟨b, _ | o⟩ | i
  · rw [State.putBeat]
    cases s.placeAt d p with
    | none => exact .refl _ _
    | some o => exact (s.modDie_keeps (π := RingDie.ring) d rfl).trans (State.fillStore_keeps_ring _ _ _ _)
  · exact .refl _ _
  · exact s.modDie_keeps _ rfl
  · rw [State.putBeat]
    split
    · exact s.modRouter_keeps_ring _ _ _
    · exact .refl _ _

/-- A claimed beat moves no segment, no bent and no train. -/
theorem State.moveBeat_keeps_ring (s : State) (d : DieId) (x : ClaimedBeat) : s.Keeps RingDie.ring (s.moveBeat d x) := by
  rw [State.moveBeat_eq]
  exact ((s.takeForBeat_keeps_ring _).trans (State.popBeat_keeps_ring _ d x.src)).trans (State.putBeat_keeps_ring _ d _ x.dst)

/-- A beat from loft to loft writes the bytes that stood at its source. -/
theorem State.moveBeat_loft (s : State) (d : DieId) (i k : Fin 16) (a b n : Nat) :
    s.moveBeat d ⟨.slice i (.offset a), .slice k (.offset b), n⟩ = s.writeLoft d b ((s.die d).loft.read a (min n 1024)) := rfl

/-! ## Acts of the ring schedule (R55, R66) -/

/-- Entries of a product with K = 0 hold +0, and every other entry stays (R66). -/
theorem Bent.zeroEntries_entryAt (x : Bent) (first count e : Nat) {lane : Nat} (h : lane < 256) :
    (x.zeroEntries first count).entryAt e lane = if first ≤ e ∧ e < first + count then 0 else x.entryAt e lane := by
  have hin : first * 256 ≤ e * 256 + lane ∧ e * 256 + lane < first * 256 + 256 * count ↔ first ≤ e ∧ e < first + count := by
    omega
  simp only [Bent.zeroEntries, Bent.entryAt, Sparse.get_setRange, List.length_replicate, hin]
  split
  · exact List.getD_replicate _ (by omega)
  · rfl

/-- A row used at a bent leaves the segment, the train and the loft. -/
theorem State.useBeat_keeps_path (s : State) (d : DieId) (x : TrainBeat) : s.Keeps RingDie.path (s.useBeat d x) := by
  have modBent (t : State) (f : Bent → Bent) : t.Keeps RingDie.path (t.modBent d x.station f) := t.modDie_keeps _ rfl
  have hswap : s.Keeps RingDie.path (if x.swap then s.modBent d x.station Bent.swap else s) :=
    ite_both (modBent _ _) (.refl _ _)
  unfold State.useBeat
  dsimp only
  generalize (if x.swap = true then s.modBent d x.station Bent.swap else s) = u at hswap ⊢
  split
  · exact (hswap.trans (modBent u _)).trans (State.countRing_keeps (fun _ _ => rfl) _ _ _ _)
  · exact .refl _ _

/-- An emitted row joins the train; the segment and the loft stay (R55). -/
theorem State.emitRow_path (s : State) (b : BayId) (e : BentIx) (pair row entry : Nat) (firstK swap : Bool) :
    ((s.emitRow b e pair row entry firstK swap).die b.die).path =
      ((s.die b.die).segment, (s.die b.die).train ++ [(s.bay b).feed.live.emit pair row entry firstK swap e],
        (s.die b.die).loft) := by
  unfold State.emitRow
  dsimp only
  rw [State.useBeat_keeps_path, State.modDie_self]
  rfl

/-! ## The end of a segment (R81, R100) -/

theorem exec_segmentEnd_before {s : State} {d : DieId} {g : Segment} (hg : (s.die d).segment = some g)
    (hn : g.issued ≠ g.slots.length) : exec (.segmentEnd d) s = .next s := by
  show execSegmentEnd d s = _
  simp only [execSegmentEnd, hg, hn, ne_eq, not_false_eq_true, if_true]

/-- The start command that a bay's RING engine runs completes. -/
def State.endRunning (s : State) (b : BayId) : State :=
  match ((s.bay b).queue .ring).running with
  | some r => s.finishRunning b .ring r
  | none => s

theorem exec_segmentEnd_after {s : State} {d : DieId} {g : Segment} (hg : (s.die d).segment = some g)
    (hn : g.issued = g.slots.length) : exec (.segmentEnd d) s =
      .next ((g.bays.foldl (fun s b => s.endRunning ⟨d, b⟩) s).modDie d RingDie.endSegment) := by
  show execSegmentEnd d s = _
  simp only [execSegmentEnd, hg, hn, ne_eq, not_true_eq_false, if_false]
  rfl

@[simp] theorem RingDie.endSegment_segment (r : RingDie) : r.endSegment.segment = none := by
  unfold RingDie.endSegment
  split
  · rfl
  · assumption

end Sys2Proof.Machine

/-! PROOFS. Segments start, their slots issue, and they end (R55, R66, R79 to R82, R92, R100, R125, R143). -/

namespace Sys2Proof.Machine

/-! ## SEGMENT_START -/

/-- A SEGMENT_START without start commands looks at the next segment alone. -/
theorem exec_segmentStart_nil {d : DieId} {s t : State} (h : s.startSegment d = t) : exec (.segmentStart d []) s = .next t :=
  congrArg Host.Outcome.next h

section SegmentStart

variable {s : State} {d : DieId} {n : Nat} {g : SwitchSegment}

/-- With every completion arrived and every buffer filled the segment starts (R81, R125). -/
theorem State.startSegment_begins (hseg : (s.die d).segment = none) (hprog : (s.die d).nextProgram = some (n, g))
    (hhere : ∀ b ∈ g.bays, (s.startAt ⟨d, b⟩ n).isSome = true) (hgone : ∀ b ∈ g.bays, (s.bay ⟨d, b⟩).gone = false)
    (harr : ∀ x ∈ g.completions, s.arrived d x = true ∧ s.arrivedCancelled d x = false) (hread : s.readsFilled d g = true)
    (htrain : (s.die d).train = []) : s.startSegment d = s.beginStarted d n g := by
  have hcancelled : (g.completions.any fun c => s.arrived d c && s.arrivedCancelled d c) = false := by
    rw [List.any_eq_false]
    intro x hx
    rw [(harr x hx).2, Bool.and_false]
    exact Bool.false_ne_true
  have harrived : (g.completions.all fun c => s.arrived d c) = true := List.all_eq_true.mpr fun x hx => (harr x hx).1
  rw [State.startSegment_of_starts hseg hprog hhere, any_gone_eq_false hgone, hcancelled, harrived, hread, htrain]
  rfl

/-- Until then it waits. -/
theorem State.startSegment_waits (hseg : (s.die d).segment = none) (hprog : (s.die d).nextProgram = some (n, g))
    (hhere : ∀ b ∈ g.bays, (s.startAt ⟨d, b⟩ n).isSome = true) (hgone : ∀ b ∈ g.bays, (s.bay ⟨d, b⟩).gone = false)
    (hcancelled : (g.completions.any fun c => s.arrived d c && s.arrivedCancelled d c) = false)
    (hmissing : (∃ x ∈ g.completions, s.arrived d x = false) ∨ s.readsFilled d g = false) :
    s.startSegment d = s.startWaits d n g.bays := by
  have hready : ((g.completions.all fun c => s.arrived d c) && s.readsFilled d g) = false := by
    rcases hmissing with ⟨x, hx, h⟩ | h
    · rw [List.all_eq_false.mpr ⟨x, hx, by rw [h]; exact Bool.false_ne_true⟩, Bool.false_and]
    · rw [h, Bool.and_false]
  rw [State.startSegment_of_starts hseg hprog hhere, any_gone_eq_false hgone, hcancelled, hready]
  rfl

/-- A completion that arrived as CANCELLED refuses it (R143). -/
theorem State.startSegment_cancelled (hseg : (s.die d).segment = none) (hprog : (s.die d).nextProgram = some (n, g))
    (hhere : ∀ b ∈ g.bays, (s.startAt ⟨d, b⟩ n).isSome = true) (hgone : ∀ b ∈ g.bays, (s.bay ⟨d, b⟩).gone = false)
    (hcancelled : (g.completions.any fun c => s.arrived d c && s.arrivedCancelled d c) = true) :
    s.startSegment d = s.refuseSegment d n g.bays .cancelled := by
  rw [State.startSegment_of_starts hseg hprog hhere, any_gone_eq_false hgone, hcancelled]
  rfl

/-- A bay that is off refuses it (R92). -/
theorem State.startSegment_gone {b : BayIx} (hseg : (s.die d).segment = none) (hprog : (s.die d).nextProgram = some (n, g))
    (hhere : ∀ b ∈ g.bays, (s.startAt ⟨d, b⟩ n).isSome = true) (hb : b ∈ g.bays) (hgone : (s.bay ⟨d, b⟩).gone = true) :
    s.startSegment d = s.refuseSegment d n g.bays .disabled := by
  rw [State.startSegment_of_starts hseg hprog hhere, if_pos (List.any_eq_true.mpr ⟨b, hb, hgone⟩)]

/-- The refusal of a segment of one bay runs no slot, and it counts as ended (R92). -/
theorem State.refuseSegment_one {b : BayIx} {c : QueuedCmd} (hstart : s.startAt ⟨d, b⟩ n = some c)
    (hseg : (s.die d).segment = none) (hw : (s.bay ⟨d, b⟩).funcWaiting = []) (hk : s.kp.state = .running)
    (hp : s.job.phase = .running) :
    let t := s.refuseSegment d n [b] .disabled
    (t.die d).segment = none ∧ t.job.own.replay = true ∧ (t.die d).lastEnded = some (s.die d).nextSegment ∧
      (t.die d).loft = (s.die d).loft ∧
      ((t.bay ⟨d, b⟩).queue .ring).waiting = ((s.bay ⟨d, b⟩).queue .ring).waiting.tail := by
  obtain ⟨hreplay, ⟨bays, counters, hdie⟩, hqueue⟩ := State.endStart_disabled hstart hw hk hp
  intro t
  have ht : t = (s.endStart ⟨d, b⟩ n .disabled).modDie d fun r =>
    { r with lastEnded := some r.nextSegment, nextSegment := (r.nextSegment + 1) % 65536 } := rfl
  have htdie : t.die d = { s.die d with
      bays := bays, counters := counters, lastEnded := some (s.die d).nextSegment,
      nextSegment := ((s.die d).nextSegment + 1) % 65536 } := by
    rw [ht, State.modDie_self, show (s.endStart ⟨d, b⟩ n .disabled).die d = _ from hdie]
  refine ⟨by rw [htdie, hseg], by rw [ht]; exact hreplay, by rw [htdie], by rw [htdie], ?_⟩
  rw [← hqueue, ht, State.bay, State.modDie_self]
  rfl

end SegmentStart

/-! ## SLOT_ISSUE and SEGMENT_END -/

section SlotIssue

variable {s : State} {d : DieId} {g : Segment} {x : SwitchSlot} {cycle : SlotCycle}

/-- The claimed beats of a slot move no segment, no bent and no train. -/
theorem State.foldl_moveBeat_keeps_ring (s : State) (d : DieId) (l : List ClaimedBeat) :
    s.Keeps RingDie.ring (l.foldl (fun s b => s.moveBeat d b) s) :=
  List.foldlRecOn l _ (.refl _ s) fun t h x _ => h.trans (t.moveBeat_keeps_ring d x)

/-- A slot without acts: its beats move, the bents stay, and the next slot is next. -/
theorem State.slotIssued_beats (s : State) (d : DieId) (g : Segment) (x : SwitchSlot) (cycle : SlotCycle) :
    let t := x.claimed.foldl (fun s b => s.moveBeat d b) (s.slotIssued d g x cycle)
    (t.die d).segment = some { g with issued := g.issued + 1 } ∧ (t.die d).bents = (s.die d).bents := by
  intro t
  obtain ⟨hcycles, hseg⟩ := s.slotIssued_die d g x cycle
  obtain ⟨hbents, -⟩ := hcycles.frame
  have hring := State.foldl_moveBeat_keeps_ring (s.slotIssued d g x cycle) d x.claimed d
  simp only [RingDie.ring, Prod.mk.injEq] at hring
  obtain ⟨tseg, tbents, -⟩ := hring
  exact ⟨tseg.trans hseg, tbents.trans hbents⟩

/-- A claimed beat from loft to loft copies its bytes, at most 1,024 (R79). -/
theorem State.slotIssued_copy (s : State) (d : DieId) (g : Segment) (x : SwitchSlot) (cycle : SlotCycle) (i k : Fin 16)
    (a b n : Nat) :
    (((s.slotIssued d g x cycle).moveBeat d ⟨.slice i (.offset a), .slice k (.offset b), n⟩).die d).loft =
      (s.die d).loft.write b ((s.die d).loft.read a (min n 1024)) := by
  obtain ⟨hcycles, -⟩ := s.slotIssued_die d g x cycle
  obtain ⟨-, -, hloft, -⟩ := hcycles.frame
  rw [State.moveBeat_loft, State.writeLoft_self, hloft]

/-- An act of K = 0 on an enabled bent leaves +0 in its entries, and nothing else of the ring and the loft differs (R66). -/
theorem State.slotIssued_zero (s : State) (d : DieId) (g : Segment) (x : SwitchSlot) (cycle : SlotCycle) {bent : BentIx}
    (hon : (s.die d).bentOn bent = true) (first count : Nat) :
    let t := (s.slotIssued d g x cycle).runAct d g.quarter (.zero bent first count)
    (t.die d).segment = some { g with issued := g.issued + 1 } ∧ (t.die d).loft = (s.die d).loft ∧
      (∀ e lane : Nat, lane < 256 → (t.bent d bent).entryAt e lane =
        if first ≤ e ∧ e < first + count then 0 else (s.bent d bent).entryAt e lane) ∧
      ∀ k : BentIx, k ≠ bent → t.bent d k = s.bent d k := by
  obtain ⟨hcycles, hsegment⟩ := s.slotIssued_die d g x cycle
  obtain ⟨hbents, -, hloft, -, hbentOn⟩ := hcycles.frame
  have hbent (k : BentIx) : (s.slotIssued d g x cycle).bent d k = s.bent d k := by simp only [State.bent, hbents]
  have hact : (s.slotIssued d g x cycle).runAct d g.quarter (.zero bent first count) =
      (s.slotIssued d g x cycle).modBent d bent fun x => x.zeroEntries first count := if_pos (hbentOn ▸ hon)
  rw [hact]
  refine ⟨?_, ?_, fun e lane hl => ?_, fun k hk => ?_⟩
  · rw [State.modBent_die_self]
    exact hsegment
  · rw [State.modBent_die_self]
    exact hloft
  · rw [State.modBent_self, Bent.zeroEntries_entryAt _ _ _ _ hl, hbent]
  · rw [State.modBent_ne _ _ _ _ _ (Ne.symm hk), hbent]

/-- An emitted row joins the train, and nothing else of the segment and the loft differs (R55). -/
theorem State.slotIssued_emit (s : State) (d : DieId) (g : Segment) (x : SwitchSlot) (cycle : SlotCycle) (bay : BayIx)
    (e : BentIx) (pair : BitVec 3) (row : Fin 256) (entry : BitVec 11) (firstK swap : Bool) :
    let t := (s.slotIssued d g x cycle).runAct d g.quarter (.emit bay e pair row entry firstK swap)
    (t.die d).segment = some { g with issued := g.issued + 1 } ∧ (t.die d).loft = (s.die d).loft ∧
      (t.die d).train = (s.die d).train ++
        [(s.bay ⟨d, bay⟩).feed.live.emit pair.toNat row.val entry.toNat firstK swap e] := by
  obtain ⟨hcycles, hsegment⟩ := s.slotIssued_die d g x cycle
  obtain ⟨-, htrain, hloft, hbays, -⟩ := hcycles.frame
  have hpath := (s.slotIssued d g x cycle).emitRow_path ⟨d, bay⟩ e pair.toNat row.val entry.toNat firstK swap
  simp only [RingDie.path, State.bay, Prod.mk.injEq, hsegment, htrain, hloft, hbays] at hpath
  obtain ⟨psegment, ptrain, ploft⟩ := hpath
  exact ⟨psegment, ploft, ptrain⟩

/-- A slot without acts issues its claimed beats. -/
theorem exec_slotIssue_beats (hg : (s.die d).segment = some g) (hx : g.slots[g.issued]? = some x)
    (hh : s.slotHolds d g.quarter x = []) (hc : cycle.corrected = []) (ha : x.acts = []) :
    exec (.slotIssue d cycle) s = .next (x.claimed.foldl (fun s b => s.moveBeat d b) (s.slotIssued d g x cycle)) := by
  rw [exec_slotIssue_issues hg hx hh hc, ha, List.foldl_nil]

/-- A slot of one act and no claimed beat issues that act. -/
theorem exec_slotIssue_act {a : RingAct} (hg : (s.die d).segment = some g) (hx : g.slots[g.issued]? = some x)
    (hh : s.slotHolds d g.quarter x = []) (hc : cycle.corrected = []) (hcl : x.claimed = []) (ha : x.acts = [a]) :
    exec (.slotIssue d cycle) s = .next ((s.slotIssued d g x cycle).runAct d g.quarter a) := by
  rw [exec_slotIssue_issues hg hx hh hc, ha, hcl, List.foldl_nil, List.foldl_cons, List.foldl_nil]

/-- A slot that is held leaves every segment, bent, train and byte of a memory. -/
theorem State.slotHeld_frame (s : State) (d : DieId) (g : Segment) (x : SwitchSlot) (cycle : SlotCycle) (e : DieId) :
    let q := (s.slotHeld d g x cycle).die e
    q.segment = (s.die e).segment ∧ q.train = (s.die e).train ∧ q.loft = (s.die e).loft ∧ q.bents = (s.die e).bents ∧
      ∀ b : BayIx, (q.bays[b]).dmem = ((s.die e).bays[b]).dmem := by
  have hring := s.slotHeld_keeps (fun _ _ => rfl) State.modStream_keeps_ring RingDie.holdCycle_ring d g x cycle e
  have hmemory := s.slotHeld_keeps (fun _ _ => rfl) State.modStream_keeps_memory RingDie.holdCycle_memory d g x cycle e
  simp only [RingDie.ring, RingDie.memory, Prod.mk.injEq] at hring hmemory
  obtain ⟨hsegment, hbents, htrain⟩ := hring
  obtain ⟨hloft, hdmem⟩ := hmemory
  refine ⟨hsegment, htrain, hloft, hbents, fun b => ?_⟩
  have hb := congrArg (fun v : Vector Memory 4 => v[b]) hdmem
  simpa using hb

/-- With no start command in execution nothing completes as the segment ends. -/
theorem State.foldl_endRunning_of_idle (s : State) (d : DieId) (l : List BayIx)
    (h : ∀ b ∈ l, ((s.bay ⟨d, b⟩).queue .ring).running = none) : l.foldl (fun s b => s.endRunning ⟨d, b⟩) s = s := by
  refine List.foldlRecOn (motive := fun t : State => t = s) l _ rfl fun t ht b hb => ?_
  simp only [ht, State.endRunning, h b hb]

end SlotIssue

/-! ## The obligation -/

/-- Settles O20: a start by the branches of `startSegment_of_starts`, a slot by `slotHeld` and `slotIssued`, the end by
`exec_segmentEnd_after`. -/
theorem segmentsStartAndSlotsIssue : Obligations.SegmentsStartAndSlotsIssue := by
  unfold Obligations.SegmentsStartAndSlotsIssue
  refine ⟨fun s die => ⟨fun starts => rfl, fun n g hseg hprog hhere => ⟨fun hgone => ⟨fun harr hread htrain => ?_,
      fun hcanc hmissing => ?_, fun hcanc => ?_⟩, fun b c hbays hgone hstart hw hk hp => ?_⟩⟩,
    fun s die g hg => ⟨fun cycle x hx => ⟨fun hh => ?_, fun hh hc => ⟨fun ha => ?_, fun bent first count hcl ha hon => ?_,
      fun bay e pair row entry firstK swap hcl ha => ?_⟩⟩, fun cycle => ⟨_, rfl⟩, exec_segmentEnd_before hg,
      fun hn => ⟨_, exec_segmentEnd_after hg hn, by rw [State.modDie_self, RingDie.endSegment_segment]⟩,
      fun hn hidle => ?_, fun b r hn hbays hr => ?_⟩⟩
  · obtain ⟨hbegun, hnext, hloft⟩ := s.beginStarted_die die n g
    refine ⟨_, exec_segmentStart_nil (State.startSegment_begins hseg hprog hhere hgone harr hread htrain), hbegun, hnext, hloft,
      fun b c hb hstart => ?_⟩
    rw [State.beginStarted_queue hb hstart, ← List.drop_one]
    exact ⟨rfl, rfl⟩
  · obtain ⟨hjob, counters, hdie⟩ := s.startWaits_counted die n g.bays
    refine ⟨_, exec_segmentStart_nil (State.startSegment_waits hseg hprog hhere hgone hcanc hmissing), ?_, hjob, ?_⟩
    · rw [hdie]
      exact hseg
    · rw [hdie]
      exact ⟨rfl, rfl, rfl⟩
  · exact exec_segmentStart_nil (State.startSegment_cancelled hseg hprog hhere hgone hcanc)
  · have hrefused := State.startSegment_gone hseg hprog hhere (b := b) (by rw [hbays]; exact List.mem_singleton_self b) hgone
    rw [hbays] at hrefused
    exact ⟨_, exec_segmentStart_nil hrefused, State.refuseSegment_one hstart hseg hw hk hp⟩
  · obtain ⟨hsegment, htrain, -⟩ := s.slotHeld_frame die g x cycle die
    refine ⟨_, exec_slotIssue_holds cycle hg hx hh, hsegment.trans hg, htrain, fun d => ?_, fun b => ?_⟩
    · obtain ⟨-, -, hloft, hbents, -⟩ := s.slotHeld_frame die g x cycle d
      exact ⟨hloft, hbents⟩
    · obtain ⟨-, -, -, -, hdmem⟩ := s.slotHeld_frame die g x cycle b.die
      exact hdmem b.bay
  · obtain ⟨hsegment, hbents⟩ := s.slotIssued_beats die g x cycle
    refine ⟨_, exec_slotIssue_beats hg hx hh hc ha, hsegment, hbents, fun a b i k n hcl => ?_⟩
    rw [hcl, List.foldl_cons, List.foldl_nil, State.slotIssued_copy]
    refine ⟨fun j hj => ?_, fun y hy => ?_⟩
    · rw [Memory.get_write, if_pos (by rw [Memory.read_length]; omega), Nat.add_sub_cancel_left, Memory.read_getD _ _ _ _ hj]
    · rw [Memory.get_write, if_neg (by rw [Memory.read_length]; omega)]
  · exact ⟨_, exec_slotIssue_act hg hx hh hc hcl ha, s.slotIssued_zero die g x cycle hon first count⟩
  · exact ⟨_, exec_slotIssue_act hg hx hh hc hcl ha, s.slotIssued_emit die g x cycle bay e pair row entry firstK swap⟩
  · rw [exec_segmentEnd_after hg hn, s.foldl_endRunning_of_idle die g.bays hidle]
    exact congrArg _ (s.modDie_congr die (by simp only [RingDie.endSegment, hg]))
  · rw [exec_segmentEnd_after hg hn, hbays, List.foldl_cons, List.foldl_nil, State.endRunning, hr]

end Sys2Proof.Machine

/-! PROOFS. A posted step record starts the program on every die, is refused, or waits (R100, R164, R177, R254, R298). -/

namespace Sys2Proof.Machine

/-! ## STEP_RECORD -/

theorem exec_stepRecord_eq (s : State) : exec .stepRecord s = execStepRecord s := rfl

theorem exec_stepRecord_posted {s : State} {r : StepRec} (hr : s.job.current = some r) (hp : s.job.phase = .posted) :
    exec .stepRecord s = .next (if !s.lineHigh && !s.restartGood then s.refuseStart else s.runRecord r) := by
  simp only [exec_stepRecord_eq, execStepRecord, hr, hp, if_true]

theorem exec_stepRecord_not_posted {s : State} (h : s.job.current = none ∨ s.job.phase ≠ .posted) :
    exec .stepRecord s = .next s := by
  rw [exec_stepRecord_eq, execStepRecord]
  rcases h with h | h
  · rw [h]
  · cases s.job.current with
    | none => rfl
    | some r => exact congrArg _ (if_neg h)

/-! ## A record with nothing before it (R18, R164, R177, R226) -/

theorem State.landHeld_of_nil {s : State} (h : s.coll.held = []) : s.landHeld = s := by
  have hcoll : { s.coll with held := [] } = s.coll := by rw [← h]
  rw [State.landHeld, h, List.foldl_nil, hcoll]

theorem State.retryEdge_of_nil {s : State} {e : EdgeId} (h : (s.edge e).waiting = []) : s.retryEdge e = s := by
  rw [State.retryEdge, h]
  rfl

theorem State.checkHeaders_of_nil {s : State} (r : StepRec) (h : ∀ m : SillId, (s.sill m).active.shards = []) :
    s.checkHeaders r = s := by
  refine List.foldl_fixed' (fun m => ?_) allSills
  rw [h m]
  rfl

/-- The attempt runs. -/
def State.attempting (s : State) : State := { s with job := { s.job with phase := .running } }

@[simp] theorem State.attempting_job (s : State) : s.attempting.job = { s.job with phase := .running } := rfl
@[simp] theorem State.attempting_sills (s : State) : s.attempting.sills = s.sills := rfl
@[simp] theorem State.attempting_die (s : State) (d : DieId) : s.attempting.die d = s.die d := rfl
@[simp] theorem State.attempting_bay (s : State) (b : BayId) : s.attempting.bay b = s.bay b := rfl

theorem State.lineHigh_of_job (s : State) (j : Job) : ({ s with job := j } : State).lineHigh = s.lineHigh := rfl

theorem State.die_of_job (s : State) (j : Job) (d : DieId) : ({ s with job := j } : State).die d = s.die d := rfl

/-- With no line driven, no claim and no tenon waiting, and no header to check, the attempt runs and the program starts. -/
theorem State.runRecord_starts {s : State} (r : StepRec) (hline : s.lineHigh = false) (hdue : s.job.claimDue = false)
    (hclaimed : s.job.claimed = false) (hshards : ∀ m : SillId, (s.sill m).active.shards = []) (hheld : s.coll.held = [])
    (hwaiting : ∀ e : EdgeId, (s.edge e).waiting = []) : s.runRecord r = s.attempting.startProgram := by
  have hedges : allEdges.foldl State.retryEdge s = s :=
    List.foldl_fixed' (fun e => State.retryEdge_of_nil (hwaiting e)) allEdges
  simp only [State.runRecord, State.landHeld_of_nil hheld, hedges, hdue, Bool.false_and, Bool.false_eq_true, if_false,
    State.checkHeaders_of_nil r hshards, hclaimed, State.lineHigh_of_job, hline, State.attempting]

/-! ## Every bay changed once -/

theorem mem_allBays (b : BayId) : b ∈ allBays :=
  List.mem_flatMap.mpr ⟨b.die, List.mem_finRange _, List.mem_map.mpr ⟨b.bay, List.mem_finRange _, rfl⟩⟩

theorem allBays_nodup : allBays.Nodup := by
  refine List.nodup_flatMap.mpr ⟨fun d _ => (List.nodup_finRange 4).map fun a b h => congrArg BayId.bay h, ?_⟩
  refine (List.nodup_finRange 16).imp fun {d e} hne => List.disjoint_left.mpr fun b hd he => hne ?_
  obtain ⟨_, _, rfl⟩ := List.mem_map.mp hd
  obtain ⟨_, _, hb⟩ := List.mem_map.mp he
  exact (congrArg BayId.die hb).symm

theorem State.mapDies_die (s : State) (f : RingDie → RingDie) (d : DieId) : (s.mapDies f).die d = f (s.die d) :=
  Vector.getElem_map f d.isLt

section EachBay

variable (f : BayId → Bay → Bay)

theorem State.foldl_modBay_keeps {α : Type} {π : RingDie → α} (hπ : ∀ r b g, π (RingDie.modBay r b g) = π r) (s : State)
    (l : List BayId) : s.Keeps π (l.foldl (fun s b => s.modBay b (f b)) s) :=
  List.foldlRecOn l _ (.refl π s) fun t h b _ => h.trans (t.modDie_keeps b.die (hπ _ _ _))

/-- A bay that is not in the list stays. -/
theorem State.foldl_modBay_of_notMem (s : State) {b : BayId} {l : List BayId} (hb : b ∉ l) :
    (l.foldl (fun s b => s.modBay b (f b)) s).bay b = s.bay b :=
  List.foldlRecOn (motive := fun t : State => t.bay b = s.bay b) l _ rfl fun t h k hk =>
    (t.modBay_ne k b _ fun e => hb (e ▸ hk)).trans h

/-- Each bay of the list is changed by its own function. -/
theorem State.foldl_modBay_of_mem (s : State) {b : BayId} {l : List BayId} (hl : l.Nodup) (hb : b ∈ l) :
    (l.foldl (fun s b => s.modBay b (f b)) s).bay b = f b (s.bay b) := by
  induction l generalizing s with
  | nil => exact absurd hb List.not_mem_nil
  | cons k l ih =>
    obtain ⟨hk, hl⟩ := List.nodup_cons.mp hl
    rw [List.foldl_cons]
    rcases List.mem_cons.mp hb with rfl | hb
    · rw [State.foldl_modBay_of_notMem f _ hk, State.modBay_self]
    · have hne : k ≠ b := fun e => hk (e ▸ hb)
      rw [ih _ hl hb, State.modBay_ne _ _ _ _ hne]

theorem State.foldl_modBay_sills (s : State) (l : List BayId) : (l.foldl (fun s b => s.modBay b (f b)) s).sills = s.sills :=
  List.foldlRecOn (motive := fun t : State => t.sills = s.sills) l _ rfl fun _ h _ _ => h

theorem State.foldl_modBay_job (s : State) (l : List BayId) : (l.foldl (fun s b => s.modBay b (f b)) s).job = s.job :=
  List.foldlRecOn (motive := fun t : State => t.job = s.job) l _ rfl fun _ h _ _ => h

end EachBay

/-! ## The program start (R100, R254, R298) -/

/-- Every bay at its start, before the segments are numbered again. -/
def State.startBays (s : State) : State := allBays.foldl (fun t b => t.modBay b fun y => y.start (s.job.drained.contains b)) s

theorem State.startBays_job (s : State) : s.startBays.job = s.job := State.foldl_modBay_job _ s allBays

theorem State.startBays_sills (s : State) : s.startBays.sills = s.sills := State.foldl_modBay_sills _ s allBays

theorem State.startBays_loft (s : State) : s.Keeps RingDie.loft s.startBays :=
  State.foldl_modBay_keeps _ (fun _ _ _ => rfl) s allBays

theorem State.startBays_bay (s : State) (b : BayId) : s.startBays.bay b = (s.bay b).start (s.job.drained.contains b) :=
  State.foldl_modBay_of_mem _ s allBays_nodup (mem_allBays b)

/-- Segments are numbered from 0 again (R100). -/
def RingDie.renumber (r : RingDie) : RingDie := { r with nextSegment := 0, lastEnded := none }

@[simp] theorem RingDie.renumber_nextSegment (r : RingDie) : r.renumber.nextSegment = 0 := rfl
@[simp] theorem RingDie.renumber_lastEnded (r : RingDie) : r.renumber.lastEnded = none := rfl
@[simp] theorem RingDie.renumber_loft (r : RingDie) : r.renumber.loft = r.loft := rfl
@[simp] theorem RingDie.renumber_bays (r : RingDie) : r.renumber.bays = r.bays := rfl

theorem State.startProgram_eq (s : State) : s.startProgram =
    { s.startBays.mapDies RingDie.renumber with job := { (s.startBays.mapDies RingDie.renumber).job with drained := [] } } := rfl

theorem State.startProgram_job (s : State) : s.startProgram.job = { s.job with drained := [] } := by
  rw [State.startProgram_eq, State.mapDies_job, State.startBays_job]

theorem State.startProgram_sills (s : State) : s.startProgram.sills = s.sills := by
  rw [State.startProgram_eq, State.mapDies_sills, State.startBays_sills]

theorem State.startProgram_die (s : State) (d : DieId) : s.startProgram.die d = (s.startBays.die d).renumber := by
  rw [State.startProgram_eq, State.die_of_job, State.mapDies_die]

theorem State.startProgram_bay (s : State) (b : BayId) :
    s.startProgram.bay b = (s.bay b).start (s.job.drained.contains b) := by
  rw [← s.startBays_bay b, State.bay, s.startProgram_die b.die, RingDie.renumber_bays, State.bay]

/-- The only entry of a thread is the one that is found. -/
theorem find_entry_of_only {l : List (ThreadIx × Nat)} {x : ThreadIx} {pc : Nat} (hmem : (x, pc) ∈ l)
    (honly : ∀ q : Nat, (x, q) ∈ l → q = pc) : (l.find? fun e => e.1 = x) = some (x, pc) := by
  cases h : l.find? fun e => e.1 = x with
  | none => exact absurd (List.find?_eq_none.mp h _ hmem) (by simp)
  | some e =>
    obtain ⟨i, q⟩ := e
    have hi : i = x := by simpa using List.find?_some h
    subst hi
    rw [honly q (List.mem_of_find?_eq_some h)]

/-- A thread of an enabled bay starts at its entry point (R257). -/
theorem Bay.start_thread {y : Bay} (drained : Bool) {x : ThreadIx} {pc : Nat} (hen : y.func .bay = .enabled)
    (hmem : (x, pc) ∈ y.entries) (honly : ∀ q : Nat, (x, q) ∈ y.entries → q = pc) :
    (y.start drained).threads[x] = { mode := .ready, pc := pc, regs := Vector.replicate 16 0 } := by
  have hfind := find_entry_of_only hmem honly
  unfold Bay.start
  extract_lets y₁ y₂
  have hentries : y₂.entries = y.entries := by
    have hone : y₁.entries = y.entries := ite_both (P := fun z : Bay => z.entries = y.entries) rfl rfl
    exact ite_both (P := fun z : Bay => z.entries = y.entries) hone hone
  have hfunc : y₂.func .bay = .enabled := by
    have hone : y₁.func .bay = .enabled :=
      ite_both (P := fun z : Bay => z.func .bay = .enabled) (by simp [Bay.setFunc, Bay.func]) hen
    exact ite_both (P := fun z : Bay => z.func .bay = .enabled) hone hone
  clear_value y₂
  simp only [Fin.getElem_fin, Vector.getElem_ofFn, Fin.eta, hentries, hfind, hfunc, if_true]

/-! ## The obligation -/

/-- Settles O34: what STEP_RECORD does with a posted record is `exec_stepRecord_posted`; with nothing before it the record starts the
program (`runRecord_starts`), whose parts are the `startProgram` lemmas and `Bay.start_thread`. -/
theorem stepRecordStartsTheProgram : Obligations.StepRecordStartsTheProgram := by
  unfold Obligations.StepRecordStartsTheProgram
  refine fun s => ⟨exec_stepRecord_not_posted, fun r hr hp => ⟨fun h => ?_, fun hline hgood => ?_,
    fun hline hgood hdue hclaimed hshards hheld hwaiting => ?_⟩⟩
  · rw [exec_stepRecord_posted hr hp]
    rcases h with h | h <;> simp only [h, Bool.not_true, Bool.false_and, Bool.and_false, Bool.false_eq_true, if_false]
  · rw [exec_stepRecord_posted hr hp, hline, hgood]
    rfl
  · have hexec : exec .stepRecord s = .next s.attempting.startProgram := by
      rw [exec_stepRecord_posted hr hp, hgood, Bool.not_true, Bool.and_false, if_neg Bool.false_ne_true,
        State.runRecord_starts r hline hdue hclaimed hshards hheld hwaiting]
    refine ⟨_, hexec, ?_, ?_, ?_, ?_, fun d => ?_, fun b x pc hen hmem honly => ?_⟩
    · rw [State.startProgram_job, State.attempting_job]
    · rw [State.startProgram_job, State.attempting_job, hr]
    · rw [State.startProgram_job, State.attempting_job]
    · rw [State.startProgram_sills, State.attempting_sills]
    · rw [State.startProgram_die, RingDie.renumber_nextSegment, RingDie.renumber_lastEnded, RingDie.renumber_loft,
        State.startBays_loft, State.attempting_die]
      exact ⟨rfl, rfl, rfl⟩
    · rw [State.startProgram_bay, State.attempting_bay, Bay.start_thread _ hen hmem honly]
      exact ⟨rfl, rfl, rfl⟩

end Sys2Proof.Machine

/-! PROOFS. OPEN and READOUT at a free KILN engine, and the beats of the reduction (R100 to R105, R437). -/

namespace Sys2Proof.Machine

/-! ## Regions of a bay -/

theorem State.modRegion_ne (s : State) (b : BayId) {k j : SlotIx} (f : KilnRegion → KilnRegion) (h : k ≠ j) :
    (s.modRegion b k f).region b j = s.region b j := by
  simp only [State.modRegion, State.region, State.modBay_self, updAt_ne _ _ _ _ h]

/-- Two changes of a region that agree on it are one. -/
theorem State.modRegion_congr (s : State) (b : BayId) (k : SlotIx) {f g : KilnRegion → KilnRegion}
    (h : f (s.region b k) = g (s.region b k)) : s.modRegion b k f = s.modRegion b k g := by
  have hk : f (s.bay b).regions[k] = g (s.bay b).regions[k] := h
  exact s.modBay_congr b (by simp only [updAt, hk])

theorem State.region_of_dies {s t : State} (h : t.dies = s.dies) (b : BayId) (k : SlotIx) : t.region b k = s.region b k := by
  simp only [State.region, State.bay, State.die, h]

@[simp] theorem State.setNonfinite_dies (s : State) : s.setNonfinite.dies = s.dies := by
  rcases s.setBits_cases { nonfinite := true } with ⟨-, h⟩ | ⟨-, -, h⟩ | ⟨-, -, h⟩ <;> rw [State.setNonfinite, h]

/-- A command that begins to run leaves the regions of its bay. -/
theorem running_region (s : State) (c : CmdHead) (q : QueueIx) (cmd : EngineCmd) (st : Status) (k : SlotIx) :
    (running s c q cmd st).region c.bay k = s.region c.bay k := by
  simp only [running, State.modQueue, State.region, State.modBay_self, Bay.modQueue]

theorem running_queue (s : State) (c : CmdHead) (q : QueueIx) (cmd : EngineCmd) (st : Status) :
    (((running s c q cmd st).bay c.bay).queue q).running = some ⟨c.ctr, cmd, st⟩ := by
  simp only [running, State.modQueue_self]

/-! ## OPEN (R100 to R102) -/

/-- A free engine runs an OPEN with good fields. -/
theorem exec_kilnOpen_runs {s : State} {c : CmdHead} {f : KilnOpenFields} (hf : engineFree s c .kiln)
    (hgood : s.kilnOpenGood c.bay f = true) :
    exec (.kilnOpen c f) s = .next (running (s.openRegion c.bay f) c .kiln (.kilnOpen f) .done) := by
  rw [exec_kilnOpen, State.takeCmd_runs _ _ hf (by decide) rfl rfl rfl, if_pos hgood]

/-! ## READOUT (R100, R104, R437) -/

theorem exec_kilnReadout (c : CmdHead) (f : ReadoutFields) (s : State) : exec (.kilnReadout c f) s =
    .next (s.takeCmd c .kiln (.kilnReadout f) ((s.die c.bay.die).segmentEnded f.segment) (s.readoutGood c.bay f)
      fun s => (s.readout c.bay f, .done)) := rfl

/-- A region that has been read out is READ (R104). -/
theorem State.readout_region (s : State) (b : BayId) (f : ReadoutFields) :
    ((s.readout b f).region b (regionIx f.region)).state = .isRead := by
  let k := regionIx f.region
  have hread (t : State) : ((t.modRegion b k fun g => { g with state := .isRead }).region b k).state = .isRead := by
    rw [State.modRegion_self]
  have hreported (t : State) (r : Report) : (t.setNonfinite.report r).region b = t.region b :=
    funext (State.region_of_dies ((t.setNonfinite.report_dies r).trans t.setNonfinite_dies) b)
  unfold State.readout
  refine ite_both (P := fun t : State => (t.region b k).state = .isRead) ?_ (hread _)
  rw [hreported]
  exact hread _

/-! ## Beats that fall in a resident region (R101, R102) -/

theorem KilnRegion.takes_eq_false {g : KilnRegion} {row cg : Nat}
    (h : g.state ≠ .isOpen ∨ g.rows ≤ row ∨ g.cols256 ≤ cg) : g.takes row cg = false := by
  rcases h with h | h | h <;> simp [KilnRegion.takes, h]

theorem KilnRegion.takes_eq_true {g : KilnRegion} {row cg : Nat} (ho : g.state = .isOpen) (hr : row < g.rows)
    (hc : cg < g.cols256) : g.takes row cg = true := by
  simp [KilnRegion.takes, ho, hr, hc]

/-- A row segment of the region, by the number of its written bit (R102). -/
def KilnRegion.segment (g : KilnRegion) (row cg : Nat) : Nat := row * g.cols256 + cg

/-- The place of a row segment's first value in the kiln of the bay (R99). -/
def KilnRegion.place (g : KilnRegion) (row cg : Nat) : Nat := 32 * g.baseGroup + 256 * g.segment row cg

theorem KilnRegion.place_eq (g : KilnRegion) (row cg : Nat) : 32 * g.baseGroup + g.valueIx row cg 0 = g.place row cg := by
  rw [KilnRegion.valueIx, KilnRegion.place, KilnRegion.segment, Nat.add_zero, Nat.mul_comm 256]

/-- The region with the written bit of a row segment set (R102). -/
def KilnRegion.markWritten (g : KilnRegion) (row cg : Nat) : KilnRegion :=
  { g with written :=
      if !g.written.contains (g.segment row cg) then g.written ++ [g.segment row cg] else g.written }

theorem KilnRegion.mem_markWritten (g : KilnRegion) (row cg : Nat) : g.segment row cg ∈ (g.markWritten row cg).written := by
  unfold KilnRegion.markWritten
  by_cases h : g.segment row cg ∈ g.written <;> simp [h]

/-- What a beat leaves in its row segment of a resident region: the first stores its totals, a later one adds them (R102). -/
def KilnRegion.summed (g : KilnRegion) (kiln : Sparse W40) (row cg : Nat) (totals : List W40) : List W40 :=
  (List.range 256).map fun c =>
    addW40 (if g.written.contains (g.segment row cg) then Sparse.get (0 : W40) kiln (g.place row cg + c) else 0)
      (totals.getD c 0)

@[simp] theorem KilnRegion.summed_length (g : KilnRegion) (kiln : Sparse W40) (row cg : Nat) (totals : List W40) :
    (g.summed kiln row cg totals).length = 256 := by
  rw [KilnRegion.summed, List.length_map, List.length_range]

theorem KilnRegion.summed_getD (g : KilnRegion) (kiln : Sparse W40) (row cg : Nat) (totals : List W40) {c : Nat}
    (hc : c < 256) : (g.summed kiln row cg totals).getD c 0 = addW40
      (if g.written.contains (g.segment row cg) then Sparse.get (0 : W40) kiln (g.place row cg + c) else 0)
      (totals.getD c 0) := by
  rw [List.getD_eq_getElem _ _ (by rwa [KilnRegion.summed_length])]
  simp only [KilnRegion.summed, List.getElem_map, List.getElem_range]

/-- The sums as the kiln forms them, where the region is resident. -/
theorem State.map_addW40_kilnValue (s : State) (b : BayId) {g : KilnRegion} (hspill : g.spill = false) (row cg : Nat)
    (totals : List W40) : ((List.range 256).map fun c =>
      addW40 (if !g.written.contains (g.segment row cg) then 0 else s.kilnValue b g (g.valueIx row cg 0 + c))
        (totals.getD c 0)) = g.summed (s.bay b).kiln row cg totals := by
  refine List.map_congr_left fun c _ => ?_
  rw [State.kilnValue, hspill, if_neg Bool.false_ne_true, ← Nat.add_assoc, KilnRegion.place_eq]
  cases g.written.contains (g.segment row cg) <;> rfl

@[simp] theorem State.countRing_region (s : State) (d : DieId) (i n : Nat) (b : BayId) (k : SlotIx) :
    (s.countRing d i n).region b k = s.region b k := by
  simp only [State.region, State.countRing_bay]

section Resident

variable {s : State} {b : BayId} {k : SlotIx} {g : KilnRegion} {row cg : Nat} (totals : List W40) (hg : s.region b k = g)
  (htakes : g.takes row cg = true) (hspill : g.spill = false)

include hg htakes hspill

/-- A beat in a resident region writes its row segment and sets the written bit, and is counted. -/
theorem State.kilnAdd_resident : s.kilnAdd b k row cg totals =
    ((s.modBay b fun y => { y with
      kiln := Sparse.setRange (0 : W40) y.kiln (g.place row cg) (g.summed (s.bay b).kiln row cg totals) }).modRegion b k
      fun x => x.markWritten row cg).countRing b.die 0x40 := by
  subst hg
  have hvals := s.map_addW40_kilnValue b hspill row cg totals
  rw [KilnRegion.segment] at hvals
  simp only [State.kilnAdd, htakes, if_true, State.writeKiln, hspill, Bool.false_eq_true, if_false, KilnRegion.place_eq, hvals]
  refine congrArg (State.countRing · b.die 0x40) (State.modRegion_congr _ b k ?_)
  rw [State.region, State.modBay_self]
  rfl

theorem State.kilnAdd_region : (s.kilnAdd b k row cg totals).region b k = g.markWritten row cg := by
  rw [State.kilnAdd_resident totals hg htakes hspill, State.countRing_region, State.modRegion_self, ← hg, State.region,
    State.modBay_self, State.region]

theorem State.kilnAdd_kiln : ((s.kilnAdd b k row cg totals).bay b).kiln =
    Sparse.setRange (0 : W40) (s.bay b).kiln (g.place row cg) (g.summed (s.bay b).kiln row cg totals) := by
  rw [State.kilnAdd_resident totals hg htakes hspill, State.countRing_bay, State.modRegion, State.modBay_self,
    State.modBay_self]

/-- Every value of the row segment is the sum. -/
theorem State.kilnAdd_value {c : Nat} (hc : c < 256) :
    Sparse.get (0 : W40) ((s.kilnAdd b k row cg totals).bay b).kiln (g.place row cg + c) = addW40
      (if g.written.contains (g.segment row cg) then Sparse.get (0 : W40) (s.bay b).kiln (g.place row cg + c) else 0)
      (totals.getD c 0) := by
  rw [State.kilnAdd_kiln totals hg htakes hspill, Sparse.get_setRange, KilnRegion.summed_length,
    if_pos ⟨Nat.le_add_right _ _, Nat.add_lt_add_left hc _⟩, Nat.add_sub_cancel_left, KilnRegion.summed_getD _ _ _ _ _ hc]

/-- Every value outside the row segment stays. -/
theorem State.kilnAdd_other {n : Nat} (hn : n < g.place row cg ∨ g.place row cg + 256 ≤ n) :
    Sparse.get (0 : W40) ((s.kilnAdd b k row cg totals).bay b).kiln n = Sparse.get (0 : W40) (s.bay b).kiln n := by
  rw [State.kilnAdd_kiln totals hg htakes hspill, Sparse.get_setRange, KilnRegion.summed_length, if_neg (by omega)]

end Resident

/-! ## Stray beats (R105) -/

/-- A beat outside is counted, sets REPLAY and is recorded. -/
theorem State.kilnAdd_stray (s : State) (b : BayId) (k : SlotIx) (row cg : Nat) (totals : List W40)
    (htakes : (s.region b k).takes row cg = false) : s.kilnAdd b k row cg totals =
    ((s.countRing b.die 0x47).setReplay).report
      { cls := .work, code := 0x5047, subject := idEngine b .kiln, reporter := idEngine b .kiln } := by
  rw [State.kilnAdd, htakes]
  rfl

theorem State.report_setReplay_die (s : State) (r : Report) (d : DieId) : (s.setReplay.report r).die d = s.die d := by
  rw [State.report_die, State.setReplay_die]

theorem State.report_setReplay_bay (s : State) (r : Report) (b : BayId) : (s.setReplay.report r).bay b = s.bay b := by
  rw [State.bay, State.report_setReplay_die, State.bay]

theorem exec_reductionBeat (b : BayId) (region : BitVec 6) (row cg : Nat) (totals : List W40) (s : State) :
    exec (.reductionBeat b region row cg totals) s =
      .next ((s.countRing b.die 0x13).kilnAdd b (regionIx region) row cg totals) := rfl

/-! ## The obligation -/

/-- Settles O14: OPEN and READOUT by what a free engine does with a command (`takeCmd_runs`, `takeCmd_waits`,
`takeCmd_refuses`); a beat that the region takes by `kilnAdd_value`, `kilnAdd_other` and `kilnAdd_region`, a stray one by
`kilnAdd_stray`. -/
theorem kilnCommandsTakeEffect : Obligations.KilnCommandsTakeEffect := by
  unfold Obligations.KilnCommandsTakeEffect
  refine ⟨fun s c hf => ⟨fun f hgood => ?_, fun f hended hgood => ?_⟩,
    fun s c f hf => ⟨fun hended hgood => ?_, fun hbad => ?_⟩,
    fun s b region row cg totals _ => ⟨fun hopen hrow hcg hspill => ?_, fun hstray hk hp => ?_⟩⟩
  · refine ⟨_, exec_kilnOpen_runs hf hgood, ?_, fun k hk => ?_⟩
    · exact (running_region _ c .kiln _ _ _).trans (s.modRegion_self c.bay (regionIx f.region) _)
    · have hne : regionIx f.region ≠ k := fun e => hk (congrArg Fin.val e).symm
      exact (running_region _ c .kiln _ _ _).trans (s.modRegion_ne c.bay _ hne)
  · refine ⟨_, (exec_kilnReadout c f s).trans (congrArg _ (State.takeCmd_runs _ _ hf (by decide) hended hgood rfl)), ?_,
      running_queue _ c .kiln _ _⟩
    exact (congrArg KilnRegion.state (running_region _ c .kiln _ _ _)).trans (s.readout_region c.bay f)
  · rw [exec_kilnReadout, State.takeCmd_waits _ _ hf hended hgood]
  · rw [exec_kilnReadout, State.takeCmd_refuses _ _ hf hbad]
    rfl
  · have hg := s.countRing_region b.die 0x13 1 b (regionIx region)
    have htakes := KilnRegion.takes_eq_true hopen hrow hcg
    have hregion := State.kilnAdd_region totals hg htakes hspill
    refine ⟨_, exec_reductionBeat b region row cg totals s, fun c hc => ?_, fun k hk => ?_, ?_, ?_⟩
    · have hvalue := State.kilnAdd_value totals hg htakes hspill hc
      rwa [State.countRing_bay] at hvalue
    · have hother := State.kilnAdd_other totals hg htakes hspill hk
      rwa [State.countRing_bay] at hother
    · have hwritten := (s.region b (regionIx region)).mem_markWritten row cg
      rwa [← hregion] at hwritten
    · exact (congrArg KilnRegion.state hregion).trans hopen
  · have hout := (s.countRing b.die 0x13).kilnAdd_stray b (regionIx region) row cg totals
    rw [State.countRing_region] at hout
    refine ⟨_, (exec_reductionBeat b region row cg totals s).trans (congrArg _ (hout (KilnRegion.takes_eq_false hstray))),
      ?_, ?_, ?_, ?_⟩
    · rw [State.report_job, State.setReplay_of_running (s := (s.countRing b.die 0x13).countRing b.die 0x47) hk hp]
      exact Bits.merge_replay _
    · rw [State.report_setReplay_bay, State.countRing_bay, State.countRing_bay]
    · rw [State.report_setReplay_die, State.countRing_die_self, State.countRing_die_self]
      rfl
    · rw [State.report_setReplay_bay, State.countRing_bay, State.countRing_bay]

end Sys2Proof.Machine

/-! PROOFS. The stream slots of the bays: what a change of one leaves of the others, and what leaves them all. -/

namespace Sys2Proof.Machine

/-! ## One slot of a bay -/

@[simp] theorem State.modStream_bay (s : State) (b : BayId) (k : SlotIx) (f : Stream → Stream) :
    (s.modStream b k f).bay b = { s.bay b with streams := updAt (s.bay b).streams k f } := s.modBay_self b _

theorem State.modStream_ne (s : State) {b c : BayId} {k j : SlotIx} (f : Stream → Stream) (h : (b, k) ≠ (c, j)) :
    (s.modStream b k f).stream c j = s.stream c j := by
  by_cases hb : b = c
  · have hk : k ≠ j := fun e => h (by rw [hb, e])
    simp only [← hb, State.stream, State.modStream_bay, updAt_ne _ _ _ _ hk]
  · simp only [State.stream, State.modStream, State.modBay_ne _ _ _ _ hb]

/-- Two changes of a stream that agree on it are one. -/
theorem State.modStream_congr (s : State) (b : BayId) (k : SlotIx) {f g : Stream → Stream}
    (h : f (s.stream b k) = g (s.stream b k)) : s.modStream b k f = s.modStream b k g := by
  have hk : f (s.bay b).streams[k] = g (s.bay b).streams[k] := h
  exact s.modBay_congr b (by simp only [updAt, hk])

theorem State.modStream_eq_self (s : State) (b : BayId) (k : SlotIx) {f : Stream → Stream}
    (h : f (s.stream b k) = s.stream b k) : s.modStream b k f = s :=
  s.modBay_eq_self b (by rw [updAt_eq_self (s.bay b).streams k h])

/-- Two changes of a stream, one after the other, are one. -/
theorem State.modStream_modStream (s : State) (b : BayId) (k : SlotIx) (f g : Stream → Stream) :
    (s.modStream b k f).modStream b k g = s.modStream b k (g ∘ f) := by
  simp only [State.modStream, State.modBay_modBay]
  exact s.modBay_congr b (by simp [updAt])

/-- What a change of a stream leaves of it, it leaves of every stream. -/
theorem State.modStream_keeps_proj {β : Type} (π : Stream → β) (s : State) (b c : BayId) (k j : SlotIx) {f : Stream → Stream}
    (h : ∀ t, π (f t) = π t) : π ((s.modStream c j f).stream b k) = π (s.stream b k) := by
  by_cases hself : (c, j) = (b, k)
  · cases hself
    rw [State.modStream_self, h]
  · rw [s.modStream_ne f hself]

theorem State.modStream_counters (s : State) (b c : BayId) (k : SlotIx) (f : Stream → Stream) :
    ((s.modStream c k f).bay b).counters = (s.bay b).counters := by
  by_cases h : c = b
  · rw [h, State.modStream_bay]
  · rw [State.modStream, State.modBay_ne _ _ _ _ h]

@[simp] theorem State.modStream_loft (s : State) (b : BayId) (k : SlotIx) (f : Stream → Stream) (d : DieId) :
    ((s.modStream b k f).die d).loft = (s.die d).loft :=
  State.modDie_keeps (π := RingDie.loft) s b.die rfl d

/-! ## What leaves every slot -/

/-- The stream slots of a die, bay by bay. -/
def RingDie.streams (r : RingDie) : Vector (Vector Stream 64) 4 := r.bays.map Bay.streams

theorem State.Keeps.stream {s t : State} (h : s.Keeps RingDie.streams t) (b : BayId) (k : SlotIx) :
    t.stream b k = s.stream b k := by
  have hbay := congrArg (fun v : Vector (Vector Stream 64) 4 => v[b.bay][k]) (h b.die)
  simp only [RingDie.streams, Fin.getElem_fin, Vector.getElem_map] at hbay
  exact hbay

theorem State.keeps_of_dies {α : Type} {s t : State} (π : RingDie → α) (h : t.dies = s.dies) : s.Keeps π t := by
  intro d
  simp only [State.die, h]

theorem State.modBay_keeps_streams (s : State) (b : BayId) {f : Bay → Bay}
    (h : (f (s.bay b)).streams = (s.bay b).streams) : s.Keeps RingDie.streams (s.modBay b f) :=
  s.modDie_keeps b.die (map_updAt _ b.bay h)

@[simp] theorem RingDie.noteLow_bays (r : RingDie) : r.noteLow.bays = r.bays := by
  unfold RingDie.noteLow
  split <;> rfl

@[simp] theorem RingDie.moveBytes_bays (r : RingDie) (which : Fin 5) (n : Nat) : (r.moveBytes which n).bays = r.bays := rfl

@[simp] theorem RingDie.moveBytes_loft (r : RingDie) (which : Fin 5) (n : Nat) : (r.moveBytes which n).loft = r.loft := rfl

theorem State.modDie_keeps_streams (s : State) (d : DieId) {f : RingDie → RingDie} (h : (f (s.die d)).bays = (s.die d).bays) :
    s.Keeps RingDie.streams (s.modDie d f) :=
  s.modDie_keeps d (congrArg (Vector.map Bay.streams) h)

@[simp] theorem State.noteLow_bay (s : State) (d : DieId) (b : BayId) : (s.modDie d RingDie.noteLow).bay b = s.bay b := by
  have hbays := s.modDie_keeps (π := RingDie.bays) d (RingDie.noteLow_bays (s.die d)) b.die
  simp only [State.bay, hbays]

theorem State.writeLoft_keeps_streams (s : State) (d : DieId) (a : Nat) (l : List Byte) :
    s.Keeps RingDie.streams (s.writeLoft d a l) := s.modDie_keeps_streams d rfl

theorem State.countRing_stream (s : State) (d : DieId) (i n : Nat) (b : BayId) (k : SlotIx) :
    (s.countRing d i n).stream b k = s.stream b k := by
  rw [State.stream, State.countRing_bay, State.stream]

end Sys2Proof.Machine

/-! PROOFS. The commands of the FETCH queue, and the raise of an epoch (R117, R118, R124, R134, R140). -/

namespace Sys2Proof.Machine

/-! ## Descriptors read from a ring (R126, R130) -/

/-- What a read of one posted descriptor does to its stream: the descriptor joins, and those appended behind it. -/
def Stream.readDesc (t : Stream) (d : FetchDesc) : Stream :=
  ({ t with fetched := t.fetched + 1, nextIdent := t.nextIdent + 1, descs := t.descs ++ [d] }).joinAppended

/-- The descriptor at the place in the ring that is read next, checked (R126, R129). -/
def State.postedDesc (s : State) (b : BayId) (k : SlotIx) : FetchDesc :=
  let t := s.stream b k
  let d := parseDesc t.nextIdent
    ((s.bay b).dmem.read (t.conf.ringBase.toNat + 64 * (t.fetched % 2 ^ t.conf.ringLog2.toNat)) 64)
  { d with wellFormed := s.descGood b k d }

theorem State.readStreamDesc_eq (s : State) (b : BayId) (k : SlotIx) :
    s.readStreamDesc b k = s.modStream b k fun t => t.readDesc (s.postedDesc b k) := rfl

/-- A stream that has read `n` descriptors from its ring, with the descriptors that it then holds and those appended behind the
ring that still wait. -/
def Stream.readOn (t : Stream) (n : Nat) (descs : List FetchDesc) (appended : List (Nat × FetchDesc)) : Stream :=
  { t with fetched := t.fetched + n, nextIdent := t.nextIdent + n, descs := descs, appended := appended }

/-- Reading `n` posted descriptors changes their stream alone, and leaves none of the appended ones that was due. -/
theorem State.readDescs_eq (s : State) (b : BayId) (k : SlotIx) (n : Nat) :
    ∃ (descs : List FetchDesc) (appended : List (Nat × FetchDesc)),
      Nat.repeat (fun s => s.readStreamDesc b k) n s = s.modStream b k (fun t => t.readOn n descs appended) ∧
      ∀ y ∈ appended, y ∈ (s.stream b k).appended ∧ (0 < n → (s.stream b k).fetched + n < y.1) := by
  induction n with
  | zero =>
    exact ⟨(s.stream b k).descs, (s.stream b k).appended, (s.modStream_eq_self b k rfl).symm, fun y hy => ⟨hy, nofun⟩⟩
  | succ n ih =>
    obtain ⟨descs, appended, hread, hdue⟩ := ih
    let u := ((s.stream b k).readOn n descs appended).readDesc
      ((s.modStream b k fun t => t.readOn n descs appended).postedDesc b k)
    refine ⟨u.descs, u.appended, ?_, fun y hy => ?_⟩
    · rw [Nat.repeat, hread, State.readStreamDesc_eq, State.modStream_modStream]
      exact s.modStream_congr b k rfl
    · obtain ⟨hy, hlate⟩ := List.mem_filter.mp hy
      have hlate : ¬y.1 ≤ (s.stream b k).fetched + n + 1 := of_decide_eq_false ((Bool.not_eq_true' _).mp hlate)
      exact ⟨(hdue y hy).1, fun _ => by omega⟩

/-! ## What the raise of an epoch leaves of the streams and the stacks (R140) -/

/-- The stacks and one stream are as they were. -/
def State.SparesStream (s : State) (b : BayId) (k : SlotIx) (t : State) : Prop :=
  t.sills = s.sills ∧ t.stream b k = s.stream b k

section Spares

variable {b c : BayId} {k j : SlotIx}

theorem State.SparesStream.refl (s : State) (b : BayId) (k : SlotIx) : s.SparesStream b k s := ⟨rfl, rfl⟩

theorem State.SparesStream.trans {s t u : State} (h : s.SparesStream b k t) (g : t.SparesStream b k u) :
    s.SparesStream b k u := ⟨g.1.trans h.1, g.2.trans h.2⟩

theorem State.Keeps.spares {s t : State} (h : s.Keeps RingDie.streams t) (hs : t.sills = s.sills) (b : BayId) (k : SlotIx) :
    s.SparesStream b k t := ⟨hs, h.stream b k⟩

theorem State.modStream_spares (s : State) (f : Stream → Stream) (h : (c, j) ≠ (b, k)) :
    s.SparesStream b k (s.modStream c j f) := ⟨rfl, s.modStream_ne f h⟩

theorem State.noteLow_spares (s : State) (d : DieId) (b : BayId) (k : SlotIx) :
    s.SparesStream b k (s.modDie d RingDie.noteLow) :=
  (s.modDie_keeps_streams d (RingDie.noteLow_bays _)).spares rfl b k

theorem State.takeBuffer_spares {s t : State} {scale : Bool} {n : Nat} (h : (c, j) ≠ (b, k))
    (ht : s.takeBuffer c j scale n = some t) : s.SparesStream b k t := by
  obtain ⟨-, ht⟩ := Option.ite_none_right_eq_some.mp ht
  rw [← Option.some.inj ht]
  exact (State.modStream_spares (State.takeFree s).2 _ h).trans (State.noteLow_spares _ _ _ _)

theorem State.takeMany_spares {s t : State} {scale : Bool} {n : Nat} (h : (c, j) ≠ (b, k))
    (ht : State.takeMany scale n s c j = .ok t) : s.SparesStream b k t := by
  induction n generalizing s with
  | zero => cases ht; exact .refl ..
  | succ n ih =>
    rw [State.takeMany] at ht
    split at ht
    · cases ht
    · next u hu => exact (State.takeBuffer_spares h hu).trans (ih ht)

theorem State.tryGrant_spares (s : State) (h : (c, j) ≠ (b, k)) : s.SparesStream b k (s.tryGrant c j) := by
  unfold State.tryGrant
  dsimp only
  split
  · exact .refl ..
  · split
    · exact .refl ..
    · split
      · exact s.modStream_spares _ h
      · next t ht =>
        cases he : State.takeMany false _ s c j with
        | error => rw [he] at ht; cases ht
        | ok u =>
          rw [he] at ht
          exact ((State.takeMany_spares h he).trans (State.takeMany_spares h ht)).trans (State.modStream_spares _ _ h)

/-- A stream that no multicast names stays as it is when the requests of a die are looked at. -/
theorem State.tryGrants_spares (s : State) (d : DieId) (b : BayId) (k : SlotIx) (h : (s.stream b k).mcTargets = []) :
    s.SparesStream b k (s.tryGrants d) := by
  refine List.foldlRecOn _ _ (.refl s b k) fun t ht x hx => ?_
  simp only [RingDie.allStreams, List.mem_flatMap, List.mem_map, List.mem_finRange, true_and] at hx
  obtain ⟨i, j, rfl⟩ := hx
  by_cases hself : ((⟨d, i⟩ : BayId), j) = (b, k)
  · cases hself
    have hempty : ((s.die d).bays[i].streams[k]).mcTargets.isEmpty = true := List.isEmpty_iff.mpr h
    simpa only [hempty, if_true] using ht
  · exact ite_both ht (ht.trans (t.tryGrant_spares hself))

theorem State.reportDesc_spares (s : State) (d : FetchDesc) (st : Status) :
    s.SparesStream b k (s.reportDesc c j d st) := by
  have hcount (t : State) (i : Nat) : t.SparesStream b k (t.countRing c.die i) := ⟨rfl, t.countRing_stream ..⟩
  have hdone (t : State) : t.SparesStream b k (t.modBay c fun y => y.countDone d.counter st) :=
    (t.modBay_keeps_streams c rfl).spares rfl b k
  have hreport (t : State) (r : Report) : t.SparesStream b k (t.report r) := by
    rw [t.report_eq r]
    exact .refl ..
  unfold State.reportDesc
  dsimp only
  have hbad := ite_both (c := st = .badDescriptor) (hcount s 0x58) (.refl s b k)
  have hquiet := hbad.trans (ite_both (c := ((st = .done || st = .doneFlagged || st = .cancelled) && !d.complete) = true)
    (.refl ..) (hdone _))
  exact ite_both (hquiet.trans (hreport _ _)) hquiet

end Spares

/-! ## What a raise does to its own stream (R140) -/

@[simp] theorem State.writeRanges_nil (s : State) (bytes : List Byte) : s.writeRanges [] bytes = s := by
  unfold State.writeRanges
  rfl

theorem State.writeRanges_only (s : State) (ranges : List (Nat × Nat)) (bytes : List Byte) :
    OnlySillsAndJob s (s.writeRanges ranges bytes) := by
  induction ranges generalizing s bytes with
  | nil =>
    unfold State.writeRanges
    exact .refl s
  | cons x rest ih =>
    obtain ⟨a, n⟩ := x
    unfold State.writeRanges
    exact ((s.writeMem_only a _).toSillsAndJob.trans (State.gradCheck_only _ a n)).trans (ih _ _)

theorem OnlySillsAndJob.keeps {α : Type} {s t : State} (h : OnlySillsAndJob s t) (π : RingDie → α) : s.Keeps π t :=
  State.keeps_of_dies π h.frame.1

theorem State.finishStore_keeps_streams (s : State) (b : BayId) (k : SlotIx) (d : FetchDesc) (f : Transfer) :
    s.Keeps RingDie.streams (s.finishStore b k d f) := by
  unfold State.finishStore
  dsimp only
  generalize hp : List.foldl _ _ _ = p
  have hkeeps : s.Keeps RingDie.streams p.1 := by
    rw [← hp]
    refine List.foldlRecOn (motive := fun p : State × Nat × List Byte => s.Keeps RingDie.streams p.1) _ _ (.refl _ s)
      fun ⟨u, m, l⟩ hu x _ => ?_
    have h := (u.writeRanges_only [x] l).keeps RingDie.streams
    generalize u.writeRanges [x] l = v at h
    split
    · exact State.Keeps.trans hu h
    · exact hu
  exact hkeeps.trans (p.1.modDie_keeps_streams _ rfl)

/-- Store transfers that finish leave all of their stream but the list of transfers. -/
theorem State.finishStores_stream (s : State) (b : BayId) (k : SlotIx) :
    ∃ flights, (s.finishStores b k).stream b k = { s.stream b k with flights := flights } := by
  unfold State.finishStores
  dsimp only
  split
  · refine ⟨[], ?_⟩
    rw [State.modStream_self]
    generalize hu : List.foldl _ _ _ = u
    have hkeeps : s.Keeps RingDie.streams u := by
      rw [← hu]
      refine List.foldlRecOn _ _ (.refl _ s) fun t ht f _ => ?_
      split
      · exact ite_both (ht.trans (t.finishStore_keeps_streams b k _ f)) ht
      · exact ht
    rw [hkeeps.stream]
  · exact ⟨(s.stream b k).flights, rfl⟩

/-- A stream with no multicast has no target to send an ABORT to. -/
theorem State.sendAborts_of_nil (s : State) (b : BayId) (k : SlotIx) (h : (s.stream b k).mcasts = []) :
    s.sendAborts b k = s := by
  simp [State.sendAborts, h]

theorem State.withdrawRequests_of_nil (s : State) (b : BayId) (k : SlotIx) (h : (s.stream b k).mcasts = []) (m : SillId)
    (q : SillRequest) (hq : q ∈ ((s.withdrawRequests b k).sill m).requests) : q.stream ≠ streamNumber b k := by
  simp only [State.withdrawRequests, State.sill, Fin.getElem_fin, Vector.getElem_map, h, List.any_nil, Bool.or_false,
    List.mem_filter, Bool.not_eq_true', decide_eq_false_iff_not] at hq
  exact hq.2

/-- The stream as a raise leaves it, where `t` is the stream as the raise found it and `now` is board time. -/
def Stream.raised (t : Stream) (now : DWord) (v : Stream) : Stream :=
  let u := v.dropBuffers fun x => !(x.filled && x.inUse)
  { u with
    epoch := u.epoch + 1
    descs := u.descs.filter fun d => t.keepsDesc d
    flights := (u.flights.filter fun f => t.keepsFlight f || f.begun).map fun f =>
      if t.keepsFlight f then f else { f with sills := [] }
    mcasts := u.mcasts.filter fun m => m.committed
    nextDrain := u.nextElem
    waitsFor := none
    anchor := now
    bytes := (u.buffers.map Buffer.bytes).sum }

/-- A raise reads what is posted, ends what is under way, changes the stream, and then looks at what else waits. -/
theorem State.raiseEpoch_eq (s : State) (b : BayId) (k : SlotIx) :
    let u := Nat.repeat (fun s => s.readStreamDesc b k) ((s.stream b k).posted - (s.stream b k).fetched) s
    s.raiseEpoch b k = ((u.stream b k).descs.filter fun d => !(u.stream b k).keepsDesc d).foldl
      (fun s d => s.reportDesc b k d .cancelled)
      ((((((u.finishStores b k).sendAborts b k).withdrawRequests b k).modStream b k ((u.stream b k).raised u.now)).modDie b.die
        RingDie.noteLow).tryGrants b.die) := rfl

/-- A raise on a stream that no multicast goes out from or comes in to: the stacks are as after the requests are withdrawn, and
the stream is as it was read but for what a raise changes. -/
theorem State.raiseEpoch_stream (s : State) (b : BayId) (k : SlotIx) (hm : (s.stream b k).mcasts = [])
    (ht : (s.stream b k).mcTargets = []) :
    ∃ (u : State) (descs : List FetchDesc) (appended : List (Nat × FetchDesc)) (now : DWord) (flights : List Transfer),
    let n := (s.stream b k).posted - (s.stream b k).fetched
    let t := (s.stream b k).readOn n descs appended
    (u.stream b k).mcasts = [] ∧ (s.raiseEpoch b k).sills = (u.withdrawRequests b k).sills ∧
    (s.raiseEpoch b k).stream b k = t.raised now { t with flights := flights } ∧
    ∀ y ∈ appended, y ∈ (s.stream b k).appended ∧ (0 < n → (s.stream b k).fetched + n < y.1) := by
  obtain ⟨descs, appended, hread, hdue⟩ := s.readDescs_eq b k ((s.stream b k).posted - (s.stream b k).fetched)
  let r := s.modStream b k fun t => t.readOn ((s.stream b k).posted - (s.stream b k).fetched) descs appended
  have hr : r.stream b k = _ := s.modStream_self b k _
  obtain ⟨flights, hflights⟩ := r.finishStores_stream b k
  have hnone : ((r.finishStores b k).stream b k).mcasts = [] := by
    rw [hflights, hr]
    exact hm
  let v := ((r.finishStores b k).withdrawRequests b k).modStream b k ((r.stream b k).raised r.now)
  have hv : v.stream b k = (r.stream b k).raised r.now ((r.finishStores b k).stream b k) := State.modStream_self ..
  have hspares : v.SparesStream b k (s.raiseEpoch b k) := by
    rw [s.raiseEpoch_eq, hread, State.sendAborts_of_nil _ b k hnone]
    have hlow := v.noteLow_spares b.die b k
    refine List.foldlRecOn _ _ (hlow.trans (State.tryGrants_spares _ _ _ _ ?_)) fun w hw d _ =>
      hw.trans (w.reportDesc_spares d _)
    rw [hlow.2, hv, hflights, hr]
    exact ht
  refine ⟨r.finishStores b k, descs, appended, r.now, flights, hnone, hspares.1, ?_, hdue⟩
  rw [hspares.2, hv, hflights, hr]

/-- A stream without multicasts keeps no descriptor at a raise. -/
theorem Stream.raised_descs {t : Stream} (h : t.mcasts = []) (now : DWord) (v : Stream) : (t.raised now v).descs = [] :=
  List.filter_eq_nil_iff.mpr fun d _ => by simp [Stream.keepsDesc, h]

/-- The buffers that stay are filled and in use. -/
theorem Stream.mem_raised_buffers {t v : Stream} {now : DWord} {x : Buffer} (h : x ∈ (t.raised now v).buffers) :
    x.filled = true ∧ x.inUse = true ∧ x ∈ v.buffers := by
  obtain ⟨hx, hkept⟩ := List.mem_filter.mp h
  simp only [Bool.not_not, Bool.and_eq_true] at hkept
  exact ⟨hkept.1, hkept.2, hx⟩

/-! ## Each FETCH command at a free engine (R117, R118) -/

section FetchQueue

variable {s : State} {c : CmdHead}

/-- A free engine runs a FETCH command whose conditions hold. -/
theorem State.takeCmd_fetch {cmd : EngineCmd} {run : State → State × Status} {t : State} (hf : engineFree s c .fetch)
    (hrun : run s = (t, .done)) : s.takeCmd c .fetch cmd true true run = running t c .fetch cmd .done := by
  rw [State.takeCmd_runs cmd run hf (by decide) rfl rfl rfl, hrun]

theorem exec_fetchOpen_opens {f : OpenFields} (hf : engineFree s c .fetch) (h : s.openGood c.bay f = true) :
    exec (.fetchOpen c f) s = .next (running (s.openStream c.bay f) c .fetch (.fetchOpen f) .done) :=
  congrArg Host.Outcome.next (State.takeCmd_fetch hf (if_pos h))

theorem exec_fetchPost_posts {k : BitVec 6} {n : BitVec 10} (hf : engineFree s c .fetch)
    (h : (s.stream c.bay (slotOf k)).isOpen = true ∧ (s.stream c.bay (slotOf k)).conf.mode ≠ 2 ∧ 1 ≤ n.toNat ∧
      n.toNat ≤ 512) :
    exec (.fetchPost c k n) s = .next (running (s.modStream c.bay (slotOf k) fun t =>
      { t with posted := t.posted + n.toNat }) c .fetch (.fetchPost k n) .done) :=
  congrArg Host.Outcome.next (State.takeCmd_fetch hf (if_pos h))

theorem exec_fetchStart_starts {k : BitVec 6} (delay : Word) (hf : engineFree s c .fetch)
    (h : (s.stream c.bay (slotOf k)).isOpen = true) :
    exec (.fetchStart c k delay) s = .next (running (s.modStream c.bay (slotOf k) fun t =>
      { t with anchor := s.now + delay.zeroExtend 64 }) c .fetch (.fetchStart k delay) .done) :=
  congrArg Host.Outcome.next (State.takeCmd_fetch hf (if_pos h))

theorem exec_fetchRelease_releases {k : BitVec 6} {scale : Bool} {n : BitVec 14} (hf : engineFree s c .fetch)
    (h : (s.stream c.bay (slotOf k)).isOpen = true ∧ n ≠ 0 ∧
      (s.stream c.bay (slotOf k)).canRelease scale n.toNat = true) :
    exec (.fetchRelease c k scale n) s =
      .next (running (s.release c.bay (slotOf k) scale n.toNat) c .fetch (.fetchRelease k scale n) .done) :=
  congrArg Host.Outcome.next (State.takeCmd_fetch hf (if_pos h))

theorem exec_fetchCancel_raises {k : BitVec 6} (hf : engineFree s c .fetch) (h : (s.stream c.bay (slotOf k)).isOpen = true) :
    exec (.fetchCancel c k) s = .next (running (s.raiseEpoch c.bay (slotOf k)) c .fetch (.fetchCancel k) .done) :=
  congrArg Host.Outcome.next (State.takeCmd_fetch hf (if_pos h))

theorem exec_fetchClose_raises {k : BitVec 6} (hf : engineFree s c .fetch) (h : (s.stream c.bay (slotOf k)).isOpen = true) :
    exec (.fetchClose c k) s = .next (running ((s.raiseEpoch c.bay (slotOf k)).modStream c.bay (slotOf k) fun t =>
      { t with closing := true }) c .fetch (.fetchClose k) .done) :=
  congrArg Host.Outcome.next (State.takeCmd_fetch hf (if_pos h))

end FetchQueue

/-- A command that begins to run leaves the streams. -/
theorem running_stream (s : State) (c : CmdHead) (q : QueueIx) (cmd : EngineCmd) (st : Status) (b : BayId) (k : SlotIx) :
    (running s c q cmd st).stream b k = s.stream b k :=
  State.Keeps.stream (s.modBay_keeps_streams c.bay rfl) b k

/-- An opened slot has the fields of its OPEN, the time of it as its anchor, and nothing of the stream before but its epoch, the
count of its descriptors and the requests of its own source. -/
theorem State.openStream_stream (s : State) (b : BayId) (f : OpenFields) :
    (s.openStream b f).stream b (slotOf f.stream) = {
      isOpen := true, conf := f, anchor := s.clk.boardTime, epoch := (s.stream b (slotOf f.stream)).epoch
      nextIdent := (s.stream b (slotOf f.stream)).nextIdent
      mcTargets := (s.stream b (slotOf f.stream)).mcTargets.filter fun m => f.mode = 2 && m.source = f.source } :=
  (State.noteLow_spares _ _ _ _).2.trans (s.modStream_self b _ _)

/-- Time and delay add modulo 2^64. -/
theorem boardTime_add_delay (t : DWord) (delay : Word) : t + delay.zeroExtend 64 = BitVec.ofNat 64 (t.toNat + delay.toNat) := by
  apply BitVec.eq_of_toNat_eq
  simp

/-! ## The obligation -/

/-- Settles O13: each command is what a free engine runs (`takeCmd_fetch`), with what its slot then is; the raise by
`raiseEpoch_stream`, `withdrawRequests_of_nil` and what `Stream.raised` keeps. -/
theorem fetchQueueCommandsTakeEffect : Obligations.FetchQueueCommandsTakeEffect := by
  unfold Obligations.FetchQueueCommandsTakeEffect
  refine ⟨fun s c k hf => ⟨fun f hk hgood => ?_, fun n ho hm h1 h512 => exec_fetchPost_posts hf ⟨ho, hm, h1, h512⟩,
    fun delay ho => ?_, fun scale n ho hn hr => exec_fetchRelease_releases hf ⟨ho, hn, hr⟩,
    fun ho => ⟨exec_fetchCancel_raises hf ho, exec_fetchClose_raises hf ho⟩⟩, fun s b k hm ht happ => ?_⟩
  · subst hk
    have hopen := (running_stream (s.openStream c.bay f) c .fetch (.fetchOpen f) .done c.bay (slotOf f.stream)).trans
      (s.openStream_stream c.bay f)
    refine ⟨_, exec_fetchOpen_opens hf hgood, congrArg Stream.isOpen hopen, congrArg Stream.conf hopen,
      congrArg Stream.anchor hopen, congrArg Stream.buffers hopen, (congrArg Stream.epoch hopen :),
      running_queue _ c .fetch _ _⟩
  · rw [exec_fetchStart_starts delay hf ho, boardTime_add_delay]
    rfl
  · obtain ⟨u, descs, appended, now, flights, hu, hsills, hstream, hdue⟩ := s.raiseEpoch_stream b k hm ht
    have hnone : appended = [] := by
      refine List.eq_nil_iff_forall_not_mem.mpr fun y hy => ?_
      obtain ⟨hmem, hlate⟩ := hdue y hy
      rcases happ with hnil | ⟨hposted, hin⟩
      · exact List.not_mem_nil (hnil ▸ hmem)
      · have := hin y hmem
        have := hlate (by omega)
        omega
    refine ⟨?_, ?_, ?_, fun x hx => ?_, fun m q hq => ?_⟩
    · rw [hstream]
      rfl
    · rw [hstream]
      exact Stream.raised_descs hm _ _
    · rw [hstream, ← hnone]
      rfl
    · rw [hstream] at hx
      exact (Stream.mem_raised_buffers hx :)
    · rw [State.sill, hsills] at hq
      exact u.withdrawRequests_of_nil b k hu m q hq

end Sys2Proof.Machine

/-! PROOFS. Posted descriptors are read in batches, and transfers are issued (R126 to R133). -/

namespace Sys2Proof.Machine

/-! ## DESCRIPTOR_BATCH (R130) -/

theorem exec_descriptorBatch_reads {s : State} {b : BayId} {k : SlotIx} (ho : (s.stream b k).isOpen = true)
    (hp : (s.stream b k).fetched < (s.stream b k).posted) (hl : (s.stream b k).descs.length ≤ 16) :
    exec (.descriptorBatch b k) s = .next (((Nat.repeat (fun s => s.readStreamDesc b k)
      (min 16 ((s.stream b k).posted - (s.stream b k).fetched)) s).countRing b.die 0x57).settleStores b k) :=
  congrArg Host.Outcome.next (if_pos ⟨ho, hp, by omega⟩)

theorem exec_descriptorBatch_skips {s : State} {b : BayId} {k : SlotIx}
    (h : (s.stream b k).isOpen = false ∨ (s.stream b k).posted ≤ (s.stream b k).fetched ∨ 16 < (s.stream b k).descs.length) :
    exec (.descriptorBatch b k) s = .next s := by
  refine congrArg Host.Outcome.next (if_neg fun ⟨ho, hp, hl⟩ => ?_)
  rcases h with h | h | h
  · exact Bool.false_ne_true (h.symm.trans ho)
  · omega
  · omega

/-- A batch of `n` descriptors and its count: of the die only counters and that stream differ. -/
theorem State.readBatch_frame (s : State) (b : BayId) (k : SlotIx) (n : Nat) :
    let x := (Nat.repeat (fun s => s.readStreamDesc b k) n s).countRing b.die 0x57
    (x.stream b k).fetched = (s.stream b k).fetched + n ∧ (x.stream b k).posted = (s.stream b k).posted ∧
      (x.die b.die).loft = (s.die b.die).loft ∧ (x.bay b).dmem = (s.bay b).dmem ∧
      ∀ j : SlotIx, j ≠ k → x.stream b j = s.stream b j := by
  obtain ⟨descs, appended, hread, -⟩ := s.readDescs_eq b k n
  dsimp only
  simp only [hread, State.countRing_stream, State.countRing_bay, State.countRing_die_self, State.modStream_self]
  refine ⟨rfl, rfl, s.modStream_loft b k _ b.die, by rw [State.modStream_bay], fun j hj => ?_⟩
  exact s.modStream_ne _ fun e => hj (congrArg Prod.snd e).symm

/-- One descriptor read with none appended behind it joins the others. -/
theorem State.readBatch_one (s : State) (b : BayId) (k : SlotIx) (happ : (s.stream b k).appended = []) :
    (((Nat.repeat (fun s => s.readStreamDesc b k) 1 s).countRing b.die 0x57).stream b k).descs =
      (s.stream b k).descs ++ [s.postedDesc b k] := by
  rw [State.countRing_stream, Nat.repeat, Nat.repeat, State.readStreamDesc_eq, State.modStream_self]
  simp [Stream.readDesc, Stream.joinAppended, happ]

/-! ## TRANSFER_ISSUE (R131, R133) -/

section Issue

variable {s u : State} {b : BayId} {k : SlotIx}

theorem exec_transferIssue_issues {d : FetchDesc} (hu : s.settleStores b k = u) (ho : (u.stream b k).isOpen = true)
    (hm : (u.stream b k).conf.mode ≠ 2) (hp : ((u.stream b k).flights.any fun f => !f.sills.isEmpty) = false)
    (hn : u.nextDesc (u.stream b k).descs = (some d, false)) :
    exec (.transferIssue b k) s = .next (u.issuePart b k d) := by
  show execTransferIssue b k s = _
  simp only [execTransferIssue, hu, ho, hp, hn, hm, ne_eq, not_false_eq_true, Bool.false_eq_true, and_self, if_true]

theorem exec_transferIssue_gated (hu : s.settleStores b k = u) (ho : (u.stream b k).isOpen = true)
    (hm : (u.stream b k).conf.mode ≠ 2) (hp : ((u.stream b k).flights.any fun f => !f.sills.isEmpty) = false)
    (hn : u.nextDesc (u.stream b k).descs = (none, true)) :
    exec (.transferIssue b k) s = .next (u.countRing b.die 0x56) := by
  show execTransferIssue b k s = _
  simp only [execTransferIssue, hu, ho, hp, hn, hm, ne_eq, not_false_eq_true, Bool.false_eq_true, and_self, if_true]

theorem exec_transferIssue_skips (hu : s.settleStores b k = u)
    (h : ((u.stream b k).flights.any fun f => !f.sills.isEmpty) = true ∨ (u.stream b k).isOpen = false ∨
      (u.stream b k).conf.mode = 2) : exec (.transferIssue b k) s = .next u := by
  show execTransferIssue b k s = _
  simp only [execTransferIssue, hu]
  refine congrArg Host.Outcome.next (if_neg ?_)
  rintro ⟨ho, hm, hp⟩
  rcases h with h | h | h
  · exact hp h
  · exact Bool.false_ne_true (h.symm.trans ho)
  · exact hm h

theorem State.sendRequest_dies (s : State) (b : BayId) (k : SlotIx) (f : Transfer) : (s.sendRequest b k f).dies = s.dies :=
  List.foldlRecOn (motive := fun t : State => t.dies = s.dies) f.sills _ rfl fun _ h _ _ => h

/-- A transfer that is issued joins the end of its stream's list, with the dry time that it goes out with. -/
theorem State.launch_flights (s : State) (b : BayId) (k : SlotIx) (d : FetchDesc) (f : Transfer) (dry : Option DWord) :
    ∃ at' : DWord, let l := ((s.launch b k d f dry).stream b k).flights
      l.length = (s.stream b k).flights.length + 1 ∧ l.getLast? = some { f with dry := at' } := by
  let v := s.modStream b k fun t => ({ t with flights := t.flights ++ [f] }).modDesc d.ident fun x =>
    if f.isTable then { x with started := true } else { x with issued := x.issued + 1, started := true }
  let f' : Transfer := { f with dry := dry.getD (v.stream b k).requestDry }
  have hflights : ((s.launch b k d f dry).stream b k).flights =
      ((s.stream b k).flights ++ [f]).map fun x => if x = f then f' else x := by
    have hsent := (State.keeps_of_dies RingDie.streams (State.sendRequest_dies
      (v.modStream b k fun t => { t with flights := t.flights.map fun x => if x = f then f' else x }) b k f')).stream b k
    refine (congrArg Stream.flights hsent).trans ?_
    rw [State.modStream_self, State.modStream_self]
    rfl
  exact ⟨f'.dry, by rw [hflights]; simp, by rw [hflights]; simp [f']⟩

/-- A part of an index table goes out whatever is in flight (R127). -/
theorem State.issuePart_table {d : FetchDesc} (h : d.tableRead < d.tableNeeded d.issued) :
    ∃ f : Transfer, u.issuePart b k d = u.launch b k d f none ∧ f.isTable = true ∧ f.ident = d.ident ∧ f.part = d.tableRead ∧
      f.epoch = (u.stream b k).epoch :=
  ⟨_, if_pos h, rfl, rfl, rfl, rfl⟩

theorem State.issuePart_full {d : FetchDesc} (h : d.tableNeeded d.issued ≤ d.tableRead)
    (hfull : (u.stream b k).conf.outstanding.toNat ≤ (u.stream b k).flights.countP fun f => !f.isTable) :
    u.issuePart b k d = u :=
  (if_neg (Nat.not_lt.mpr h)).trans (if_pos hfull)

theorem State.issuePart_static {d : FetchDesc} (h : d.tableNeeded d.issued ≤ d.tableRead)
    (hroom : ((u.stream b k).flights.countP fun f => !f.isTable) < (u.stream b k).conf.outstanding.toNat)
    (hs : d.isStatic = true) (hm : d.multicast = false) :
    ∃ f : Transfer, u.issuePart b k d = u.launch b k d f none ∧ f.isTable = false ∧ f.ident = d.ident ∧ f.part = d.issued ∧
      f.epoch = (u.stream b k).epoch ∧ f.sills = u.rangeSills (d.partRanges d.issued) := by
  have hcast : ¬d.multicast = true := by simp [hm]
  exact ⟨_, (if_neg (Nat.not_lt.mpr h)).trans ((if_neg (Nat.not_le.mpr hroom)).trans ((if_neg hcast).trans (if_pos hs))),
    rfl, rfl, rfl, rfl, rfl⟩

end Issue

/-! ## The obligation -/

/-- Settles O22: a batch by `readBatch_frame` and `readBatch_one`; an issue by what the next descriptor asks for
(`issuePart_table`, `issuePart_full`, `issuePart_static`) and `launch_flights`. -/
theorem descriptorsAreReadAndIssued : Obligations.DescriptorsAreReadAndIssued := by
  unfold Obligations.DescriptorsAreReadAndIssued
  refine ⟨fun s b k => ⟨fun ho hp hl => ?_, exec_descriptorBatch_skips⟩, fun s b k =>
    ⟨fun d ho hm hp hn => ?_, fun ho hm hp hn => ?_, fun h => ?_⟩⟩
  · obtain ⟨hfetched, hposted, hloft, hdmem, hothers⟩ :=
      s.readBatch_frame b k (min 16 ((s.stream b k).posted - (s.stream b k).fetched))
    refine ⟨_, exec_descriptorBatch_reads ho hp hl, hfetched.trans (by omega), hposted, hloft, hdmem, hothers,
      fun hone happ => ?_⟩
    have hn : min 16 ((s.stream b k).posted - (s.stream b k).fetched) = 1 := by omega
    rw [hn]
    exact s.readBatch_one b k happ
  · have hexec := exec_transferIssue_issues rfl ho hm hp hn
    refine ⟨fun htable => ?_, fun hread hfull => ?_, fun hread hroom hs hcast => ?_⟩
    · obtain ⟨f, hissue, htab, hident, hpart, hepoch⟩ :=
        State.issuePart_table (u := s.settleStores b k) (b := b) (k := k) htable
      obtain ⟨at', hlen, hlast⟩ := (s.settleStores b k).launch_flights b k d f none
      exact ⟨_, { f with dry := at' }, hexec.trans (congrArg _ hissue), hlen, hlast, htab, hident, hpart, hepoch⟩
    · exact hexec.trans (congrArg _ (State.issuePart_full hread hfull))
    · obtain ⟨f, hissue, htab, hident, hpart, hepoch, hsills⟩ := State.issuePart_static hread hroom hs hcast
      obtain ⟨at', hlen, hlast⟩ := (s.settleStores b k).launch_flights b k d f none
      exact ⟨_, { f with dry := at' }, hexec.trans (congrArg _ hissue), hlen, hlast, htab, hident, hpart, hepoch, hsills⟩
  · exact exec_transferIssue_gated rfl ho hm hp hn
  · exact exec_transferIssue_skips rfl h

end Sys2Proof.Machine

/-! PROOFS. A sill serves its requests, and served transfers land (R119, R131, R136, R140, R144, R152). -/

namespace Sys2Proof.Machine

/-! ## SILL_TRANSFER_START (R136, R152) -/

@[simp] theorem Sill.drainWriteBacks_requests (x : Sill) : x.drainWriteBacks.requests = x.requests := rfl
@[simp] theorem Sill.drainWriteBacks_writeBacks (x : Sill) : x.drainWriteBacks.writeBacks = [] := rfl
@[simp] theorem Sill.drainWriteBacks_dram (x : Sill) : x.drainWriteBacks.dram = x.dram := rfl

theorem exec_sillTransferStart_idle {s : State} {m : SillId} (found : List SectorEvent) (h : (s.sill m).requests = []) :
    exec (.sillTransferStart m found) s = .next (s.modSill m Sill.drainWriteBacks) := by
  show execSillTransferStart m found s = _
  simp only [execSillTransferStart, State.modSill_self, Sill.drainWriteBacks_requests, h, earliestRequest]

/-- The state in which a sill has written its corrective write-backs and taken a request from its list. -/
def State.requestStarted (s : State) (m : SillId) (q : SillRequest) : State :=
  (s.modSill m Sill.drainWriteBacks).modSill m fun x => { x with requests := x.requests.filter (· ≠ q) }

theorem exec_sillTransferStart_serves {s : State} {m : SillId} {q : SillRequest} {f : Transfer} {d : FetchDesc} {b : BayId}
    {k : SlotIx} (found : List SectorEvent) (hq : earliestRequest (s.sill m).requests = some q)
    (hbk : bayOfStream q.stream = (b, k))
    (hf : ((s.stream b k).flights.find? fun f => f.ident = q.ident && f.part = q.part && f.sills.contains m) = some f)
    (hd : ((s.stream b k).descs.find? fun d => d.ident = q.ident) = some d) :
    exec (.sillTransferStart m found) s = .next ((s.requestStarted m q).serveTransfer m b k d f found) := by
  have hstream : (s.requestStarted m q).stream b k = s.stream b k := rfl
  show execSillTransferStart m found s = _
  simp only [execSillTransferStart, State.modSill_self, Sill.drainWriteBacks_requests, hq, hbk]
  rw [State.requestStarted] at hstream ⊢
  rw [hstream, hf, hd]

/-- Of the module only that stack differs: in its requests, its write-backs and its counters. -/
theorem State.requestStarted_frame (s : State) (m : SillId) (q : SillRequest) :
    let x := s.requestStarted m q
    (∀ p : SillRequest, p ∈ (x.sill m).requests ↔ p ∈ (s.sill m).requests ∧ p ≠ q) ∧ (x.sill m).writeBacks = [] ∧
      (x.sill m).dram = (s.sill m).dram ∧ x.dies = s.dies ∧ ∀ n : SillId, n ≠ m → x.sill n = s.sill n := by
  have hm : (s.requestStarted m q).sill m = { (s.sill m).drainWriteBacks with
      requests := (s.sill m).requests.filter (· ≠ q) } := by
    rw [State.requestStarted, State.modSill_self, State.modSill_self]
    rfl
  refine ⟨fun p => by simp [hm], by simp [hm], by simp [hm], rfl, fun n hn => ?_⟩
  rw [State.requestStarted, State.modSill_ne _ _ _ _ hn.symm, State.modSill_ne _ _ _ _ hn.symm]

/-! ## The data of a transfer on its way (R85, R160) -/

section Carry

variable {α : Type} {π : RingDie → α} (hcount : ∀ r n, π { r with counters := n } = π r)
  (hrouters : ∀ r v, π { r with routers := v } = π r) (hbeats : ∀ r n, π { r with sillBeats := n } = π r)
include hcount hrouters hbeats

/-- The way from a stack to a loft changes of the dies on it their routers, their beats that wait, and their counters. -/
theorem State.routeBeats_keeps (s : State) (m : SillId) (d : DieId) (out : Bool) (n : Nat) :
    s.Keeps π (s.routeBeats m d out n) := by
  have hoffer (t : State) (e : DieId) (r : Fin 4) (inward : Bool) : t.Keeps π (t.offerBeats e r inward n) :=
    ite_both (t.countRing_keeps hcount e _ n) (t.modDie_keeps e (hrouters _ _))
  have hreserved (t : State) : t.Keeps π (t.reservedBeats d n) :=
    ite_both (t.countRing_keeps hcount d _ n) (t.modDie_keeps d (hbeats _ _))
  refine State.Keeps.trans ?_ (hreserved _)
  refine List.foldlRecOn _ _ (hoffer s _ _ _) fun t ht x _ => ?_
  dsimp only
  split
  · exact (ht.trans (hoffer t _ _ _)).trans (hoffer _ _ _ _)
  · exact ht.trans (hoffer t _ _ _)

theorem State.carryTransfer_keeps (s : State) (d : DieId) (out : Bool) (ranges : List (Nat × Nat)) :
    s.Keeps π (s.carryTransfer d out ranges) :=
  List.foldlRecOn _ _ (.refl π s) fun t ht m _ => ht.trans (t.routeBeats_keeps hcount hrouters hbeats m d out _)

end Carry

/-! ## TRANSFER_LAND (R119, R131, R140, R144) -/

/-- What a transfer delivers comes from the bytes of the stacks alone. -/
theorem State.partContent_congr {s t : State} (h : t.fetchByte = s.fetchByte) : t.partContent = s.partContent := by
  funext d zeroed part
  simp only [State.partContent, State.plankLines, State.tensorCode, h]

theorem OnlySillCounters.fetchByte {s t : State} (h : OnlySillCounters s t) : t.fetchByte = s.fetchByte := by
  obtain ⟨hrest, hsill⟩ := h
  have hdecode : t.decodeAddr = s.decodeAddr := by rw [hrest]; rfl
  have hdram (m : SillId) : (t.sill m).dram = (s.sill m).dram := by rw [hsill m]
  funext zeroed a
  simp only [State.fetchByte, hdecode, hdram]

/-- The state in which a transfer has left its stream's list, and its sills have counted it if it is late (R136). -/
def State.flightOff (s : State) (b : BayId) (k : SlotIx) (d : FetchDesc) (f : Transfer) : State :=
  let u := s.modStream b k fun t => t.dropFlight f
  if dryBefore f.dry s.now 0 0 then (u.rangeSills (d.partRanges f.part)).foldl (fun s m => s.countSill m 0x00) u else u

theorem State.flightOff_counters (s : State) (b : BayId) (k : SlotIx) (d : FetchDesc) (f : Transfer) :
    OnlySillCounters (s.modStream b k fun t => t.dropFlight f) (s.flightOff b k d f) := by
  have hrefl (u : State) : OnlySillCounters u u := ⟨rfl, fun _ => rfl⟩
  exact ite_both (List.foldlRecOn _ _ (hrefl _) fun t ht m _ => ht.trans (t.modSill_counters m _ fun _ => rfl)) (hrefl _)

section Land

variable {s : State} {b : BayId} {k : SlotIx}

theorem exec_transferLand_skips {n : Nat} (h : (s.stream b k).conf.mode = 1 ∨ (s.stream b k).served.length ≤ n) :
    exec (.transferLand b k n) s = .next s := by
  show execTransferLand b k n s = _
  rcases h with h | h
  · simp only [execTransferLand, h, if_true]
  · simp only [execTransferLand, List.getElem?_eq_none h, ite_self]

/-- A transfer whose descriptor is gone is dropped (R140). -/
theorem exec_transferLand_wastes {n : Nat} {f : Transfer} (hm : (s.stream b k).conf.mode ≠ 1)
    (hf : (s.stream b k).served[n]? = some f) (hgone : ∀ d ∈ (s.stream b k).descs, d.ident ≠ f.ident) :
    exec (.transferLand b k n) s = .next ((s.modStream b k fun t => t.dropFlight f).waste b.die f.bytes) := by
  have hnone : ((s.stream b k).descs.find? fun d => d.ident = f.ident) = none := by simpa using hgone
  show execTransferLand b k n s = _
  simp only [execTransferLand, hm, hf, hnone, if_false]

theorem exec_transferLand_lands {n : Nat} {f : Transfer} {d : FetchDesc} (hm : (s.stream b k).conf.mode ≠ 1)
    (hf : (s.stream b k).served[n]? = some f) (hd : ((s.stream b k).descs.find? fun d => d.ident = f.ident) = some d) :
    exec (.transferLand b k n) s = .next ((s.flightOff b k d f).landTransfer b k d f) := by
  show execTransferLand b k n s = _
  simp only [execTransferLand, hm, hf, hd, if_false]
  rfl

theorem State.waste_frame (u : State) (b : BayId) (k : SlotIx) (n : Nat) :
    (u.waste b.die n).stream b k = u.stream b k ∧ ((u.waste b.die n).die b.die).loft = (u.die b.die).loft :=
  ⟨(u.modDie_keeps_streams b.die rfl).stream b k, u.modDie_keeps (π := RingDie.loft) b.die rfl b.die⟩

@[simp] theorem Stream.modDesc_flights (t : Stream) (ident : Nat) (f : FetchDesc → FetchDesc) :
    (t.modDesc ident f).flights = t.flights := rfl

/-- A static transfer that lands is written to the loft at its destination, and its stream's transfers stay (R119, R131). -/
theorem State.landTransfer_static (u : State) (b : BayId) (k : SlotIx) {d : FetchDesc} (f : Transfer) (hs : d.isStatic = true)
    (hm : d.multicast = false) : ∃ x : State, u.landTransfer b k d f = x.settleStores b k ∧
      (x.die b.die).loft = (u.die b.die).loft.write (d.dest.toNat + 65536 * f.part) (u.partContent d f.zeroed f.part) ∧
      (x.stream b k).flights = (u.stream b k).flights := by
  let v := u.carryTransfer b.die false (d.partRanges f.part)
  let w := v.writeLoft b.die (d.dest.toNat + 65536 * f.part) (u.partContent d f.zeroed f.part)
  have hloft : u.Keeps RingDie.loft v :=
    u.carryTransfer_keeps (fun _ _ => rfl) (fun _ _ => rfl) (fun _ _ => rfl) b.die false _
  have hstreams : u.Keeps RingDie.streams v :=
    u.carryTransfer_keeps (fun _ _ => rfl) (fun _ _ => rfl) (fun _ _ => rfl) b.die false _
  refine ⟨(w.modDie b.die fun r => r.moveBytes 0 f.bytes).modStream b k fun t =>
    t.modDesc d.ident fun x => { x with landed := x.landed + 1 }, ?_, ?_, ?_⟩
  · simp only [State.landTransfer, hm, hs, Bool.false_eq_true, if_false, if_true]
    rfl
  · rw [State.modStream_loft, State.modDie_self, RingDie.moveBytes_loft, State.writeLoft_self, hloft b.die]
  · have hkeeps : u.Keeps RingDie.streams (w.modDie b.die fun r => r.moveBytes 0 f.bytes) :=
      (hstreams.trans (v.writeLoft_keeps_streams _ _ _)).trans (w.modDie_keeps_streams b.die (RingDie.moveBytes_bays _ _ _))
    rw [State.modStream_self, Stream.modDesc_flights, hkeeps.stream b k]

end Land

/-! ## The obligation -/

/-- Settles O23: the sill's side by `exec_sillTransferStart_serves` and `requestStarted_frame`; a landing by
`landTransfer_static`, of the content that the stacks held (`partContent_congr`). -/
theorem transfersAreServedAndLand : Obligations.TransfersAreServedAndLand := by
  unfold Obligations.TransfersAreServedAndLand
  refine ⟨fun s m found => ⟨exec_sillTransferStart_idle found, fun q f d b k hq hbk hf hd =>
      ⟨_, exec_sillTransferStart_serves found hq hbk hf hd, s.requestStarted_frame m q⟩⟩,
    fun s b k => ⟨fun n h => exec_transferLand_skips h, fun n f hm hf hgone => ?_, fun n f d hm hf hd hs hcast => ?_⟩⟩
  · obtain ⟨hstream, hloft⟩ := (s.modStream b k fun t => t.dropFlight f).waste_frame b k f.bytes
    rw [State.modStream_self] at hstream
    rw [State.modStream_loft] at hloft
    exact ⟨_, exec_transferLand_wastes hm hf hgone, congrArg Stream.flights hstream, hloft,
      (congrArg Stream.buffers hstream :)⟩
  · obtain ⟨x, hland, hloft, hflights⟩ := (s.flightOff b k d f).landTransfer_static b k f hs hcast
    have hoff := s.flightOff_counters b k d f
    have hdies : (s.flightOff b k d f).dies = (s.modStream b k fun t => t.dropFlight f).dies := by rw [hoff.1]
    refine ⟨x, (exec_transferLand_lands hm hf hd).trans (congrArg _ hland), ?_, ?_⟩
    · rw [hloft, State.partContent_congr hoff.fetchByte, State.die, hdies]
      exact congrArg₂ (Memory.write · _) (s.modStream_loft b k _ b.die) rfl
    · rw [hflights, (State.keeps_of_dies RingDie.streams hdies).stream b k, State.modStream_self]
      rfl

end Sys2Proof.Machine

/-! PROOFS. STORE and STORE_SECTOR_WRITTEN (R128, R129, R132, R133). -/

namespace Sys2Proof.Machine

/-! ## STORE (R128, R129) -/

section Store

variable {s : State} {c : CmdHead} {f : StoreFields}

theorem exec_store_static (hf : engineFree s c .store) (hs : f.isStatic = true)
    (hgood : s.staticStoreGood c.bay (storeDesc f 0 c.ctr) = true) :
    exec (.store c f) s = .next (running s c .store (.store f) .done) := by
  show execStore c f s = _
  rw [execStore, if_pos hs, State.takeCmd_runs _ _ hf (by decide) rfl rfl rfl, if_pos hgood]

/-- A STORE command that a stream takes over leaves its engine free. -/
theorem exec_store_joins (hf : engineFree s c .store) (hs : f.isStatic = false)
    (ho : (s.stream c.bay (slotOf f.stream)).isOpen = true) (hm : (s.stream c.bay (slotOf f.stream)).conf.mode = 1) :
    exec (.store c f) s = .next ((State.flushBad 64
      ((running (s.appendStore c.bay (slotOf f.stream) f c.ctr) c .store (.store f) .done).modQueue c.bay .store
        fun x => { x with running := none }) c.bay .store).settleFuncs c.bay) := by
  have hgood : ((s.stream c.bay (slotOf f.stream)).isOpen && (s.stream c.bay (slotOf f.stream)).conf.mode = 1) = true := by
    simp [ho, hm]
  obtain ⟨-, hnone, -, -⟩ := id hf
  show execStore c f s = _
  simp only [execStore, hs, Bool.false_eq_true, if_false, State.takeCmd_runs _ _ hf (by decide) rfl hgood rfl,
    running_queue, hnone, decide_true, Option.isNone_none, Bool.and_self, if_true]

/-- Behind descriptors that are posted and not yet read, the descriptor of a STORE waits; of the bay only its stream differs. -/
theorem State.appendStore_waits {b : BayId} {k : SlotIx} (f : StoreFields) (ctr : CtrIx)
    (h : (s.stream b k).fetched < (s.stream b k).posted) :
    let x := s.appendStore b k f ctr
    let d := storeDesc f (s.stream b k).nextIdent ctr
    (x.stream b k).appended =
      (s.stream b k).appended ++ [((s.stream b k).posted, { d with wellFormed := s.descGood b k d })] ∧
    (x.bay b).queue .store = (s.bay b).queue .store ∧ (x.bay b).funcWaiting = (s.bay b).funcWaiting := by
  have hbehind : ¬((s.stream b k).posted = (s.stream b k).fetched ∧ (s.stream b k).appended = []) := fun e => by omega
  simp only [State.appendStore, hbehind, if_false, State.modStream_modStream, State.modStream_self, State.modStream_bay]
  exact ⟨rfl, rfl, trivial⟩

/-- A STORE that has run and been taken over by its stream leaves the engine with no command; the streams and the requests for
functions stay. -/
theorem State.taken_frame (s : State) (c : CmdHead) (f : StoreFields) :
    let v := (running s c .store (.store f) .done).modQueue c.bay .store fun x => { x with running := none }
    (v.bay c.bay).queue .store = { (s.bay c.bay).queue .store with running := none } ∧
      (∀ k, v.stream c.bay k = s.stream c.bay k) ∧ (v.bay c.bay).funcWaiting = (s.bay c.bay).funcWaiting := by
  refine ⟨?_, fun k => ?_, ?_⟩
  · rw [State.modQueue_self, running, State.modQueue_self]
  · exact ((s.modBay_keeps_streams c.bay rfl).trans (State.modBay_keeps_streams _ c.bay rfl)).stream c.bay k
  · simp only [running, State.modQueue, State.modBay_self]
    rfl

theorem OnlyFuncs.stream {b : BayId} {s t : State} (h : OnlyFuncs b s t) (k : SlotIx) : t.stream b k = s.stream b k := by
  obtain ⟨fs, active, hbay⟩ := h.bay
  rw [State.stream, hbay]
  rfl

theorem OnlyFuncs.queue {b : BayId} {s t : State} (h : OnlyFuncs b s t) (q : QueueIx) :
    (t.bay b).queue q = (s.bay b).queue q := by
  obtain ⟨fs, active, hbay⟩ := h.bay
  rw [hbay]
  rfl

end Store

/-! ## STORE_SECTOR_WRITTEN (R128, R132, R133) -/

section Written

variable {s : State} {b : BayId}

theorem exec_storeSectorWritten_writes {k : SlotIx} {f : Transfer} {d : FetchDesc} (hr : (s.stream b k).ready = some f)
    (hd : ((s.stream b k).descs.find? fun d => d.ident = f.ident) = some d) (hm : (s.stream b k).conf.mode = 1) :
    exec (.storeSectorWritten b (some k)) s = .next (s.storeWritten b k d f) := by
  show execStoreSectorWritten b (some k) s = _
  simp only [execStoreSectorWritten, hr, hd, hm, if_true]

theorem exec_storeSectorWritten_unready {k : SlotIx} (hr : (s.stream b k).ready = none) :
    exec (.storeSectorWritten b (some k)) s = .next s := by
  show execStoreSectorWritten b (some k) s = _
  simp only [execStoreSectorWritten, hr]

theorem exec_storeSectorWritten_idle (hr : ((s.bay b).queue .store).running = none) :
    exec (.storeSectorWritten b none) s = .next s := by
  show execStoreSectorWritten b none s = _
  simp only [execStoreSectorWritten, hr]

theorem exec_storeSectorWritten_static {r : RunningCmd} {f : StoreFields} (hr : ((s.bay b).queue .store).running = some r)
    (hc : r.cmd = .store f) : exec (.storeSectorWritten b none) s =
      .next (if statusError r.status then s.finishRunning b .store r else s.staticStore b f r) := by
  show execStoreSectorWritten b none s = _
  simp only [execStoreSectorWritten, hr, hc]

/-- A static store whose gate is closed waits, and its wait is counted (R133). -/
theorem State.staticStore_gated {f : StoreFields} {r : RunningCmd} (hg : s.gateOpen (storeDesc f 0 r.ctr) = false) :
    s.staticStore b f r = s.countRing b.die 0x56 := by
  simp only [State.staticStore, hg, Bool.false_eq_true, if_false]

/-- A static store of no rows writes nothing and finishes. -/
theorem State.staticStore_empty {f : StoreFields} {r : RunningCmd} (hg : s.gateOpen (storeDesc f 0 r.ctr) = true)
    (h0 : f.rows = 0) :
    s.staticStore b f r = (s.modDie b.die fun x => x.moveBytes 1 0).finishRunning b .store r := by
  have hrows : (storeDesc f 0 r.ctr).rows.toNat = 0 := by simp [storeDesc, h0]
  have hbytes : (storeDesc f 0 r.ctr).totalBytes = 0 := by simp [FetchDesc.totalBytes, hrows]
  have hsectors : s.rangeSectors [] = [] := rfl
  have hread : s.readList [] [] false = (s, []) := rfl
  have hcarry : s.carryTransfer b.die true [] = s := rfl
  have hloft (a : Nat) : s.readLoft b.die a 0 = [] := rfl
  simp only [State.staticStore, hg, if_true, hrows, hbytes, List.range_zero, List.map_nil, hsectors, List.filter_nil,
    List.any_nil, hread, List.isEmpty_nil, hcarry, hloft, State.writeRanges_nil, List.length_nil, Bool.not_true, Bool.or_self,
    Bool.false_eq_true, if_false]

end Written

/-! ## The obligation -/

/-- Settles O24: a STORE by what a free engine does with it and `appendStore_waits`; a sector written by what the engine finds
in its stream or its queue. -/
theorem storesRunAndAreWritten : Obligations.StoresRunAndAreWritten := by
  unfold Obligations.StoresRunAndAreWritten
  refine ⟨fun s c f hf => ⟨exec_store_static hf, fun hs ho hm hp hw => ?_⟩,
    fun s b => ⟨fun k f d => exec_storeSectorWritten_writes, fun k => exec_storeSectorWritten_unready,
      exec_storeSectorWritten_idle, fun r f hr hc => ⟨fun he => ?_, fun he hg => ?_, fun he hg h0 => ?_⟩⟩⟩
  · obtain ⟨hwaits, hqueue, hfuncs⟩ := s.appendStore_waits (b := c.bay) (k := slotOf f.stream) f c.ctr hp
    have hexec := exec_store_joins hf hs ho hm
    generalize s.appendStore c.bay (slotOf f.stream) f c.ctr = x at hwaits hqueue hfuncs hexec
    obtain ⟨vqueue, vstream, vfuncs⟩ := x.taken_frame c f
    generalize (running x c .store (.store f) .done).modQueue c.bay .store _ = v at vqueue vstream vfuncs hexec
    obtain ⟨-, -, hwaiting, -⟩ := hf
    rw [State.flushBad_of_nil 64 v c.bay .store (by rw [vqueue, hqueue]; exact hwaiting)] at hexec
    have honly := State.settleFuncs_only (vfuncs.trans (hfuncs.trans hw))
    refine ⟨_, hexec, by rw [honly.queue, vqueue], _, (congrArg Stream.appended ?_ : _).trans hwaits, rfl, rfl, rfl, rfl, rfl⟩
    exact (honly.stream _).trans (vstream _)
  · rw [exec_storeSectorWritten_static hr hc, if_pos he]
  · rw [exec_storeSectorWritten_static hr hc, if_neg (Bool.eq_false_iff.mp he), State.staticStore_gated hg]
  · rw [exec_storeSectorWritten_static hr hc, if_neg (Bool.eq_false_iff.mp he), State.staticStore_empty hg h0]

end Sys2Proof.Machine

/-! PROOFS. The events of a multicast, at its targets and at its source (R138, R139, R142, R144). -/

namespace Sys2Proof.Machine

/-! ## RESERVE and COMMIT at a target (R138) -/

section Target

variable {s : State} {b : BayId} {k : SlotIx}

/-- The request that a RESERVE puts on its stream's list. -/
def State.mcRequest (s : State) (b : BayId) (k : SlotIx) (source : BitVec 12) (d : FetchDesc) : McTarget :=
  { source := source, ident := d.ident, count := d.mcCount, granted := false, committed := false, aborting := false
    epoch := (s.stream b k).epoch, counter := d.mcCounter, firstElem := 0, firstScale := 0, left := d.mcElems, dry := 0 }

theorem exec_multicastReserve_joins {source : BitVec 12} {d : FetchDesc} (hd : s.mcSource b source = some d)
    (ho : (s.stream b k).isOpen = true) (hm : (s.stream b k).conf.mode = 2) (hs : (s.stream b k).conf.source = source)
    (hnil : (s.stream b k).mcTargets = []) : exec (.multicastReserve b source k d.mcCount) s =
      .next ((s.modStream b k fun t => { t with mcTargets := t.mcTargets ++ [s.mcRequest b k source d] }).tryGrant b k) := by
  show execMulticastReserve b source k d.mcCount s = _
  simp only [execMulticastReserve, hd, ho, hm, hs, hnil, List.any_nil, Bool.false_eq_true, if_false, and_self, if_true]
  rfl

theorem exec_multicastReserve_drops {source : BitVec 12} {n : Nat} (h : (s.stream b k).isOpen = false ∨
    (s.stream b k).conf.mode ≠ 2 ∨ (s.stream b k).conf.source ≠ source ∨
    ∀ d : FetchDesc, s.mcSource b source = some d → d.mcCount ≠ n) :
    exec (.multicastReserve b source k n) s = .next s := by
  show execMulticastReserve b source k n s = _
  unfold execMulticastReserve
  cases hd : s.mcSource b source with
  | none => rfl
  | some d =>
    refine congrArg Host.Outcome.next (if_neg ?_)
    rintro ⟨ho, hm, hs, hn⟩
    rcases h with h | h | h | h
    · exact Bool.false_ne_true (h.symm.trans ho)
    · exact h hm
    · exact h hs
    · exact h d hd hn.symm

theorem exec_multicastCommit_commits {m : McTarget} {rest : List McTarget} (hl : (s.stream b k).mcTargets = m :: rest)
    (hg : m.granted = true) (hc : m.committed = false) (hs : s.sourceCommitted m = true) :
    exec (.multicastCommit b k) s = .next ((s.modStream b k fun t => { t with
      mcTargets := t.mcTargets.map fun x => if x = m then { x with committed := true } else x }).tryGrant b k) := by
  show execMulticastCommit b k s = _
  simp only [execMulticastCommit, hl, List.find?_cons, hg, hc, hs, Bool.not_false, Bool.and_self]

theorem exec_multicastCommit_skips (h : ∀ m ∈ (s.stream b k).mcTargets, m.granted = true → m.committed = false →
    s.sourceCommitted m = false) : exec (.multicastCommit b k) s = .next s := by
  have hnone : ((s.stream b k).mcTargets.find? fun m => m.granted && !m.committed && s.sourceCommitted m) = none := by
    simpa [and_imp] using h
  show execMulticastCommit b k s = _
  simp only [execMulticastCommit, hnone]

/-! ## ABORT and the last landing at a target (R138, R139, R142) -/

/-- A request leaves its stream's list; one that was granted under the stream's epoch gives back its buffers and its sequence
numbers (R139). -/
def Stream.withdraw (t : Stream) (m : McTarget) : Stream :=
  let t := { t with mcTargets := t.mcTargets.erase m }
  if m.granted ∧ m.epoch = t.epoch then
    { (t.dropBuffers fun x => if x.scale then decide (m.firstScale ≤ x.seqNo) else decide (m.firstElem ≤ x.seqNo)) with
      nextElem := m.firstElem, nextScale := m.firstScale }
  else t

theorem Stream.withdraw_mcTargets (t : Stream) (m : McTarget) : (t.withdraw m).mcTargets = t.mcTargets.erase m :=
  ite_both (P := fun u : Stream => u.mcTargets = t.mcTargets.erase m) rfl rfl

theorem Stream.withdraw_granted {t : Stream} {m : McTarget} (hg : m.granted = true) (he : m.epoch = t.epoch) :
    (t.withdraw m).nextElem = m.firstElem ∧ (t.withdraw m).nextScale = m.firstScale := by
  rw [Stream.withdraw, if_pos ⟨hg, he⟩]
  exact ⟨rfl, rfl⟩

theorem Stream.withdraw_waiting (t : Stream) {m : McTarget} (hg : m.granted = false) :
    (t.withdraw m).nextElem = t.nextElem ∧ (t.withdraw m).nextScale = t.nextScale := by
  rw [Stream.withdraw, if_neg fun h => Bool.false_ne_true (hg.symm.trans h.1)]
  exact ⟨rfl, rfl⟩

/-- The state in which a target has withdrawn a request and counted it. -/
def State.aborted (s : State) (b : BayId) (k : SlotIx) (m : McTarget) : State :=
  ((s.modStream b k fun t => t.withdraw m).modBay b fun y => y.countDone m.counter .multicastTimeout).modDie b.die
    RingDie.noteLow

theorem exec_multicastAbort_aborts {m : McTarget} {rest : List McTarget} (hl : (s.stream b k).mcTargets = m :: rest)
    (ha : m.aborting = true) : exec (.multicastAbort b k) s = .next ((s.aborted b k m).tryGrants b.die) := by
  show execMulticastAbort b k s = _
  simp only [execMulticastAbort, hl, List.find?_cons, ha]
  rfl

theorem State.aborted_stream (s : State) (b : BayId) (k : SlotIx) (m : McTarget) :
    (s.aborted b k m).stream b k = (s.stream b k).withdraw m := by
  have hcounted := State.modBay_keeps_streams (s.modStream b k fun t => t.withdraw m) b
    (f := fun y => y.countDone m.counter .multicastTimeout) rfl
  exact (State.noteLow_spares _ _ _ _).2.trans ((hcounted.stream b k).trans (s.modStream_self b k _))

theorem State.aborted_counter (s : State) (b : BayId) (k : SlotIx) (m : McTarget) :
    ((s.aborted b k m).bay b).counters[m.counter] = (((s.bay b).counters[m.counter]).finish .multicastTimeout) := by
  rw [State.aborted, State.noteLow_bay, State.modBay_self, Bay.countDone_counter, if_pos rfl, State.modStream_counters]

/-- The source of a multicast at a target: its bay and slot (R138, R247). -/
def State.mcSourceAt (s : State) (m : McTarget) : BayId × SlotIx :=
  let die : DieId := ⟨m.source.toNat / 256, by omega⟩
  (⟨die, ((s.die die).physStream m.source).1⟩, ((s.die die).physStream m.source).2)

/-- The landing at a die noted at a source. -/
def Stream.noteLanded (t : Stream) (ident : Nat) (d : DieId) : Stream :=
  { t with mcasts := t.mcasts.map fun x =>
      if x.ident = ident && x.committed then { x with landed := x.landed ||| BitVec.ofNat 16 (2 ^ d.val) } else x }

theorem Stream.noteLanded_bit {t : Stream} {ident : Nat} {d : DieId} {y : Multicast} (hy : y ∈ (t.noteLanded ident d).mcasts)
    (hi : y.ident = ident) (hc : y.committed = true) : y.landed.getLsbD d.val = true := by
  obtain ⟨x, -, rfl⟩ := List.mem_map.mp hy
  split at hi
  · next h =>
    rw [if_pos h, BitVec.getLsbD_or, BitVec.getLsbD_ofNat, Nat.testBit_two_pow_self]
    simp [d.isLt]
  · next h =>
    rw [if_neg h] at hc
    simp [hi, hc] at h

/-- The state in which a target has counted a multicast that has landed there whole. -/
def State.landedAt (s : State) (b : BayId) (k : SlotIx) (m : McTarget) : State :=
  (s.modStream b k fun t => { t with mcTargets := t.mcTargets.erase m }).modBay b fun y => y.countDone m.counter .done

/-- The state in which the source of that multicast has heard of it. -/
def State.landedNoted (s : State) (b : BayId) (k : SlotIx) (m : McTarget) : State :=
  (s.landedAt b k m).modStream ((s.landedAt b k m).mcSourceAt m).1 ((s.landedAt b k m).mcSourceAt m).2
    fun t => t.noteLanded m.ident b.die

theorem exec_multicastLanded_lands {m : McTarget} {rest : List McTarget} (hl : (s.stream b k).mcTargets = m :: rest)
    (hc : m.committed = true) (h0 : m.left = 0) : exec (.multicastLanded b k) s =
      .next (((s.landedNoted b k m).settleStores ((s.landedAt b k m).mcSourceAt m).1
        ((s.landedAt b k m).mcSourceAt m).2).tryGrants b.die) := by
  show execMulticastLanded b k s = _
  simp only [execMulticastLanded, hl, List.find?_cons, hc, h0, decide_true, Bool.and_self]
  rfl

theorem State.landedNoted_mcTargets (s : State) (b : BayId) (k : SlotIx) (m : McTarget) :
    ((s.landedNoted b k m).stream b k).mcTargets = (s.stream b k).mcTargets.erase m := by
  have hcounted := State.modBay_keeps_streams (s.modStream b k fun t => { t with mcTargets := t.mcTargets.erase m }) b
    (f := fun y => y.countDone m.counter .done) rfl
  have hnoted := State.modStream_keeps_proj Stream.mcTargets (s.landedAt b k m) b ((s.landedAt b k m).mcSourceAt m).1 k
    ((s.landedAt b k m).mcSourceAt m).2 (f := fun t => t.noteLanded m.ident b.die) fun _ => rfl
  rw [State.landedNoted, hnoted, State.landedAt, hcounted.stream b k, State.modStream_self]

theorem State.landedNoted_counter (s : State) (b : BayId) (k : SlotIx) (m : McTarget) :
    ((s.landedNoted b k m).bay b).counters[m.counter] = (((s.bay b).counters[m.counter]).finish .done) := by
  rw [State.landedNoted, State.modStream_counters, State.landedAt, State.modBay_self, Bay.countDone_counter, if_pos rfl,
    State.modStream_counters]

end Target

/-! ## GRANT and TIMEOUT at the source (R138, R139, R144) -/

section Source

variable {s : State} {b : BayId} {k : SlotIx}

/-- A multicast that has one more GRANT, with the dry time that came with it. -/
def Multicast.grantedBy (m : Multicast) (die : DieId) (dry : DWord) : Multicast :=
  { m with
    granted := m.granted ||| BitVec.ofNat 16 (2 ^ die.val)
    earliest := if m.granted = 0 ∨ dryBefore dry m.earliest 0 0 then dry else m.earliest }

theorem exec_multicastGrant_none (hm : ((s.stream b k).mcasts.find? fun m => !m.committed) = none) (die : DieId) (dry : DWord) :
    exec (.multicastGrant b k die dry) s = .next s := by
  show execMulticastGrant b k die dry s = _
  simp only [execMulticastGrant, hm]

theorem exec_multicastGrant_skips {m : Multicast} {die : DieId} (dry : DWord)
    (hm : ((s.stream b k).mcasts.find? fun m => !m.committed) = some m)
    (h : m.targets.getLsbD die.val = false ∨ m.granted.getLsbD die.val = true ∨ s.mcastLate b.die m = true) :
    exec (.multicastGrant b k die dry) s = .next s := by
  have hcond : (m.targets.getLsbD die.val && !m.granted.getLsbD die.val && !s.mcastLate b.die m) = false := by
    rcases h with h | h | h <;> simp only [h, Bool.false_and, Bool.not_true, Bool.and_false]
  show execMulticastGrant b k die dry s = _
  simp only [execMulticastGrant, hm, hcond, Bool.false_eq_true, if_false]
  split <;> rfl

theorem exec_multicastGrant_counts {m : Multicast} {d : FetchDesc} {die : DieId} {x : McTarget} {dry : DWord}
    (hm : ((s.stream b k).mcasts.find? fun m => !m.committed) = some m)
    (hd : ((s.stream b k).descs.find? fun d => d.ident = m.ident) = some d) (ht : m.targets.getLsbD die.val = true)
    (hg : m.granted.getLsbD die.val = false) (hl : s.mcastLate b.die m = false)
    (hx : ((s.stream (s.mcTarget d die).1 (s.mcTarget d die).2).mcTargets.find? fun x =>
      x.source = s.logicalStream b k && x.ident = m.ident && x.granted && x.dry = dry) = some x) :
    exec (.multicastGrant b k die dry) s = .next ((s.modStream b k fun t => { t with
      mcasts := t.mcasts.map fun y => if y.ident = m.ident then m.grantedBy die dry else y }).tryCommit b k
        (m.grantedBy die dry)) := by
  have hdry : x.dry = dry := by
    have hfound := List.find?_some hx
    simp only [Bool.and_eq_true, decide_eq_true_eq] at hfound
    exact hfound.2
  show execMulticastGrant b k die dry s = _
  simp only [execMulticastGrant, hm, hd, Option.bind_some, hx, ht, hg, hl, hdry, Bool.not_false, Bool.and_self, if_true]
  rfl

/-- The first GRANT of a multicast. -/
theorem Multicast.grantedBy_first {m : Multicast} (hg : m.granted = 0) (die : DieId) (dry : DWord) :
    m.grantedBy die dry = { m with granted := BitVec.ofNat 16 (2 ^ die.val), earliest := dry } := by
  simp [Multicast.grantedBy, hg]

/-- Where every element that carries a key is replaced, each that then carries it is the replacement. -/
theorem eq_of_mem_map_ite {α β : Type} [DecidableEq β] {l : List α} {key : α → β} {c : β} {a y : α}
    (hy : y ∈ l.map fun x => if key x = c then a else x) (hk : key y = c) : y = a := by
  obtain ⟨x, -, rfl⟩ := List.mem_map.mp hy
  split at hk
  · next h => rw [if_pos h]
  · next h => exact absurd hk h

/-- Whether all its targets have granted decides whether a multicast is committed (R138). -/
theorem State.tryCommit_mcast (s : State) (b : BayId) (k : SlotIx) {m y : Multicast}
    (hs : ∀ x ∈ (s.stream b k).mcasts, x.ident = m.ident → x = m) (hy : y ∈ ((s.tryCommit b k m).stream b k).mcasts)
    (hi : y.ident = m.ident) : y = if m.granted = m.targets then { m with committed := true } else m := by
  unfold State.tryCommit at hy
  split at hy
  · next h =>
    rw [if_pos h]
    rw [(State.modDie_keeps_streams _ b.die rfl).stream b k, State.modStream_self] at hy
    exact eq_of_mem_map_ite hy hi
  · next h =>
    rw [if_neg h]
    exact hs y hy hi

theorem exec_multicastTimeout_none (hm : ((s.stream b k).mcasts.find? fun m => !m.committed) = none) :
    exec (.multicastTimeout b k) s = .next s := by
  show execMulticastTimeout b k s = _
  simp only [execMulticastTimeout, hm]

theorem exec_multicastTimeout_early {m : Multicast} (hm : ((s.stream b k).mcasts.find? fun m => !m.committed) = some m)
    (hl : s.mcastLate b.die m = false) : exec (.multicastTimeout b k) s = .next s := by
  show execMulticastTimeout b k s = _
  simp only [execMulticastTimeout, hm, hl, Bool.false_eq_true, if_false]

/-- A stream that gives up a multicast: its descriptor is at its end with MULTICAST_TIMEOUT (R139). -/
def Stream.giveUp (t : Stream) (ident : Nat) : Stream :=
  ({ t with mcasts := t.mcasts.filter fun x => x.ident ≠ ident }).modDesc ident fun d =>
    { d with status := .multicastTimeout, issued := d.transfers, landed := d.transfers }

theorem Stream.mem_giveUp_mcasts (t : Stream) (ident : Nat) (y : Multicast) :
    y ∈ (t.giveUp ident).mcasts ↔ y ∈ t.mcasts ∧ y.ident ≠ ident := by
  simp [Stream.giveUp, Stream.modDesc]

theorem Stream.giveUp_status {t : Stream} {ident : Nat} {d : FetchDesc} (hd : d ∈ (t.giveUp ident).descs)
    (hi : d.ident = ident) : d.status = .multicastTimeout := by
  obtain ⟨x, -, rfl⟩ := List.mem_map.mp hd
  split at hi
  · next h => rw [if_pos h]
  · next h => exact absurd hi h

/-- The state in which a source has given up a multicast. -/
def State.timedOut (s : State) (b : BayId) (k : SlotIx) (m : Multicast) : State :=
  ((s.sendAborts b k).countRing b.die 0x5A).modStream b k fun t => t.giveUp m.ident

theorem exec_multicastTimeout_late {m : Multicast} (hm : ((s.stream b k).mcasts.find? fun m => !m.committed) = some m)
    (hl : s.mcastLate b.die m = true) : exec (.multicastTimeout b k) s = .next ((s.timedOut b k m).settleStores b k) := by
  show execMulticastTimeout b k s = _
  simp only [execMulticastTimeout, hm, hl, if_true]
  rfl

/-- ABORTs change no source's list of multicasts. -/
theorem State.sendAborts_mcasts (s : State) (b : BayId) (k : SlotIx) :
    ((s.sendAborts b k).stream b k).mcasts = (s.stream b k).mcasts := by
  have hnote (t : Stream) (source : BitVec 12) (ident : Nat) (c : CtrIx) : (t.noteAbort source ident c).mcasts = t.mcasts :=
    ite_both (P := fun u : Stream => u.mcasts = t.mcasts) rfl rfl
  refine List.foldlRecOn (motive := fun t : State => (t.stream b k).mcasts = (s.stream b k).mcasts) _ _ rfl fun t ht d _ =>
    ite_both (P := fun t : State => (t.stream b k).mcasts = (s.stream b k).mcasts) ?_ ht
  refine List.foldlRecOn (motive := fun t : State => (t.stream b k).mcasts = (s.stream b k).mcasts) _ _ ht fun u hu die _ => ?_
  exact (u.modStream_keeps_proj Stream.mcasts b _ k _ fun _ => hnote _ _ _ _).trans hu

end Source

/-! ## The obligation -/

/-- Settles O25: each event by the state that it leads to, and what the stream's lists and the counter then are. -/
theorem multicastsFollowTheProtocol : Obligations.MulticastsFollowTheProtocol := by
  unfold Obligations.MulticastsFollowTheProtocol
  refine ⟨fun s b k => ⟨fun source d hd ho hm hs hnil => ?_, fun source n => exec_multicastReserve_drops,
      fun m rest hl hg hc hs hout => ?_, exec_multicastCommit_skips, fun m rest hl ha => ?_, fun m rest hl hc h0 => ?_⟩,
    fun s b k => ⟨fun m die dry hm => exec_multicastGrant_skips dry hm, fun m d die x dry hm hd ht hg hl hx => ?_,
      fun m hm hl => exec_multicastTimeout_early hm hl, fun m hm hl => ?_,
      fun hm => ⟨exec_multicastTimeout_none hm, exec_multicastGrant_none hm⟩⟩⟩
  · refine ⟨_, s.mcRequest b k source d, exec_multicastReserve_joins hd ho hm hs hnil, ?_,
      rfl, rfl, rfl, rfl, rfl, rfl, rfl, rfl⟩
    rw [State.modStream_self, hnil, List.nil_append]
  · refine ⟨_, exec_multicastCommit_commits hl hg hc hs, ?_, by rw [State.modStream_self]⟩
    have hrest : (rest.map fun x => if x = m then { x with committed := true } else x) = rest :=
      (List.map_congr_left fun x hx => if_neg fun e : x = m => hout (e ▸ hx)).trans (List.map_id' rest)
    rw [State.modStream_self, hl, List.map_cons, if_pos rfl, hrest]
  · refine ⟨_, exec_multicastAbort_aborts hl ha, ?_, fun hg he => ?_, fun hg => ?_, ?_, ?_⟩
    · rw [s.aborted_stream, Stream.withdraw_mcTargets, hl, List.erase_cons_head]
    · rw [s.aborted_stream]
      exact Stream.withdraw_granted hg he
    · rw [s.aborted_stream]
      exact Stream.withdraw_waiting _ hg
    · rw [s.aborted_counter]
      rfl
    · rw [s.aborted_counter]
      rfl
  · refine ⟨_, _, _, exec_multicastLanded_lands hl hc h0, rfl, ?_, ?_, fun y hy => ?_⟩
    · rw [s.landedNoted_mcTargets, hl, List.erase_cons_head]
    · rw [s.landedNoted_counter]
      rfl
    · rw [State.landedNoted, State.modStream_self] at hy
      exact Stream.noteLanded_bit hy
  · have hbit : m.granted.getLsbD die.val = false := by simp [hg]
    refine ⟨_, exec_multicastGrant_counts hm hd ht hbit hl hx, fun y hy hi => ?_⟩
    rw [Multicast.grantedBy_first hg] at hy
    have hopen : m.committed = false := by simpa using List.find?_some hm
    have hy := State.tryCommit_mcast _ b k (fun z hz hzi => eq_of_mem_map_ite (State.modStream_self .. ▸ hz) hzi) hy hi
    by_cases hall : BitVec.ofNat 16 (2 ^ die.val) = m.targets
    · rw [if_pos hall] at hy
      rw [hy]
      exact ⟨rfl, rfl, fun _ => rfl, fun h => absurd hall.symm h⟩
    · rw [if_neg hall] at hy
      rw [hy]
      exact ⟨rfl, rfl, fun h => absurd h.symm hall, fun _ => hopen⟩
  · refine ⟨_, exec_multicastTimeout_late hm hl, fun y => ?_, fun d hd hi => ?_⟩
    · rw [State.timedOut, State.modStream_self, Stream.mem_giveUp_mcasts, State.countRing_stream, s.sendAborts_mcasts]
    · rw [State.timedOut, State.modStream_self] at hd
      exact Stream.giveUp_status hd hi

end Sys2Proof.Machine

/-! PROOFS. The requests of the module's tables: routes, verdict tree, retired pages, lane records and retraining (R159, R196, R202,
R209, R231, R286). -/

namespace Sys2Proof.Machine

/-! ## A request that is served at once (R283, R286, R290, R391) -/

/-- Such a request is taken from the ring and its own function serves it. -/
theorem State.takeRequest_of_servesNow {s : State} {h : ReqHead} (r : Request) (hs : servesNow s h = true)
    (hsec : needsSecurity r = false) : s.takeRequest h r = (requestTaken s).serveReq h r := by
  simp only [servesNow, Bool.and_eq_true, decide_eq_true_eq, Bool.not_eq_true'] at hs
  obtain ⟨⟨⟨⟨hclear, hboot⟩, hacorn⟩, hruns⟩, -⟩ := hs
  have hgo : ¬(s.kp.state = .boot || !s.coreRuns .scheduler) = true := by simp [hboot, hruns]
  have hopen : ¬(!h.reservedClear) = true := by simp [hclear]
  have htakes : ¬(s.kp.state = .acorn && !acornTakes r) = true := by simp [hacorn]
  have hheld : ¬(s.fw.restarting[0] && needsSecurity r) = true := by simp [hsec]
  exact (if_neg hgo).trans ((if_neg hopen).trans ((if_neg htakes).trans (if_neg hheld)))

/-- A request's instruction then leads to what serving it leads to. -/
theorem exec_serves {i : Instr} {s t : State} {h : ReqHead} (r : Request) (hs : servesNow s h = true)
    (hi : exec i s = .next (s.takeRequest h r)) (hsec : needsSecurity r = false) (ht : (requestTaken s).serveReq h r = t) :
    exec i s = .next t := by
  rw [hi, State.takeRequest_of_servesNow r hs hsec, ht]

/-! ## The route table (R196) -/

theorem writeRoutes_cons (t : Sparse Byte) (first : Nat) (b : Byte) (bytes : List Byte) :
    writeRoutes t first (b :: bytes) = writeRoutes (Sparse.set (0 : Byte) t first (b &&& 0x3F)) (first + 1) bytes := by
  simp only [writeRoutes, List.zipIdx_cons, Nat.zero_add, List.zipIdx_succ, List.foldl_cons, List.foldl_map, Nat.add_zero,
    Nat.add_assoc, Nat.add_comm 1]

/-- The entries of the range hold the low six bits of their bytes, and every other entry stays. -/
theorem get_writeRoutes (t : Sparse Byte) (first : Nat) (bytes : List Byte) (k : Nat) :
    Sparse.get (0 : Byte) (writeRoutes t first bytes) k =
      if first ≤ k ∧ k < first + bytes.length then bytes.getD (k - first) 0 &&& 0x3F else Sparse.get (0 : Byte) t k := by
  induction bytes generalizing t first with
  | nil =>
    rw [if_neg (by rw [List.length_nil]; omega)]
    rfl
  | cons b rest ih =>
    rw [writeRoutes_cons, ih, List.length_cons]
    by_cases hk : first = k
    · subst hk
      rw [if_neg (by omega), if_pos (by omega), Sparse.get_set_self, Nat.sub_self, List.getD_cons_zero]
    · rw [Sparse.get_set_ne _ _ _ _ _ hk]
      by_cases hr : first + 1 ≤ k ∧ k < first + 1 + rest.length
      · have hsub : k - first = (k - (first + 1)) + 1 := by omega
        rw [if_pos hr, if_pos (by omega), hsub, List.getD_cons_succ]
      · rw [if_neg hr, if_neg (by omega)]

/-- ROUTE_WRITE of a good range writes it and answers DONE. -/
theorem State.serveRouteWrite_writes {s : State} (h : ReqHead) {first count : BitVec 16} {scratch : Word}
    (ht : s.tableState = true) (h0 : 0 < count.toNat) (hle : first.toNat + count.toNat ≤ 32768)
    (hg : scratchGood scratch.toNat count.toNat = true) :
    s.serveRouteWrite h first count scratch = ({ s with coll := { s.coll with
      routes := writeRoutes s.coll.routes first.toNat (s.readScratch scratch.toNat count.toNat) } } : State).respond
        h.tag .done := by
  have hbad : ¬(count = 0 ∨ first.toNat + count.toNat > 32768 ∨ scratchGood scratch.toNat count.toNat = false) := by
    rintro (rfl | hgt | hbad)
    · exact absurd h0 (by decide)
    · omega
    · simp [hg] at hbad
  rw [State.serveRouteWrite, if_neg (by simp [ht]), if_neg hbad]

/-! ## The verdict tree (R231) -/

theorem zeroExtend_extractLsb'_15 (c : BitVec 15) : (c.zeroExtend 16).extractLsb' 0 15 = c := by
  apply BitVec.eq_of_getLsbD_eq
  intro i hi
  simp [hi]; omega

/-- VERDICT_TREE with its children in front and zeros behind them enters the tree and answers DONE. -/
theorem State.serveVerdictTree_enters {s : State} (h : ReqHead) (parent : BitVec 15) (root : Bool) {kids : List (BitVec 15)}
    (ht : s.tableState = true) (hle : kids.length ≤ 8) :
    s.serveVerdictTree h parent root (BitVec.ofNat 8 kids.length)
        (kids.map (fun c => c.zeroExtend 16) ++ List.replicate (8 - kids.length) 0) =
      ({ s with coll := { s.coll with tree := some ⟨parent, root, kids⟩ } } : State).respond h.tag .done := by
  have hn : (BitVec.ofNat 8 kids.length).toNat = kids.length := by
    rw [BitVec.toNat_ofNat]; omega
  generalize hl : kids.map (fun c => c.zeroExtend 16) ++ List.replicate (8 - kids.length) (0 : BitVec 16) = l
  have htail : (l.drop kids.length).any (fun c => c ≠ 0) = false := by
    rw [← hl, List.drop_left' (List.length_map _)]
    simp
  have hids : l.any (fun c => c.getLsbD 15) = false := by
    rw [← hl]
    simp
  have hkids : (List.range kids.length).map (fun i => (l.getD i 0).extractLsb' 0 15) = kids := by
    refine List.ext_getElem (by simp) fun i hi _ => ?_
    have hi : i < kids.length := by simpa using hi
    rw [List.getElem_map, List.getElem_range, ← hl, List.getD_append _ _ _ _ (by simpa using hi),
      List.getD_eq_getElem _ _ (by simpa using hi), List.getElem_map, zeroExtend_extractLsb'_15]
  simp only [State.serveVerdictTree, hn, hkids]
  rw [if_neg (by simp [ht]), if_neg (by rw [htail, hids]; simp; omega)]

/-! ## Answers in the scratch (R286) -/

theorem State.answerScratch_of_good (s : State) (h : ReqHead) {scratch : Word} {bytes : List Byte}
    (hg : scratchGood scratch.toNat bytes.length = true) : s.answerScratch h scratch bytes =
      (s.writeScratch scratch.toNat bytes).respond h.tag .done (BitVec.ofNat 384 bytes.length) := if_pos hg

theorem State.serveRetiredPages_answers {s : State} (h : ReqHead) {scratch : Word} (ha : s.attachedNow = true)
    (hg : scratchGood scratch.toNat s.retiredBytes.length = true) : s.serveRetiredPages h scratch =
      (s.writeScratch scratch.toNat s.retiredBytes).respond h.tag .done (BitVec.ofNat 384 s.retiredBytes.length) :=
  (if_pos ha).trans (s.answerScratch_of_good h hg)

/-! ## The causes of REPLACE_REQ leave the links (R357) -/

theorem OnlyEvents.links {s t : State} (h : OnlyEvents s t) : t.links = s.links := by
  obtain ⟨-, -, -, -, -, -, -, -, hlinks, -⟩ := h.frame
  exact hlinks

theorem State.causeStarted_links (s : State) (k : Nat) : (s.causeStarted k).links = s.links := by
  unfold State.causeStarted
  rw [(State.postEvent_only _ _ _ _ _).links, State.report_eq]

theorem State.evalCauses_links (s : State) : s.evalCauses.links = s.links :=
  List.foldlRecOn (motive := fun t : State => t.links = s.links) _ _ rfl fun _ ht k _ =>
    ite_both (P := fun u : State => u.links = s.links) ((State.causeStarted_links _ k).trans ht) ht

/-! ## Lane records and retraining (R202, R209) -/

theorem linkId_ofNat_toNat (k : LinkId) : (BitVec.ofNat 8 k.val).toNat = k.val := by
  rw [BitVec.toNat_ofNat]; omega

/-- The lane records that LANE_CLEAR of a lane keeps; 0xFF clears all (R209). -/
def laneKeep (lane : Byte) : BitVec 9 := if lane = 0xFF then 0 else ~~~BitVec.ofNat 9 (2 ^ lane.toNat)

theorem laneKeep_getLsbD (lane : Byte) {i : Nat} (hi : i < 9) :
    (laneKeep lane).getLsbD i = !(lane = 0xFF || lane.toNat == i) := by
  by_cases hall : lane = 0xFF
  · rw [laneKeep, if_pos hall, hall]
    simp
  · have hbit : (BitVec.ofNat 9 (2 ^ lane.toNat)).getLsbD i = (lane.toNat == i) := by
      rw [BitVec.getLsbD_ofNat, Nat.testBit_two_pow, decide_eq_true hi, Bool.true_and, beq_eq_decide]
    rw [laneKeep, if_neg hall, BitVec.getLsbD_not, hbit, decide_eq_true hi, decide_eq_false hall, Bool.true_and, Bool.false_or]

/-- LANE_CLEAR of a link clears its records of the lane, and the causes are evaluated again. -/
theorem State.serveLaneClear_clears {s : State} (h : ReqHead) (link : LinkId) {lane : Byte} (ht : s.tableState = true)
    (hl : lane.toNat ≤ 8 ∨ lane = 0xFF) : s.serveLaneClear h (BitVec.ofNat 8 link.val) lane =
      ((s.modLink link fun l => { l with laneRecords := l.laneRecords &&& laneKeep lane }).evalCauses).respond h.tag .done := by
  have hk := linkId_ofNat_toNat link
  simp only [State.serveLaneClear, hk]
  rw [if_neg (by simp [ht]), dif_pos link.isLt, if_pos hl]
  rfl

/-- LINK_RETRAIN of a link that is DOWN or REFUSED starts a retraining. -/
theorem State.serveLinkRetrain_retrains {s : State} (h : ReqHead) {link : LinkId} (ha : s.attachedNow = true)
    (hd : (s.link link).state = .down ∨ (s.link link).state = .refused) :
    s.serveLinkRetrain h (BitVec.ofNat 8 link.val) = (s.retrain link).respond h.tag .done := by
  have hk := linkId_ofNat_toNat link
  simp only [State.serveLinkRetrain, hk]
  rw [if_neg (by simp [ha]), dif_pos link.isLt, if_pos hd]

/-! ## The obligation -/

/-- Settles O4: each request is taken and served, and its table then reads as the request says. -/
theorem tableRequestsTakeEffect : Obligations.TableRequestsTakeEffect := by
  unfold Obligations.TableRequestsTakeEffect
  intro s h hs
  refine ⟨fun first count scratch ht h0 hle hg => ?_, fun parent root kids ht hle => ?_, fun scratch ha hg => ?_,
    fun link lane ht hl => ?_, fun link ha hd => ?_⟩
  · refine ⟨_, exec_serves (.routeWrite first count scratch) hs rfl rfl
      (State.serveRouteWrite_writes (s := requestTaken s) h ht h0 hle hg), fun k => ?_⟩
    refine (get_writeRoutes _ _ _ k).trans ?_
    rw [State.readScratch, Memory.read_length]
    split
    · next hk => rw [Memory.read_getD _ _ _ _ (by omega)]; rfl
    · rfl
  · exact exec_serves (.verdictTree parent root _ _) hs rfl rfl
      (State.serveVerdictTree_enters (s := requestTaken s) h parent root ht hle)
  · exact ⟨_, exec_serves (.retiredPages scratch) hs rfl rfl
      (State.serveRetiredPages_answers (s := requestTaken s) h ha hg), Memory.read_write _ _ _⟩
  · refine ⟨_, exec_serves (.laneClear _ lane) hs rfl rfl
      (State.serveLaneClear_clears (s := requestTaken s) h link ht hl), fun i hi => ?_, fun k hk => ?_⟩
    · rw [State.link, State.evalCauses_links, ← State.link, State.modLink_self, BitVec.getLsbD_and, laneKeep_getLsbD lane hi]
      rfl
    · rw [State.link, State.evalCauses_links, ← State.link, State.modLink_ne _ _ _ _ hk.symm]
      rfl
  · exact ⟨_, exec_serves (.linkRetrain _) hs rfl rfl
      (State.serveLinkRetrain_retrains (s := requestTaken s) h ha hd), rfl⟩

end Sys2Proof.Machine

/-! PROOFS. The events of a stack: refresh, calibration, patrol scrub and temperature (R145, R152 to R156). -/

namespace Sys2Proof.Machine

/-! ## What counting leaves of a stack -/

@[simp] theorem Sill.count_dram (x : Sill) (i n : Nat) : (x.count i n).dram = x.dram := rfl

@[simp] theorem Sill.moveBytes_dram (x : Sill) (isWrite : Bool) (n : Nat) : (x.moveBytes isWrite n).dram = x.dram := by
  rw [x.moveBytes_only isWrite n]

@[simp] theorem Sill.moveBytes_retired (x : Sill) (isWrite : Bool) (n : Nat) : (x.moveBytes isWrite n).retired = x.retired := by
  rw [x.moveBytes_only isWrite n]

@[simp] theorem Sill.moveBytes_scrubAt (x : Sill) (isWrite : Bool) (n : Nat) : (x.moveBytes isWrite n).scrubAt = x.scrubAt := by
  rw [x.moveBytes_only isWrite n]

@[simp] theorem Sill.drainWriteBacks_poison (x : Sill) : x.drainWriteBacks.poison = x.poison := rfl
@[simp] theorem Sill.drainWriteBacks_retired (x : Sill) : x.drainWriteBacks.retired = x.retired := rfl
@[simp] theorem Sill.drainWriteBacks_scrubAt (x : Sill) : x.drainWriteBacks.scrubAt = x.scrubAt := rfl

/-! ## REFRESH_DUE (R154) -/

/-- A stack with a bank in refresh in place of the pseudo-channel's bank before it. -/
def Sill.refreshed (x : Sill) (channel bank : BitVec 6) (management : Bool) (waited : Nat) : Sill :=
  { (x.count 0x08 waited) with
    refreshing := (x.refreshing.filter fun r => !(r.1 = channel && r.2.2 = management)) ++ [(channel, bank, management)] }

theorem exec_refreshDue (m : SillId) (channel bank : BitVec 6) (management : Bool) (waited : Nat) (s : State) :
    exec (.refreshDue m channel bank management waited) s =
      .next (s.modSill m fun x => x.refreshed channel bank management waited) := rfl

/-- Only the bank named is in refresh of that kind in its pseudo-channel. -/
theorem Sill.refreshed_bank {x : Sill} {channel bank : BitVec 6} {management : Bool} {waited : Nat}
    {r : BitVec 6 × BitVec 6 × Bool} (hr : r ∈ (x.refreshed channel bank management waited).refreshing) (hc : r.1 = channel)
    (hm : r.2.2 = management) : r.2.1 = bank := by
  rcases List.mem_append.mp hr with hold | hnew
  · simp [hc, hm] at hold
  · rw [List.mem_singleton.mp hnew]

/-! ## CALIBRATION_WINDOW (R155, R156) -/

theorem exec_calibrationWindow_good (m : SillId) (s : State) : exec (.calibrationWindow m false) s =
    .next (s.modSill m fun x => { (x.count 0x09) with calChannel := x.calChannel + 1 }) := rfl

/-! ## PATROL_SCRUB_READ (R152, R153) -/

theorem exec_patrolScrubRead_waits {s : State} {m : SillId} (r : EccResult) (o : OnDieReport) (h : (s.sill m).requests ≠ []) :
    exec (.patrolScrubRead m r o) s = .next s := if_pos h

/-- The state in which a patrol read has issued the write-backs of its stack and moved a sector. -/
def State.scrubStarted (s : State) (m : SillId) : State := s.modSill m fun x => x.drainWriteBacks.moveBytes false 64

/-- A stack without poison and without retired pages stays so while its patrol read starts, and every sector of it is sound. -/
theorem State.scrubStarted_sound {s : State} {m : SillId} (hp : (s.sill m).poison = []) (hr : (s.sill m).retired = [])
    (sector : Nat) : (s.scrubStarted m).sound (m, sector) := by
  rw [State.sound, State.scrubStarted, State.modSill_self]
  simp [Sill.pageRetired, hp, hr]

/-- A stack whose patrol stands at the sector after one, or at the first after the last, where a whole pass is counted. -/
def Sill.scrubNext (x : Sill) (sector : Nat) : Sill :=
  if sector + 1 ≥ stackSectors then { (x.count 0x0F) with scrubAt := 0 } else { x with scrubAt := sector + 1 }

theorem exec_patrolScrubRead_reads {s : State} {m : SillId} (r : EccResult) (o : OnDieReport) (h : (s.sill m).requests = []) :
    exec (.patrolScrubRead m r o) s =
      let sector := ((s.scrubStarted m).sill m).scrubAt
      .next (((s.scrubStarted m).eccRead ⟨m, sector, r, o⟩).1.modSill m fun x => x.scrubNext sector) := if_neg (not_not.mpr h)

/-- A clean patrol read changes nothing beside what its start and its end change. -/
theorem exec_patrolScrubRead_clean {s : State} {m : SillId} (hq : (s.sill m).requests = []) (hp : (s.sill m).poison = [])
    (hr : (s.sill m).retired = []) : exec (.patrolScrubRead m .clean .none) s =
      .next ((s.scrubStarted m).modSill m fun x => x.scrubNext (s.sill m).scrubAt) := by
  have hat : ((s.scrubStarted m).sill m).scrubAt = (s.sill m).scrubAt := by
    rw [State.scrubStarted, State.modSill_self, Sill.moveBytes_scrubAt, Sill.drainWriteBacks_scrubAt]
  have hread : (s.scrubStarted m).eccRead ⟨m, (s.sill m).scrubAt, .clean, .none⟩ = (s.scrubStarted m, false) :=
    State.eccRead_clean _ (m, _) (State.scrubStarted_sound hp hr _)
  simp only [exec_patrolScrubRead_reads _ _ hq, hat, hread]

/-! ## STACK_TEMP_READ (R145, R154, R156) -/

/-- The state with a stack's temperature kept, and its refresh interval set by it. -/
def State.tempRead (s : State) (m : SillId) (t : Nat) : State :=
  let u := s.modSill m fun x => { x with
    counters := (Sparse.set (0 : Word) x.counters 0x10 (BitVec.ofNat 32 t)).raiseTo 0x11 t
    halfInterval := decide (t > 85) }
  { u with pkg := u.pkg.setTemp (.stack m) t }

theorem State.tempRead_self (s : State) (m : SillId) (t : Nat) : ∃ counters, (s.tempRead m t).sill m =
    { s.sill m with counters := counters, halfInterval := decide (85 < t) } := ⟨_, s.modSill_self m _⟩

theorem State.tempRead_ne (s : State) {m n : SillId} (t : Nat) (h : n ≠ m) : (s.tempRead m t).sill n = s.sill n :=
  s.modSill_ne _ _ _ h.symm

theorem exec_stackTempRead (m : SillId) (celsius : Byte) (s : State) : exec (.stackTempRead m celsius) s =
    .next (if celsius.toNat > (s.sill m).trainTemp + 10 || (s.sill m).trainTemp > celsius.toNat + 10 then
      (s.tempRead m celsius.toNat).askRetrain m else s.tempRead m celsius.toNat) := by
  obtain ⟨counters, hm⟩ := s.tempRead_self m celsius.toNat
  have hold : ((s.tempRead m celsius.toNat).sill m).trainTemp = (s.sill m).trainTemp := by rw [hm]
  rw [← hold]
  rfl

/-! ## A retraining asked for while it has to wait (R156, R351) -/

/-- Some waiting item of the kind has every bit of the mask, be it a new one or one that took the mask in. -/
theorem State.waitItem_asked (s : State) (code : Nat) (mask : Word) :
    ∃ i ∈ (s.waitItem code mask).job.items, i.code = code ∧ i.mask ||| mask = i.mask := by
  by_cases hany : (s.job.items.any fun i => i.code = code && i.tag = none) = true
  · obtain ⟨i, hi, hkind⟩ := List.any_eq_true.mp hany
    rw [State.waitItem, if_pos hany]
    refine ⟨_, List.mem_map_of_mem hi, ?_⟩
    rw [if_pos hkind]
    simp only [Bool.and_eq_true, decide_eq_true_eq] at hkind
    exact ⟨hkind.1, by rw [BitVec.or_assoc, BitVec.or_self]⟩
  · rw [State.waitItem, if_neg hany]
    exact ⟨_, List.mem_append_right _ (List.mem_singleton_self _), rfl, BitVec.or_self⟩

theorem State.waitItem_sills (s : State) (code : Nat) (mask : Word) : (s.waitItem code mask).sills = s.sills := by
  obtain ⟨items, h⟩ := s.waitItem_items code mask
  rw [h]

/-- Outside the idle states the stack is noted, and an item that names it waits. -/
theorem State.askRetrain_waits {s : State} (m : SillId) (h : s.isIdleKind = false) :
    ((s.askRetrain m).sill m).retrainPending = true ∧
      ∃ i ∈ (s.askRetrain m).job.items, i.code = itemRetrain ∧ i.mask.getLsbD m.val = true := by
  have hask : s.askRetrain m = (s.modSill m fun x => { x with retrainPending := true }).waitItem itemRetrain
      (BitVec.ofNat 32 (2 ^ m.val)) := if_neg (Bool.eq_false_iff.mp h)
  obtain ⟨i, hi, hcode, hmask⟩ := (s.modSill m fun x => { x with retrainPending := true }).waitItem_asked itemRetrain
    (BitVec.ofNat 32 (2 ^ m.val))
  rw [hask]
  refine ⟨?_, i, hi, hcode, ?_⟩
  · rw [State.sill, State.waitItem_sills, ← State.sill, State.modSill_self]
  · have hm : m.val < 32 := by omega
    rw [← hmask, BitVec.getLsbD_or, BitVec.getLsbD_ofNat, Nat.testBit_two_pow_self, decide_eq_true hm, Bool.and_self,
      Bool.or_true]

/-! ## The obligation -/

/-- Settles O26: each event of a stack by the stack that it leaves. -/
theorem stackEventsTakeEffect : Obligations.StackEventsTakeEffect := by
  unfold Obligations.StackEventsTakeEffect
  refine fun s m => ⟨fun channel bank management waited => ?_, ?_, rfl, fun r o h => exec_patrolScrubRead_waits r o h,
    fun hq hp hr hlast => ?_, fun celsius hlo hhi => ?_, fun celsius hhot hidle => ?_⟩
  · refine ⟨_, exec_refreshDue m channel bank management waited s, ?_, fun r hr hc hm => ?_, ?_, rfl,
      fun n hn => s.modSill_ne _ _ _ hn.symm⟩
    · rw [State.modSill_self]
      exact List.mem_append_right _ (List.mem_singleton_self _)
    · rw [State.modSill_self] at hr
      exact Sill.refreshed_bank hr hc hm
    · rw [State.modSill_self]
      rfl
  · exact ⟨_, exec_calibrationWindow_good m s, by rw [State.modSill_self], by rw [State.modSill_self, Sill.count_dram],
      fun n hn => s.modSill_ne _ _ _ hn.symm⟩
  · have hnext (x : Sill) : x.scrubNext (s.sill m).scrubAt = { x with scrubAt := (s.sill m).scrubAt + 1 } :=
      if_neg (Nat.not_le.mpr hlast)
    refine ⟨_, exec_patrolScrubRead_clean hq hp hr, ?_, ?_, ?_, rfl, rfl⟩ <;>
      rw [State.scrubStarted, State.modSill_self, State.modSill_self, hnext]
    · rw [Sill.moveBytes_dram, Sill.drainWriteBacks_dram]
    · rw [Sill.moveBytes_poison, Sill.drainWriteBacks_poison, hp]
  · obtain ⟨counters, hm⟩ := s.tempRead_self m celsius.toNat
    have hstay : ¬(celsius.toNat > (s.sill m).trainTemp + 10 || (s.sill m).trainTemp > celsius.toNat + 10) = true := by
      simp [hlo, hhi]
    exact ⟨_, (exec_stackTempRead m celsius s).trans (congrArg _ (if_neg hstay)), by rw [hm], by rw [hm],
      List.mem_append_right _ (List.mem_singleton_self _), fun n hn => s.tempRead_ne _ hn⟩
  · have hmoved : (celsius.toNat > (s.sill m).trainTemp + 10 || (s.sill m).trainTemp > celsius.toNat + 10) = true := by
      simp [hhot]
    exact ⟨_, (exec_stackTempRead m celsius s).trans (congrArg _ (if_pos hmoved)),
      State.askRetrain_waits (s := s.tempRead m celsius.toNat) m hidle⟩

end Sys2Proof.Machine

/-! PROOFS. The aperture of BAR2: the payload scratch, module memory that it does not reach, and EVT_CONSUMED (R153, R262, R263,
R277, R283). -/

namespace Sys2Proof.Machine

/-! ## The payload scratch (R277) -/

theorem exec_apertureWrite_scratch {x : BitVec 36} {data : List Byte} (s : State) (hlo : 0x300000 ≤ x.toNat)
    (hhi : x.toNat + data.length ≤ 0x400000) (hx : x.toNat < 0x400000) :
    exec (.apertureWrite x data) s = .next (s.writeScratch (x.toNat - 0x300000) data) :=
  (if_pos hx).trans (congrArg _ (if_pos ⟨hlo, hhi⟩))

theorem State.mgmtByte_scratch (s : State) {x : Nat} (h : 0x300000 ≤ x) : s.mgmtByte x = s.mgmt.scratch.get (x - 0x300000) := by
  rw [State.mgmtByte, if_neg (by omega), if_neg (by omega), if_neg (by omega), if_neg (by omega), if_pos h]

theorem Memory.read_eq_map (m : Memory) (a n : Nat) : m.read a n = (List.range n).map fun i => m.get (a + i) := by
  induction n generalizing a with
  | zero => rfl
  | succ n ih => simp [Memory.read, ih, List.range_succ_eq_map, Nat.add_assoc, Nat.add_comm 1]

theorem exec_apertureRead_scratch {x : BitVec 36} {n : Nat} (s : State) (hlo : 0x300000 ≤ x.toNat) (hx : x.toNat < 0x400000) :
    exec (.apertureRead x n []) s = .next (s.answerBar2 (s.mgmt.scratch.read (x.toNat - 0x300000) n)) := by
  have hbyte (i : Nat) : s.mgmtByte (x.toNat + i) = s.mgmt.scratch.get (x.toNat - 0x300000 + i) := by
    rw [s.mgmtByte_scratch (Nat.le_add_right_of_le hlo), Nat.sub_add_comm hlo]
  show execApertureRead x n [] s = _
  simp only [execApertureRead, if_pos hx, hbyte, Memory.read_eq_map]

/-! ## Module memory that the aperture does not reach (R153, R263) -/

theorem exec_apertureWrite_drops {s : State} {x : BitVec 36} {data : List Byte} (hx : 0x400000 ≤ x.toNat)
    (h : s.memoryOn = false ∨ s.inMemory (s.apertureAddr x.toNat) data.length = false ∨
      (s.jobArmed = true ∧ s.meetsProtected (s.apertureAddr x.toNat) data.length = true)) :
    exec (.apertureWrite x data) s = .next s.dropAperture := by
  have hbar : (!s.memoryOn || !s.inMemory (s.apertureAddr x.toNat) data.length ||
      (s.jobArmed && s.meetsProtected (s.apertureAddr x.toNat) data.length)) = true := by
    rcases h with hoff | hout | ⟨harmed, hmeets⟩
    · simp [hoff]
    · simp [hout]
    · simp [harmed, hmeets]
  exact (if_neg (Nat.not_lt.mpr hx)).trans (congrArg _ (if_pos hbar))

theorem exec_apertureRead_ones {s : State} {x : BitVec 36} {n : Nat} (found : List SectorEvent) (hx : 0x400000 ≤ x.toNat)
    (h : s.memoryOn = false ∨ s.inMemory (s.apertureAddr x.toNat) n = false) :
    exec (.apertureRead x n found) s = .next (s.answerBar2 (List.replicate n 0xFF)) := by
  have hbar : (!s.memoryOn || !s.inMemory (s.apertureAddr x.toNat) n) = true := by
    rcases h with hoff | hout
    · simp [hoff]
    · simp [hout]
  exact (if_neg (Nat.not_lt.mpr hx)).trans (congrArg _ (if_pos hbar))

/-! ## EVT_CONSUMED (R283) -/

theorem exec_evtConsumedWrite (v : Word) (s : State) : exec (.evtConsumedWrite v) s = .next (s.consumeEvents v) := rfl

theorem State.consumeEvents_of_nil {s : State} (v : Word) (h : s.mgmt.waiting = []) :
    s.consumeEvents v = { s with mgmt := { s.mgmt with evtConsumed := v } } := by
  simp only [State.consumeEvents, h, List.length_nil, drainEvents]

/-- Raising the event vector leaves the entries of the ring and its indices as they are. -/
theorem State.raiseEvent_entries (s : State) : s.raiseEvent.mgmt.waiting = s.mgmt.waiting ∧
    s.raiseEvent.mgmt.events = s.mgmt.events ∧ s.raiseEvent.mgmt.evtProduced = s.mgmt.evtProduced ∧
    s.raiseEvent.mgmt.evtConsumed = s.mgmt.evtConsumed := by
  have hraise (t : State) (v : Nat) : (t.raiseVector v).mgmt = t.mgmt :=
    ite_both (P := fun u : State => u.mgmt = t.mgmt) rfl rfl
  refine ite_both (P := fun u : State => u.mgmt.waiting = s.mgmt.waiting ∧ u.mgmt.events = s.mgmt.events ∧
    u.mgmt.evtProduced = s.mgmt.evtProduced ∧ u.mgmt.evtConsumed = s.mgmt.evtConsumed) ?_ ⟨rfl, rfl, rfl, rfl⟩
  rw [hraise]
  exact ⟨rfl, rfl, rfl, rfl⟩

/-- With room for it, the one event that waits is put into the ring and the event vector raised. -/
theorem State.consumeEvents_of_one {s : State} {v : Word} {e : Event} (h : s.mgmt.waiting = [e])
    (hroom : (s.mgmt.evtProduced - v).toNat < 4096) (hcore : s.fw.restarting[2] = false) (hdead : s.fw.dead = false) :
    s.consumeEvents v =
      State.raiseEvent { s with mgmt := { s.mgmt with evtConsumed := v, waiting := [] }.append e } := by
  have hgo : State.eventRoom { s with mgmt := { s.mgmt with evtConsumed := v } } = true := by
    simp only [State.eventRoom, Mgmt.unread, hroom, hcore, hdead, decide_true, Bool.not_false, Bool.and_self]
  simp only [State.consumeEvents, h, List.length_singleton, drainEvents]
  exact if_pos hgo

/-! ## The obligation -/

/-- Settles O54: the scratch by what a write leaves and a read answers, module memory by what bars the aperture from it, and
EVT_CONSUMED by the event that waits. -/
theorem theApertureReachesItsAreas : Obligations.TheApertureReachesItsAreas := by
  unfold Obligations.TheApertureReachesItsAreas
  refine fun s => ⟨fun x data hlo hhi hne => ?_, fun x n hlo hhi hn => exec_apertureRead_scratch s hlo (by omega),
    fun x data hx h => exec_apertureWrite_drops hx h, fun x n found hx h => exec_apertureRead_ones found hx h,
    fun v h => (exec_evtConsumedWrite v s).trans (congrArg _ (State.consumeEvents_of_nil v h)), fun v e h hroom hcore hdead => ?_⟩
  · have hlen : 0 < data.length := List.length_pos_of_ne_nil hne
    refine ⟨_, exec_apertureWrite_scratch s hlo hhi (by omega), fun k hk => ?_, fun a ha => ?_, rfl, rfl⟩
    · rw [State.writeScratch_eq, Memory.get_write, if_pos (by omega), Nat.add_sub_cancel_left]
    · rw [State.writeScratch_eq, Memory.get_write, if_neg (by omega)]
  · obtain ⟨hwaiting, hevents, hproduced, hconsumed⟩ :=
      State.raiseEvent_entries { s with mgmt := { s.mgmt with evtConsumed := v, waiting := [] }.append e }
    refine ⟨_, (exec_evtConsumedWrite v s).trans (congrArg _ (State.consumeEvents_of_one h hroom hcore hdead)), hwaiting, ?_,
      hproduced, hconsumed⟩
    rw [hevents]
    exact List.getLast?_concat

end Sys2Proof.Machine

/-! PROOFS. The element rules of an update and the counting of votes, as their text gives them (R167 to R169, R172, R226, R227). -/

namespace Sys2Proof.Machine

/-! ## Rules by element (R168, R169) -/

/-- PLAIN: the new momentum is the old one scaled plus the gradient, and it is what the master weight steps by. -/
theorem plainRule_eq (p : RuleParams) (m v g : Dyad) (w : W40) : plainRule p m v g w =
    ⟨fAdd (fMul p.beta1 m) g, v, stepMaster w (stepSize p (fAdd (fMul p.beta1 m) g) w)⟩ := rfl

/-- SIGNED: the momentum takes beta2 and the step the sign of c, which takes beta1. -/
theorem signedRule_eq (p : RuleParams) (m v g : Dyad) (w : W40) : signedRule p m v g w =
    ⟨blend p.beta2 m g, v, stepMaster w (stepSize p (signStep (blend p.beta1 m g)) w)⟩ := rfl

/-! ## Votes (R172, R226, R227) -/

theorem voteCode_of_minority {n q : Nat} (h : 2 * q < n) : voteCode n q = 1 := if_pos h

theorem voteCode_of_majority {n q : Nat} (h : n < 2 * q) : voteCode n q = 3 := by
  rw [voteCode, if_neg (by omega), if_pos h]

theorem voteCode_of_tie {n q : Nat} (h : 2 * q = n) : voteCode n q = 0 := by
  rw [voteCode, if_neg (by omega), if_neg (by omega)]

theorem signWord_cons (c : Dyad) (cs : List Dyad) : signWord (c :: cs) = 2 * signWord cs + bit c.isNeg := Nat.add_comm _ _

/-- Bit j of a sign word is the sign bit of value j, and 0 past the last value. -/
theorem signWord_testBit (cs : List Dyad) (j : Nat) : (signWord cs).testBit j = (cs.getD j .zero).isNeg := by
  induction cs generalizing j with
  | nil => exact Nat.zero_testBit j
  | cons c cs ih =>
    cases j with
    | zero => cases hc : c.isNeg <;> simp [signWord_cons, hc, bit, Nat.testBit_zero]
    | succ j =>
      have hhalf : signWord (c :: cs) / 2 = signWord cs := by
        cases hc : c.isNeg <;> simp only [signWord_cons, hc, bit, Bool.false_eq_true, if_true, if_false] <;> omega
      rw [Nat.testBit_succ, hhalf, ih, List.getD_cons_succ]

/-- Sign words raise the count of element j by its bit. -/
theorem addSigns_getD (counts : List Nat) (words : List Byte) {j : Nat} (h : j < counts.length) :
    (addSigns counts words).getD j 0 =
      counts.getD j 0 + bit ((words.getD (j / 8) 0).getLsbD (j % 8)) := by
  simp [addSigns, List.getD_eq_getElem?_getD, h]

/-! ## The obligation -/

/-- Settles O56: the rules by their equations, the vote codes by where twice the count lies, and the sign words bit by bit. -/
theorem rulesAndVotesFollowTheirText : Obligations.RulesAndVotesFollowTheirText := by
  unfold Obligations.RulesAndVotesFollowTheirText
  exact ⟨plainRule_eq, signedRule_eq,
    fun n q => ⟨voteCode_of_minority, voteCode_of_majority, fun h => ⟨voteCode_of_tie h, by omega⟩⟩,
    signWord_testBit, fun l words j h => addSigns_getD l words h⟩

end Sys2Proof.Machine

/-! PROOFS. The module's fence before and once it may be reached, and the abandonment of an attempt with its drain (R179, R232,
R297). -/

namespace Sys2Proof.Machine

/-! ## MODULE_FENCE, STEP_ABANDON and DRAIN_TIMEOUT -/

theorem exec_moduleFence_skips {s : State} (found : List (SillId × Nat)) (h : s.kp.state ≠ .running ∨ s.job.phase ≠ .running) :
    exec (.moduleFence found) s = .next s := by
  have hout : ¬(decide (s.kp.state = .running) && decide (s.job.phase = .running)) = true := by
    simpa only [Bool.and_eq_true, decide_eq_true_eq, not_and_or] using h
  exact congrArg _ (if_neg hout)

/-- In an attempt that nothing abandons, the fence is reached if it may be. -/
theorem exec_moduleFence_attempt {s : State} (found : List (SillId × Nat)) (hk : s.kp.state = .running)
    (hp : s.job.phase = .running) (hline : s.lineHigh = false) (hab : s.job.abandoned = false) :
    exec (.moduleFence found) s = .next (if s.fenceReady then s.reachFence found else s) := by
  show execModuleFence found s = _
  simp [execModuleFence, hk, hp, hline, hab]

theorem exec_stepAbandon_abandons {s : State} {die : DieId} (bay : BayIx) (hk : s.kp.state = .running)
    (hp : s.job.phase = .running) (hline : (s.die die).abandonLine = true) :
    exec (.stepAbandon die bay) s = .next s.abandonOnce := by
  show execStepAbandon die bay s = _
  simp [execStepAbandon, hk, hp, hline]

theorem exec_stepAbandon_skips {s : State} {die : DieId} (bay : BayIx) (hline : (s.die die).abandonLine = false) :
    exec (.stepAbandon die bay) s = .next s := by
  show execStepAbandon die bay s = _
  simp [execStepAbandon, hline]

theorem State.lowerLine_abandonLine (s : State) (d : DieId) : (s.lowerLine.die d).abandonLine = false := by
  rw [State.lowerLine, State.mapDies_die]

theorem exec_drainTimeout_skips {s : State} (h : s.job.abandoned = false) : exec .drainTimeout s = .next s := by
  show execDrainTimeout s = _
  rw [execDrainTimeout, if_neg (Bool.eq_false_iff.mp h)]

theorem exec_drainTimeout_abandoned {s : State} (h : s.job.abandoned = true) :
    exec .drainTimeout s = .next (allBays.foldl State.forceDrain s) := by
  show execDrainTimeout s = _
  rw [execDrainTimeout, if_pos h]

theorem State.forceDrain_of_not_quiescing {s : State} {b : BayId} (h : (s.bay b).func .bay ≠ .quiescing) : s.forceDrain b = s :=
  if_neg h

/-! ## What the check of the touched-row lists leaves (R175) -/

/-- The module's state, its collectives and the reports of its children are as they were. -/
def KeepsTree (s t : State) : Prop := t.kp = s.kp ∧ t.coll = s.coll ∧ t.job.children = s.job.children

theorem KeepsTree.refl (s : State) : KeepsTree s s := ⟨rfl, rfl, rfl⟩

theorem KeepsTree.trans {s t u : State} (h : KeepsTree s t) (k : KeepsTree t u) : KeepsTree s u :=
  ⟨k.1.trans h.1, k.2.1.trans h.2.1, k.2.2.trans h.2.2⟩

theorem State.report_keepsTree (s : State) (r : Report) : KeepsTree s (s.report r) := by
  rw [s.report_eq r]
  exact .refl s

theorem State.setBits_keepsTree (s : State) (b : Bits) : KeepsTree s (s.setBits b) := by
  rcases s.setBits_cases b with ⟨-, h⟩ | ⟨-, -, h⟩ | ⟨-, -, h⟩ <;> rw [h] <;> exact .refl s

theorem State.waitItem_keepsTree (s : State) (code : Nat) (mask : Word) : KeepsTree s (s.waitItem code mask) := by
  obtain ⟨items, h⟩ := s.waitItem_items code mask
  rw [h]
  exact .refl s

/-- Outside the idle states a failed row waits for its repair. -/
theorem State.failRow_keepsTree {s : State} (hi : ¬s.isIdleKind = true) (m : SillId) (sector : Nat) (cause : BitVec 4) :
    KeepsTree s (s.failRow m sector cause) := by
  refine ite_both (.refl s) ?_
  rw [if_neg hi]
  exact .trans (.refl s) (State.waitItem_keepsTree _ _ _)

/-- A sector in which a check finds nothing may lie on a retired page or be poisoned, and is reported then. -/
theorem State.eccRead_keepsTree {s : State} (hk : s.kp.state = .running) (m : SillId) (sector : Nat) :
    KeepsTree s (s.eccRead ⟨m, sector, .clean, .none⟩).1 := by
  have bad (t : State) (ht : KeepsTree s t) (cls : Class) (code : BitVec 16) (st : Status) :
      KeepsTree s (t.reportSector m sector cls code st) := ht.trans (t.report_keepsTree _)
  by_cases hr : (s.sill m).pageRetired (pageOf (sector * 64)) = true
  · rw [State.eccRead, if_pos hr]
    exact bad (s.countSill m 0x12) (.refl s) .work 0x6012 .memoryUncorrectable
  · rw [State.eccRead, if_neg hr]
    by_cases hp : (s.sill m).poison.contains sector = true
    · simp only [State.onDieReport, if_true, hp]
      have hb := bad (s.modSill m fun y => (y.count 0x05).moveBytes true 64) (.refl s) .work 0x6005 .memoryUncorrectable
      exact hb.trans (State.failRow_keepsTree (State.not_isIdleKind_of_running (hb.1 ▸ hk)) m sector 3)
    · simp only [State.onDieReport, if_true, hp]
      exact .refl s

theorem State.readList_keepsTree {s : State} (hk : s.kp.state = .running) (l : List (SillId × Nat)) (counted : Bool) :
    KeepsTree s (s.readList l [] counted).1 := by
  refine List.foldlRecOn (motive := fun p : State × List (SillId × Nat) => KeepsTree s p.1) l _ (.refl s) fun p hp x _ => ?_
  have hc : KeepsTree s (if counted then p.1.modSill x.1 fun y => y.moveBytes false 64 else p.1) := ite_both hp hp
  exact hc.trans (State.eccRead_keepsTree (hc.1 ▸ hk) x.1 x.2)

/-- The bytes of bad sectors are free values. -/
theorem State.deliver_keepsTree (s : State) (a n : Nat) (bad : List (SillId × Nat)) : KeepsTree s (s.deliver a n bad).2 := by
  rw [State.deliver]
  split <;> exact .refl s

theorem State.readChecked_keepsTree {s : State} (hk : s.kp.state = .running) (m : SillId) (o n : Nat) :
    KeepsTree s (s.readChecked m o n).2.1 :=
  (State.readList_keepsTree hk _ true).trans (State.deliver_keepsTree _ (localAddr m o) n _)

/-- The check is unfolded as a function, so that the kernel compares its reads and does not run them. -/
theorem State.checkTouched_keepsTree {s : State} (hk : s.kp.state = .running) (m : SillId) (h : Shard) :
    KeepsTree s (s.checkTouched m h) := by
  suffices H : ∀ check, check = State.checkTouched → KeepsTree s (check s m h) from H _ rfl
  intro check hcheck
  delta State.checkTouched at hcheck
  subst hcheck
  beta_reduce
  extract_lets o
  have hcount := State.readChecked_keepsTree hk m o 4
  generalize s.readChecked m o 4 = count at hcount ⊢
  split
  next bytes t bad =>
    have ht : KeepsTree s t := hcount
    extract_lets n
    have hrows := State.readChecked_keepsTree (ht.1 ▸ hk : t.kp.state = .running) m (o + 4) (4 * min n h.geom.toNat)
    generalize t.readChecked m (o + 4) (4 * min n h.geom.toNat) = rows at hrows ⊢
    split
    next list u bad' =>
      have hu : KeepsTree s u := ht.trans hrows
      exact ite_both hu (hu.trans ((u.setBits_keepsTree _).trans (State.report_keepsTree _ _)))

theorem State.checkLists_keepsTree {s : State} (hk : s.kp.state = .running) : KeepsTree s s.checkLists :=
  List.foldlRecOn (motive := KeepsTree s) allSills _ (.refl s) fun _ ht m _ =>
    List.foldlRecOn (motive := KeepsTree s) _ _ ht fun _ hu h _ =>
      ite_both (P := KeepsTree s) (hu.trans (State.checkTouched_keepsTree (hu.1 ▸ hk) m h)) hu

/-! ## The fence is reached (R179) -/

/-- The module's bits are contributed and it stands at its fence. -/
def State.contribute (s : State) : State := { s with job := { s.job with phase := .fence, contributed := s.job.own } }

theorem State.reachFence_eq (s : State) (found : List (SillId × Nat)) :
    s.reachFence found = s.lowerLine.checkLists.contribute.verdictFlow found := rfl

theorem exec_moduleFence_reaches {s : State} (found : List (SillId × Nat)) (hk : s.kp.state = .running)
    (hp : s.job.phase = .running) (hline : s.lineHigh = false) (hab : s.job.abandoned = false) (hready : s.fenceReady = true) :
    ∃ t : State, exec (.moduleFence found) s = .next (t.verdictFlow found) ∧ t.job.phase = .fence ∧
      t.job.contributed = t.job.own ∧ t.job.children = s.job.children ∧ t.coll = s.coll := by
  obtain ⟨-, hcoll, hchildren⟩ := State.checkLists_keepsTree (s := s.lowerLine) hk
  generalize ht : s.lowerLine.checkLists = t at hcoll hchildren
  refine ⟨t.contribute, ?_, rfl, rfl, hchildren, hcoll⟩
  rw [exec_moduleFence_attempt found hk hp hline hab, hready, if_pos rfl, s.reachFence_eq, ht]

/-! ## The obligation -/

/-- Settles O35: the fence by whether it may be reached, an abandonment by whether it is the first, and the drain bay by bay. -/
theorem fencesAndAbandonment : Obligations.FencesAndAbandonment := by
  unfold Obligations.FencesAndAbandonment
  refine fun s => ⟨fun found hk hp hline hab => ⟨fun hready => ?_, exec_moduleFence_reaches found hk hp hline hab⟩,
    fun found => exec_moduleFence_skips found,
    fun die bay => ⟨fun hk hp hline hab => ?_, fun hk hp hline hab => ⟨s.lowerLine, ?_, s.lowerLine_abandonLine, rfl⟩,
      exec_stepAbandon_skips bay⟩,
    exec_drainTimeout_skips, fun hab hquiet => ?_, exec_drainTimeout_abandoned⟩
  · rw [exec_moduleFence_attempt found hk hp hline hab, hready, if_neg Bool.false_ne_true]
  · rw [exec_stepAbandon_abandons bay hk hp hline, State.abandonOnce, hab, if_neg Bool.false_ne_true]
  · rw [exec_stepAbandon_abandons bay hk hp hline, State.abandonOnce, hab, if_pos rfl]
  · rw [exec_drainTimeout_abandoned hab]
    exact congrArg _ (List.foldl_fixed' (fun b => State.forceDrain_of_not_quiescing (hquiet b)) allBays)

end Sys2Proof.Machine

/-! PROOFS. A verdict that withholds the update: what waits for it does not land, and the stacks keep every byte (R21, R179, R182,
R240). -/

namespace Sys2Proof.Machine

/-! ## Gathers of the step (R182) -/

/-- No gather waits or runs at the bay's link engine. -/
def Bay.NoGather (y : Bay) : Prop :=
  (∀ c ∈ (y.queue .link).waiting, ∀ f, c.cmd ≠ .gather f) ∧ ∀ r, (y.queue .link).running = some r → ∀ f, r.cmd ≠ .gather f

theorem State.noGather_of_gathersOut {s : State} (h : s.gathersOut = false) (b : BayId) : (s.bay b).NoGather := by
  have hb := List.any_eq_false.mp h b (mem_allBays b)
  simp only [Bool.or_eq_true, List.any_eq_true, not_or, not_exists, not_and] at hb
  obtain ⟨hwait, hrun⟩ := hb
  refine ⟨fun c hc f e => hwait c hc ?_, fun r hr f e => hrun ?_⟩
  · rw [e]
  · rw [hr]
    simp only [e]

theorem Bay.NoGather.of_queues {y z : Bay} (h : y.NoGather) (hq : z.queues = y.queues) : z.NoGather := by
  unfold Bay.NoGather Bay.queue at h ⊢
  rwa [hq]

theorem State.modQueue_eq_self (s : State) (b : BayId) (q : QueueIx) {f : EngineQueue → EngineQueue}
    (h : f ((s.bay b).queue q) = (s.bay b).queue q) : s.modQueue b q f = s := by
  refine s.modBay_eq_self b ?_
  rw [Bay.modQueue, updAt_eq_self _ _ h]

/-- The gather that a waiting command is, if a withheld update ends it. -/
def State.gatherToEnd (s : State) (c : QueuedCmd) : Option GatherFields := match c.cmd with
  | .gather f => if c.unusedClear && s.runGood f.coll false f.first f.count then some f else none
  | _ => none

theorem State.gatherToEnd_of_ne (s : State) {c : QueuedCmd} (h : ∀ f, c.cmd ≠ .gather f) : s.gatherToEnd c = none := by
  rw [State.gatherToEnd]
  split
  · exact absurd ‹_› (h _)
  · rfl

theorem State.endWaiting_eq (s : State) (st : Status) (b : BayId) : s.endWaiting st b =
    ((s.bay b).queue .link).waiting.foldl (fun t c => match s.gatherToEnd c with
        | some f => (t.gatherDone f.gatherNo st).finishCmd b .link c.ctr st (cmdTag c.cmd)
        | none => t)
      (s.modQueue b .link fun q => { q with waiting := q.waiting.filter fun c => (s.gatherToEnd c).isNone }) := rfl

/-- Where no gather waits, none completes. -/
theorem State.endWaiting_of_noGather {s : State} {b : BayId} (st : Status) (h : (s.bay b).NoGather) : s.endWaiting st b = s := by
  have hnone (c : QueuedCmd) (hc : c ∈ ((s.bay b).queue .link).waiting) : s.gatherToEnd c = none := s.gatherToEnd_of_ne (h.1 c hc)
  have hstay : ((s.bay b).queue .link).waiting.filter (fun c => (s.gatherToEnd c).isNone) = ((s.bay b).queue .link).waiting :=
    List.filter_eq_self.mpr fun c hc => by rw [hnone c hc, Option.isNone_none]
  rw [State.endWaiting_eq, s.modQueue_eq_self b .link (by rw [hstay])]
  refine List.foldlRecOn (motive := fun t : State => t = s) _ _ rfl fun t ht c hc => ?_
  rw [hnone c hc]
  exact ht

theorem State.endGather_of_noGather {s : State} {b : BayId} (st : Status) (h : (s.bay b).NoGather) : s.endGather st b = s := by
  rw [State.endGather, State.endWaiting_of_noGather st h]
  cases hr : ((s.bay b).queue .link).running with
  | none => rfl
  | some r =>
    cases hc : r.cmd with
    | gather f => exact absurd hc (h.2 r hr f)
    | _ => simp only [hc]

theorem State.endGathers_of_noGather {s : State} (st : Status) (h : ∀ b, (s.bay b).NoGather) : s.endGathers st = s :=
  List.foldl_fixed' (fun b => State.endGather_of_noGather st (h b)) allBays

/-! ## Chunks that waited for the verdict (R198, R240) -/

/-- The stacks and the job are as they were. -/
def KeepsStacks (s t : State) : Prop := t.sills = s.sills ∧ t.job = s.job

theorem KeepsStacks.refl (s : State) : KeepsStacks s s := ⟨rfl, rfl⟩

theorem KeepsStacks.trans {s t u : State} (h : KeepsStacks s t) (k : KeepsStacks t u) : KeepsStacks s u :=
  ⟨k.1.trans h.1, k.2.trans h.2⟩

theorem State.report_keepsStacks (s : State) (r : Report) : KeepsStacks s (s.report r) := by
  rw [s.report_eq r]
  exact .refl s

theorem State.leaveBuffer_keepsStacks (s : State) (q : QueuedTenon) : KeepsStacks s (s.leaveBuffer q) := by
  rw [State.leaveBuffer]
  split <;> exact .refl s

/-- After a withheld verdict a chunk of copy is late, whatever it carries. -/
theorem State.landGather_keepsStacks {s : State} (h : s.withheld.isSome = true) (src : BitVec 15) (context : DWord)
    (payload : List Byte) : KeepsStacks s (s.landGather src context payload) := by
  refine ite_both (.refl s) ?_
  cases s.collEntry (ctxColl context) with
  | none => exact .refl s
  | some x => exact ite_both (.refl s) (by rw [if_pos h]; exact .refl s)

/-- The chunks that waited leave their buffers and do not land. -/
theorem State.landHeld_keepsStacks {s : State} {v : Bits} (hv : s.job.verdict = some v) (hany : v.any = true) :
    KeepsStacks s s.landHeld := by
  refine List.foldlRecOn (motive := KeepsStacks s) s.coll.held _ (.refl s) fun t ht q _ => ?_
  have hleft := ht.trans (t.leaveBuffer_keepsStacks q)
  have hout : (t.leaveBuffer q).withheld.isSome = true := by
    rw [State.withheld, hleft.2, hv]
    simp only [hany, if_true, Option.isSome_some]
  have htake : t.takeGatherData q = (t.leaveBuffer q).landGather q.tenon.srcId q.tenon.context q.tenon.payload := by
    rw [State.takeGatherData, ht.2, hv]
    simp
  rw [htake]
  exact hleft.trans (State.landGather_keepsStacks hout _ _ _)

/-! ## The verdict settles (R182, R300) -/

/-- The verdict is noted; ledgers advance or revert, and the kiln regions close. -/
def State.verdictTaken (s : State) (v : Bits) : State :=
  State.mapDies { s with job := { s.job with
    verdict := some v, phase := .settled, flagged := (s.dies.toList.map RingDie.flaggedEntries).sum } }
    fun d => (d.ledgerVerdict v.replay).closeRegions v.replay

/-- The verdict is taken, and a REPLAY counted. -/
def State.verdictNoted (s : State) (r : StepRec) (v : Bits) : State := (s.verdictTaken v).countReplay r v

theorem State.settle_withholds {s : State} {r : StepRec} {v : Bits} (found : List (SillId × Nat)) (hr : s.job.current = some r)
    (hv : v.any = true) : s.settle v found =
      (((allSills.foldl (fun s m => s.countSill m 0x24) (s.verdictNoted r v)).report
        { cls := .notice, code := 0x6024, subject := idModule, reporter := idModule }).endGathers (withheldStatus v)).landHeld := by
  simp only [State.settle, hr, hv, if_true, State.verdictNoted, State.verdictTaken]

/-- The count of a REPLAY is in the job alone. -/
theorem State.countReplay_eq (s : State) (r : StepRec) (v : Bits) : ∃ (n : Nat) (of : Option DWord),
    s.countReplay r v = { s with job := { s.job with replays := n, replayOf := of } } := by
  rw [State.countReplay]
  split <;> exact ⟨_, _, rfl⟩

/-- A verdict at a die leaves its queues. -/
theorem RingDie.verdict_queues (d : RingDie) (replay : Bool) (b : BayIx) :
    ((d.ledgerVerdict replay).closeRegions replay).bays[b].queues = d.bays[b].queues := by
  simp [RingDie.closeRegions, RingDie.ledgerVerdict, RingDie.count]

/-- A verdict is noted in the job, and at the dies it leaves what the engines wait for and run. -/
theorem State.verdictNoted_frame (s : State) (r : StepRec) (v : Bits) :
    (s.verdictNoted r v).sills = s.sills ∧ (s.verdictNoted r v).job.verdict = some v ∧
      (s.verdictNoted r v).job.phase = .settled ∧ (s.verdictNoted r v).job.committed = s.job.committed ∧
      ∀ b, ((s.verdictNoted r v).bay b).queues = (s.bay b).queues := by
  obtain ⟨n, of, h⟩ := (s.verdictTaken v).countReplay_eq r v
  rw [State.verdictNoted, h]
  refine ⟨rfl, rfl, rfl, rfl, fun b => ?_⟩
  rw [State.bay, State.die_of_job, State.verdictTaken, State.mapDies_die]
  exact RingDie.verdict_queues _ v.replay b.bay

/-- What follows a withheld verdict at the link engines, where no gather is out, touches no stack and nothing of the job. -/
theorem State.endGathers_landHeld_keepsStacks {s : State} {v : Bits} (st : Status) (hv : s.job.verdict = some v)
    (hany : v.any = true) (hquiet : ∀ b, (s.bay b).NoGather) : KeepsStacks s (s.endGathers st).landHeld := by
  rw [State.endGathers_of_noGather st hquiet]
  exact State.landHeld_keepsStacks hv hany

/-- Every stack of the list counts once. -/
theorem State.foldl_countSill_sill (s : State) {l : List SillId} (hl : l.Nodup) {m : SillId} (hm : m ∈ l) (i : Nat) :
    (l.foldl (fun s m => s.countSill m i) s).sill m = (s.sill m).count i := by
  induction l generalizing s with
  | nil => exact absurd hm List.not_mem_nil
  | cons k l ih =>
    obtain ⟨hk, hl⟩ := List.nodup_cons.mp hl
    rw [List.foldl_cons]
    by_cases hmk : m ∈ l
    · rw [ih _ hl hmk, State.countSill, State.modSill_ne _ _ _ _ fun e : k = m => hk (e ▸ hmk)]
    · obtain rfl : m = k := (List.mem_cons.mp hm).resolve_right hmk
      refine List.foldlRecOn (motive := fun t : State => t.sill m = (s.sill m).count i) l _ (State.modSill_self _ _ _)
        fun t ht j hj => ?_
      rw [State.countSill, State.modSill_ne _ _ _ _ fun e : j = m => hmk (e ▸ hj), ht]

theorem State.foldl_allSills_countSill (s : State) (i : Nat) (m : SillId) :
    (allSills.foldl (fun s m => s.countSill m i) s).sill m = (s.sill m).count i :=
  s.foldl_countSill_sill (List.nodup_finRange 12) (List.mem_finRange m) i

theorem State.foldl_countSill_frame (s : State) (l : List SillId) (i : Nat) :
    (l.foldl (fun s m => s.countSill m i) s).job = s.job ∧ (l.foldl (fun s m => s.countSill m i) s).dies = s.dies :=
  List.foldlRecOn (motive := fun t : State => t.job = s.job ∧ t.dies = s.dies) l _ ⟨rfl, rfl⟩ fun _ h _ _ => h

/-- A withheld update leaves the job with its verdict, and at each stack it counts one withheld update. -/
theorem State.settle_withheld {s : State} {r : StepRec} {v : Bits} (found : List (SillId × Nat)) (hr : s.job.current = some r)
    (hv : v.any = true) (hout : s.gathersOut = false) :
    (s.settle v found).job = (s.verdictNoted r v).job ∧ ∀ m : SillId, (s.settle v found).sill m = (s.sill m).count 0x24 := by
  obtain ⟨hsills, hverdict, -, -, hqueues⟩ := s.verdictNoted_frame r v
  obtain ⟨hjob, hdies⟩ := (s.verdictNoted r v).foldl_countSill_frame allSills 0x24
  have hcount := (s.verdictNoted r v).foldl_allSills_countSill 0x24
  rw [s.settle_withholds found hr hv]
  generalize allSills.foldl (fun s m => State.countSill s m 0x24) (s.verdictNoted r v) = counted at hjob hdies hcount ⊢
  generalize hn : counted.report _ = t
  have hkeeps : KeepsStacks counted t := hn ▸ counted.report_keepsStacks _
  have hbay (b : BayId) : (t.bay b).queues = (s.bay b).queues := by
    rw [← hqueues b, ← hn, State.bay, State.report_die, State.die, hdies]
    rfl
  obtain ⟨hstacks, hsame⟩ := hkeeps.trans <|
    State.endGathers_landHeld_keepsStacks (withheldStatus v) (by rw [hkeeps.2, hjob, hverdict]) hv fun b =>
      (State.noGather_of_gathersOut hout b).of_queues (hbay b)
  refine ⟨hsame.trans hjob, fun m => ?_⟩
  rw [State.sill, hstacks, ← State.sill, hcount, State.sill, hsills, ← State.sill]

/-! ## The obligation -/

/-- Settles O37: a withheld update only counts at each stack; no gather is out to be ended, and the chunks that waited are late. -/
theorem withheldUpdatesWriteNothing : Obligations.WithheldUpdatesWriteNothing := by
  unfold Obligations.WithheldUpdatesWriteNothing
  intro s r v found hr hv hout
  obtain ⟨hjob, hsill⟩ := s.settle_withheld found hr hv hout
  obtain ⟨-, hverdict, hphase, hcommitted, -⟩ := s.verdictNoted_frame r v
  rw [hjob]
  refine ⟨hverdict, hphase, hcommitted, fun m => ?_⟩
  rw [hsill m]
  exact ⟨rfl, rfl, rfl, Sparse.get_set_self _ _ _ _⟩

end Sys2Proof.Machine

/-! PROOFS. The end of a step: STEP_END at a settled step, VERDICT_TIMEOUT at the fence, and the status of the step's completion
(R181 to R183). -/

namespace Sys2Proof.Machine

/-! ## STEP_END (R182) -/

theorem exec_stepEnd_settled {s : State} {r : StepRec} {v : Bits} (hr : s.job.current = some r) (hv : s.job.verdict = some v)
    (hp : s.job.phase = .settled) :
    exec .stepEnd s = .next (if s.kp.state = .faulted || !s.gathersOut then s.endStep r v else s) := by
  show execStepEnd s = _
  simp [execStepEnd, hr, hv, hp]

theorem exec_stepEnd_skips {s : State} (h : s.job.current = none ∨ s.job.verdict = none ∨ s.job.phase ≠ .settled) :
    exec .stepEnd s = .next s := by
  show execStepEnd s = _
  rw [execStepEnd]
  split
  next r v hr hv =>
    have hp : s.job.phase ≠ .settled := by simpa [hr, hv] using h
    simp [hp]
  · rfl

/-! ## VERDICT_TIMEOUT (R181) -/

/-- The step is given up: recorded, completed with PEER_LOST, and no longer in progress. -/
def State.givenUp (s : State) (r : StepRec) : State :=
  let t := (s.report { cls := .work, code := 0x8801, subject := idModule, reporter := idEdge 0 1, status := .peerLost,
                       detail := r.s }).completeStep r .peerLost {}
  { t with job := { t.job with current := none, phase := .none, verdict := none } }

theorem exec_verdictTimeout_givesUp {s : State} {r : StepRec} (hr : s.job.current = some r) (hk : s.kp.state = .running)
    (hp : s.job.phase = .fence) :
    exec .verdictTimeout s = .next (((s.givenUp r).endGathers .stepWithheld).landHeld.endFence (some .peerLost)) := by
  show execVerdictTimeout s = _
  simp [execVerdictTimeout, hr, hk, hp, State.givenUp]

theorem exec_verdictTimeout_skips {s : State} (h : s.job.current = none ∨ s.kp.state ≠ .running ∨ s.job.phase ≠ .fence) :
    exec .verdictTimeout s = .next s := by
  show execVerdictTimeout s = _
  rw [execVerdictTimeout]
  split
  next r hr =>
    have hout : s.kp.state = .running → s.job.phase ≠ .fence := by simpa [hr, imp_iff_not_or] using h
    simpa using fun hk hp => absurd hp (hout hk)
  · rfl

/-- The stacks, and the descriptors that each ring holds, are as they were. -/
def KeepsHeld (s t : State) : Prop := t.sills = s.sills ∧ ∀ n : RingIx, (t.ring n).held = (s.ring n).held

theorem KeepsHeld.refl (s : State) : KeepsHeld s s := ⟨rfl, fun _ => rfl⟩

theorem KeepsHeld.trans {s t u : State} (h : KeepsHeld s t) (k : KeepsHeld t u) : KeepsHeld s u :=
  ⟨k.1.trans h.1, fun n => (k.2 n).trans (h.2 n)⟩

theorem OnlyEvents.keepsHeld {s t : State} (h : OnlyEvents s t) : KeepsHeld s t := by
  unfold OnlyEvents at h
  rw [h]
  exact ⟨rfl, fun _ => rfl⟩

theorem State.report_keepsHeld (s : State) (r : Report) : KeepsHeld s (s.report r) :=
  (s.report_only r).keepsHeld

theorem State.modRing_keepsHeld (s : State) (n : RingIx) {f : HostRing → HostRing} (h : ∀ x, (f x).held = x.held) :
    KeepsHeld s (s.modRing n f) := by
  refine ⟨rfl, fun k => ?_⟩
  by_cases hk : n = k
  · rw [hk, State.modRing_self, h]
  · rw [State.modRing_ne _ _ _ _ hk]

theorem State.signal_keepsHeld (s : State) (n : RingIx) : KeepsHeld s (s.signal n) :=
  ite_both (s.modRing_keepsHeld n fun _ => rfl)
    (.trans (s.modRing_keepsHeld n (f := fun r => { r with holdoff := decide (r.holdoffUs > 0) }) fun _ => rfl)
      (State.raiseVector_only _ _).keepsHeld)

theorem State.writeCompletion_keepsHeld (s : State) (c : Completion) : KeepsHeld s (s.writeCompletion c) := by
  have hwrite := fun t : State => t.modRing_keepsHeld c.ring (f := fun r => { r with completed := r.completed + 1 }) fun _ => rfl
  exact ite_both ((hwrite _).trans (State.signal_keepsHeld _ _)) (hwrite _)

/-- A completion record takes no descriptor from its ring. -/
theorem State.putCompletion_keepsHeld (s : State) (c : Completion) : KeepsHeld s (s.putCompletion c) :=
  ite_both (.refl s) (ite_both (ite_both (.refl s) (s.modRing_keepsHeld c.ring fun _ => rfl)) (s.writeCompletion_keepsHeld c))

/-- The oldest descriptor that the ring holds completes and leaves it. -/
theorem State.finishDesc_held (s : State) (n : RingIx) (st : Status) (f : Completion → Completion) :
    (s.finishDesc n st f).sills = s.sills ∧ ((s.finishDesc n st f).ring n).held = (s.ring n).held.tail := by
  rw [State.finishDesc]
  cases hh : (s.ring n).held with
  | nil => exact ⟨rfl, hh⟩
  | cons h rest =>
    have hput := (s.modRing n fun r => { r with held := rest }).putCompletion_keepsHeld (f (s.completionOf n h st))
    have hleft : ((s.modRing n fun r => { r with held := rest }).ring n).held = (h :: rest).tail := by
      rw [State.modRing_self, List.tail_cons]
    refine ite_both (P := fun t : State => t.sills = s.sills ∧ (t.ring n).held = (h :: rest).tail) ?_
      ⟨hput.1, (hput.2 n).trans hleft⟩
    obtain ⟨hsills, hheld⟩ := hput.trans (State.report_keepsHeld _ _)
    exact ⟨hsills, (hheld n).trans hleft⟩

theorem State.givenUp_frame (s : State) (r : StepRec) : (s.givenUp r).sills = s.sills ∧
    ((s.givenUp r).ring r.ring).held = (s.ring r.ring).held.tail := by
  have hrep := s.report_keepsHeld { cls := .work, code := 0x8801, subject := idModule, reporter := idEdge 0 1,
                                    status := .peerLost, detail := r.s }
  obtain ⟨hsills, hheld⟩ := State.finishDesc_held (s.report _) r.ring .peerLost _
  exact ⟨hsills.trans hrep.1, hheld.trans (congrArg List.tail (hrep.2 r.ring))⟩

/-! ## The status of a step (R183) -/

/-- A verdict that withholds the update gives its status whatever the sills have done. -/
theorem State.stepStatus_withheld (s : State) {v : Bits} (hv : v.any = true) : s.stepStatus v =
    if v.skew && s.job.contributed.skew then .stepSkew
    else if v.skew || (v.nonfinite && !v.replay) then .stepWithheld else .stepReplayed := by
  rw [State.stepStatus, if_neg (by simp [hv])]
  obtain ⟨nonfinite, skew, replay⟩ := v
  cases replay with
  | true => rfl
  | false =>
    have hset : (skew || (nonfinite && !false)) = true := by simpa [Bits.any, Bool.or_comm] using hv
    simp only [hset, if_true]

/-- With every sill committed a clear verdict is DONE, flagged where an entry of a ledger is. -/
theorem State.stepStatus_clear (s : State) (hall : s.job.committed.length = 12) :
    s.stepStatus {} = if s.job.flagged = 0 then .done else .doneFlagged := by
  simp only [State.stepStatus, Bits.any, hall, Nat.lt_irrefl, Nat.pos_iff_ne_zero, ite_not, decide_false, Bool.and_false,
    Bool.false_and, Bool.or_false, Bool.false_eq_true, if_false]

/-! ## The obligation -/

/-- Settles O38: STEP_END and VERDICT_TIMEOUT by what they find, and the status by the verdict's bits. -/
theorem stepsEndWithTheirStatus : Obligations.StepsEndWithTheirStatus := by
  unfold Obligations.StepsEndWithTheirStatus
  refine ⟨fun s => ⟨fun r v hr hv => ⟨fun hp hout => ?_, fun hp hout hk => ?_, fun hp => exec_stepEnd_skips (.inr (.inr hp))⟩,
    fun h => exec_stepEnd_skips (h.imp_right .inl), exec_verdictTimeout_skips, fun r hr hk hp => ?_⟩, fun s v => ?_⟩
  · rw [exec_stepEnd_settled hr hv hp, hout, Bool.not_false, Bool.or_true, if_pos rfl]
  · rw [exec_stepEnd_settled hr hv hp, hout, decide_eq_false hk, Bool.not_true, Bool.or_false, if_neg Bool.false_ne_true]
  · obtain ⟨hsills, hheld⟩ := s.givenUp_frame r
    exact ⟨s.givenUp r, exec_verdictTimeout_givesUp hr hk hp, rfl, rfl, rfl, hsills, fun n hn => hn ▸ hheld⟩
  · refine ⟨fun hs hown => ?_, fun hs hown => ?_, fun hs hn hr => ?_, fun hs hr => ?_, fun hv hall => ?_⟩
    · rw [s.stepStatus_withheld (by simp [Bits.any, hs]), hs, hown]
      rfl
    · rw [s.stepStatus_withheld (by simp [Bits.any, hs]), hs, hown]
      rfl
    · rw [s.stepStatus_withheld (by simp [Bits.any, hn]), hs, hn, hr]
      rfl
    · rw [s.stepStatus_withheld (by simp [Bits.any, hr]), hs, hr]
      simp
    · rw [hv, s.stepStatus_clear hall]

end Sys2Proof.Machine

/-! PROOFS. The state of a Mortise link: one link of the bank changed, a change of its state, its loss, and what it counts (R202,
R213 to R215). -/

namespace Sys2Proof.Machine

/-! ## One link of the bank -/

theorem State.link_of_links {s t : State} (h : t.links = s.links) (k : LinkId) : t.link k = s.link k := by
  rw [State.link, h, State.link]

/-- A change that leaves the link as it is leaves the state. -/
theorem State.modLink_eq_self (s : State) (k : LinkId) {f : Link → Link} (h : f (s.link k) = s.link k) : s.modLink k f = s := by
  rw [State.modLink, updAt_eq_self s.links k h]

/-- Two updates of a link are one. -/
theorem State.modLink_modLink (s : State) (k : LinkId) (f g : Link → Link) :
    (s.modLink k f).modLink k g = s.modLink k (g ∘ f) := by
  simp [State.modLink, updAt]

theorem State.countLink_self (s : State) (k : LinkId) (i n : Nat) : (s.countLink k i n).link k = (s.link k).count i n :=
  s.modLink_self k _

theorem State.countLink_ne (s : State) {k j : LinkId} (i n : Nat) (h : j ≠ k) : (s.countLink k i n).link j = s.link j :=
  s.modLink_ne k j _ h.symm

@[simp] theorem State.report_links (s : State) (r : Report) : (s.report r).links = s.links := by rw [s.report_eq r]

@[simp] theorem State.report_link (s : State) (r : Report) (k : LinkId) : (s.report r).link k = s.link k :=
  State.link_of_links (s.report_links r) k

@[simp] theorem State.evalCauses_link (s : State) (k : LinkId) : s.evalCauses.link k = s.link k :=
  State.link_of_links s.evalCauses_links k

/-! ## A link changes its state (R204, R287, R416) -/

theorem State.setLink_of_eq {s : State} {k : LinkId} {st : LinkState} (h : (s.link k).state = st) : s.setLink k st = s := if_pos h

/-- Besides the event and the record, the link's state is what changes. -/
theorem State.setLink_links (s : State) (k : LinkId) (st : LinkState) :
    (s.setLink k st).links = (s.modLink k fun l => { l with state := st }).links := by
  by_cases h : (s.link k).state = st
  · subst h
    rw [State.setLink_of_eq rfl, State.modLink_eq_self s k rfl]
  · rw [State.setLink, if_neg h, State.report_links, (State.postEvent_only _ _ _ _ _).links]

@[simp] theorem State.setLink_self (s : State) (k : LinkId) (st : LinkState) :
    (s.setLink k st).link k = { s.link k with state := st } :=
  (State.link_of_links (s.setLink_links k st) k).trans (s.modLink_self k _)

theorem State.setLink_ne (s : State) {k j : LinkId} (st : LinkState) (h : j ≠ k) : (s.setLink k st).link j = s.link j :=
  (State.link_of_links (s.setLink_links k st) j).trans (s.modLink_ne k j _ h.symm)

/-! ## What a link counts (R215) -/

/-- A link as it was but for its counters and the payload bytes that they count. -/
def Link.OnlyCounts (l m : Link) : Prop :=
  ∃ (counters : Sparse Word) (sent received : Nat),
    m = { l with counters := counters, sentRest := sent, receivedRest := received }

theorem Link.OnlyCounts.refl (l : Link) : l.OnlyCounts l := ⟨_, _, _, rfl⟩

theorem Link.OnlyCounts.count {l m : Link} (h : l.OnlyCounts m) (i n : Nat) : l.OnlyCounts (m.count i n) := by
  obtain ⟨_, _, _, rfl⟩ := h
  exact ⟨_, _, _, rfl⟩

theorem Link.OnlyCounts.movePayload {l m : Link} (h : l.OnlyCounts m) (sent : Bool) (n : Nat) :
    l.OnlyCounts (m.movePayload sent n) := by
  obtain ⟨_, _, _, rfl⟩ := h
  exact ite_both ⟨_, _, _, rfl⟩ ⟨_, _, _, rfl⟩

theorem Link.countStalls_counts (l : Link) : l.OnlyCounts l.countStalls := by
  refine List.foldlRecOn (motive := l.OnlyCounts) _ _ (.refl l) fun m hm v _ => ?_
  split
  · exact hm
  · exact ite_both hm (hm.count _ _)

theorem State.noteLanes_counts (s : State) (k : LinkId) (e : LaneErrors) :
    ∃ f : Link → Link, (∀ l : Link, l.OnlyCounts (f l)) ∧ s.noteLanes k e = s.modLink k f :=
  ⟨_, fun l => List.foldlRecOn (motive := l.OnlyCounts) _ _ ((Link.OnlyCounts.refl l).count _ _)
    fun _ hm _ _ => (hm.count _ _).count _ _, rfl⟩

/-! ## A link is lost (R202, R214) -/

theorem State.reportLost_links (s : State) (k : Option LinkId) (st : Status) : (s.reportLost k st).links = s.links := by
  cases k <;> exact State.report_links _ _

theorem State.failLinkCmds_links (s : State) (k : LinkId) (st : Status) : (s.failLinkCmds k st).links = s.links := by
  refine List.foldlRecOn (motive := fun t : State => t.links = s.links) _ _ rfl fun t ht b _ => ?_
  split
  · exact ht
  · exact ite_both (P := fun u : State => u.links = s.links) ((State.reportLost_links _ _ _).trans ht) ht

/-- Credit that goes back changes no link but for its count of returned blocks. -/
theorem State.returnCredit_link (s : State) (i : LinkId) (t : Tenon) (k : LinkId) :
    ∃ returned : Vector Nat 4, (s.returnCredit i t).link k = { s.link k with returned := returned } := by
  by_cases h : i = k
  · subst h
    exact ⟨_, s.modLink_self i _⟩
  · exact ⟨_, s.modLink_ne i k _ h⟩

/-- A link that drops its tenons keeps its lanes, and its retry buffer is empty. -/
theorem State.dropTenons_self (s : State) (k : LinkId) : ((s.dropTenons k).link k).retry = [] ∧
    ((s.dropTenons k).link k).laneMap = (s.link k).laneMap := by
  unfold State.dropTenons
  rw [State.modLink_self]
  refine ⟨rfl, List.foldlRecOn (motive := fun t : State => (t.link k).laneMap = (s.link k).laneMap) _ _ rfl fun t ht q _ => ?_⟩
  split
  · next i _ =>
    obtain ⟨_, hcredit⟩ := t.returnCredit_link i q.tenon k
    rw [hcredit]
    exact ht
  · exact ht

theorem State.loseLink_self (s : State) (k : LinkId) (st : LinkState) : ((s.loseLink k st).link k).state = st ∧
    ((s.loseLink k st).link k).retry = [] ∧ ((s.loseLink k st).link k).laneMap = (s.link k).laneMap := by
  obtain ⟨hretry, hmap⟩ := (s.failLinkCmds k .linkDown).dropTenons_self k
  rw [State.loseLink, State.setLink_self]
  dsimp only
  exact ⟨rfl, hretry, hmap.trans (congrArg Link.laneMap (State.link_of_links (s.failLinkCmds_links k .linkDown) k))⟩

end Sys2Proof.Machine

/-! PROOFS. TENON_SEND and TENON_RECEIVE: the tenon that leaves a link next, and the one that arrives (R193, R195, R197 to R200,
R207, R220). -/

namespace Sys2Proof.Machine

/-! ## What leaves next (R198 to R200) -/

theorem Link.nextVc_of_canSend_two {l : Link} (h : l.canSend 2 = true) : l.nextVc = some 2 := by
  simp only [Link.nextVc, List.find?_cons_of_pos h]

/-- A resend counts on one tenon of the retry buffer; the buffer keeps its tenons in their order. -/
theorem Link.resendOne_retry_seq (l : Link) : l.resendOne.retry.map Unacked.seq = l.retry.map Unacked.seq := by
  refine List.ext_getElem (by simp [Link.resendOne]) fun i hi _ => ?_
  simp only [Link.resendOne, List.getElem_map, List.getElem_zipIdx, Nat.zero_add]
  split <;> rfl

theorem exec_tenonSend_skips {s : State} {k : LinkId} (h : (s.link k).state ≠ .up ∨ (s.link k).changes ≠ []) :
    exec (.tenonSend k) s = .next s := if_neg (by simpa [imp_iff_not_or] using h)

theorem exec_tenonSend_resends {s : State} {k : LinkId} (hup : (s.link k).state = .up) (hch : (s.link k).changes = [])
    (hre : 0 < (s.link k).resendLeft) : exec (.tenonSend k) s = .next (s.modLink k Link.resendOne) :=
  (if_pos (by simp [hup, hch])).trans (if_pos hre)

theorem exec_tenonSend_serves {s : State} {k : LinkId} {v : Fin 4} (hup : (s.link k).state = .up) (hch : (s.link k).changes = [])
    (hre : (s.link k).resendLeft = 0) (hv : (s.link k).nextVc = some v) :
    exec (.tenonSend k) s = .next ((s.modLink k Link.countStalls).sendNew k v) := by
  show execTenonSend k s = _
  simp [execTenonSend, hup, hch, hre, hv]

/-- The tenon as it goes out: one of this module takes its TIME (R193). -/
def State.stamped (s : State) (q : QueuedTenon) : Tenon := if q.via.isNone then { q.tenon with time := s.now } else q.tenon

theorem State.stamped_payload (s : State) (q : QueuedTenon) : (s.stamped q).payload = q.tenon.payload :=
  ite_both (P := fun t : Tenon => t.payload = q.tenon.payload) rfl rfl

theorem State.stamped_dstId (s : State) (q : QueuedTenon) : (s.stamped q).dstId = q.tenon.dstId :=
  ite_both (P := fun t : Tenon => t.dstId = q.tenon.dstId) rfl rfl

theorem State.stamped_blocks (s : State) (q : QueuedTenon) : tenonBlocks (s.stamped q) = tenonBlocks q.tenon := by
  rw [tenonBlocks, State.stamped_payload, tenonBlocks]

theorem State.stamped_time {s : State} {q : QueuedTenon} (h : q.via = none) : (s.stamped q).time = s.clk.boardTime := by
  rw [State.stamped, h]
  rfl

/-- The link once the head of a VC has left it: credits spent, a SEQ taken, the tenon kept for retry (R198 to R200). -/
def Link.Sent (l : Link) (v : Fin 4) (rest : List QueuedTenon) (t : Tenon) (m : Link) : Prop :=
  m.queues = l.queues.set v rest ∧ m.credits = l.credits.set v (l.credits[v] - tenonBlocks t) ∧ m.txSeq = l.txSeq + 1 ∧
    m.retry = l.retry ++ [⟨l.txSeq, 0, t⟩]

theorem Link.OnlyCounts.sent {l l' m : Link} {v : Fin 4} {rest : List QueuedTenon} {t : Tenon} (h : l.OnlyCounts l')
    (hs : l'.Sent v rest t m) : l.Sent v rest t m := by
  obtain ⟨_, _, _, rfl⟩ := h
  exact hs

/-- A new tenon leaves its link so; a forward also gives back the buffer it came by, which may be this link's own. -/
theorem State.sendNew_sent {s : State} {k : LinkId} {v : Fin 4} {q : QueuedTenon} {rest : List QueuedTenon}
    (hq : (s.link k).queues[v] = q :: rest) : { s.sendNew k v with links := s.links } = s ∧
      (s.link k).Sent v rest (s.stamped q) ((s.sendNew k v).link k) := by
  unfold State.sendNew
  rw [hq]
  dsimp only
  split
  · next i _ =>
    obtain ⟨_, hlink⟩ := State.returnCredit_link (s.modLink k _) i (s.stamped q) k
    rw [State.modLink_self, State.stamped] at hlink
    rw [hlink]
    exact ⟨rfl, rfl, rfl, rfl, rfl⟩
  · rw [State.modLink_self]
    exact ⟨rfl, rfl, rfl, rfl, rfl⟩

/-- With nothing to resend the VC that the rotation gives sends its head (R198 to R200). -/
theorem exec_tenonSend_sends {s : State} {k : LinkId} {v : Fin 4} {q : QueuedTenon} {rest : List QueuedTenon}
    (hup : (s.link k).state = .up) (hch : (s.link k).changes = []) (hre : (s.link k).resendLeft = 0)
    (hv : (s.link k).nextVc = some v) (hq : (s.link k).queues[v] = q :: rest) :
    ∃ t : State, exec (.tenonSend k) s = .next t ∧ { t with links := s.links } = s ∧
      (s.link k).Sent v rest (s.stamped q) (t.link k) := by
  have hcounts : (s.link k).OnlyCounts ((s.modLink k Link.countStalls).link k) := by
    rw [State.modLink_self]
    exact Link.countStalls_counts _
  have hq' : ((s.modLink k Link.countStalls).link k).queues[v] = q :: rest := by
    obtain ⟨_, _, _, hlink⟩ := hcounts
    rw [hlink]
    exact hq
  obtain ⟨hframe, hsent⟩ := State.sendNew_sent hq'
  exact ⟨_, exec_tenonSend_serves hup hch hre hv, congrArg (fun t : State => { t with links := s.links }) hframe,
    hcounts.sent hsent⟩

/-! ## What arrives (R195, R197, R200, R220) -/

theorem exec_tenonReceive_skips {s : State} {k : LinkId} (t : ArrivedTenon) (h : (s.link k).state ≠ .up) :
    exec (.tenonReceive k t) s = .next s := if_neg h

/-- What arrives at a link that is UP is counted; then it is accepted or dropped. -/
theorem exec_tenonReceive_counts {s : State} {k : LinkId} (t : ArrivedTenon) (h : (s.link k).state = .up) :
    ∃ f : Link → Link, (∀ l : Link, l.OnlyCounts (f l)) ∧ exec (.tenonReceive k t) s =
      if (arrivedGood t && decide (t.seq = (s.link k).rxSeq)) = true then
        let x := (s.modLink k f).acceptTenon k t.tenon
        if t.tenon.dstId = s.moduleId then .next (x.deliverTenon k t.tenon) else .next (x.forward k t.tenon)
      else .next ((s.modLink k f).dropTenon k t) := by
  obtain ⟨f, hf, hlanes⟩ := s.noteLanes_counts k t.lanes
  obtain ⟨_, _, _, hlink⟩ := hf (s.link k)
  have hseq : ((s.modLink k f).link k).rxSeq = (s.link k).rxSeq := by rw [State.modLink_self, hlink]
  refine ⟨f, hf, (if_pos h).trans ?_⟩
  rw [hlanes, hseq]
  rfl

theorem State.acceptTenon_self (s : State) (k : LinkId) {f : Link → Link} (hf : (s.link k).OnlyCounts (f (s.link k)))
    (t : Tenon) : (((s.modLink k f).acceptTenon k t).link k).rxSeq = (s.link k).rxSeq + 1 ∧
      (((s.modLink k f).acceptTenon k t).link k).nakSent = false ∧
      (((s.modLink k f).acceptTenon k t).link k).returned = (s.link k).returned := by
  obtain ⟨_, _, _, hlink⟩ := hf
  rw [State.acceptTenon, State.modLink_self, State.modLink_self, hlink]
  exact ⟨rfl, rfl, rfl⟩

/-- A good tenon with the expected SEQ is accepted: the next SEQ is expected and no NAK is outstanding (R200); then it is
delivered here or goes on. -/
theorem exec_tenonReceive_accepts {s : State} {k : LinkId} {t : ArrivedTenon} (hup : (s.link k).state = .up)
    (hgood : (arrivedGood t && decide (t.seq = (s.link k).rxSeq)) = true) :
    ∃ x : State, { x with links := s.links } = s ∧ (∀ j, j ≠ k → x.link j = s.link j) ∧
      (x.link k).rxSeq = (s.link k).rxSeq + 1 ∧ (x.link k).nakSent = false ∧ (x.link k).returned = (s.link k).returned ∧
      exec (.tenonReceive k t) s =
        if t.tenon.dstId = s.moduleId then .next (x.deliverTenon k t.tenon) else .next (x.forward k t.tenon) := by
  obtain ⟨f, hf, hexec⟩ := exec_tenonReceive_counts t hup
  obtain ⟨hseq, hnak, hreturned⟩ := s.acceptTenon_self k (hf (s.link k)) t.tenon
  refine ⟨(s.modLink k f).acceptTenon k t.tenon, rfl, fun j hj => ?_, hseq, hnak, hreturned, hexec.trans (if_pos hgood)⟩
  rw [State.acceptTenon, State.modLink_ne _ _ _ _ hj.symm, State.modLink_ne _ _ _ _ hj.symm]

/-- A tenon for another module waits on its route's link with one hop less (R197). -/
theorem State.forward_goes {s : State} {k out : LinkId} {t : Tenon} (hr : s.route t.dstId = some out) (hh : t.hops ≠ 0)
    (hu : (s.link out).usable = true) : s.forward k t = (s.countLink k 0x0B).modLink out fun l =>
      { l with queues := l.queues.set t.vc (l.queues[t.vc] ++ [⟨{ t with hops := t.hops - 1 }, some k⟩]) } := by
  rw [State.forward, hr]
  exact if_neg (not_or.2 ⟨hh, by simp [hu]⟩)

/-- A tenon that is dropped asks for a resend unless it is only out of order or a NAK is outstanding (R195, R200). -/
theorem State.dropTenon_self (s : State) (k : LinkId) (t : ArrivedTenon) :
    ((s.dropTenon k t).link k).rxSeq = (s.link k).rxSeq ∧ ((s.dropTenon k t).link k).queues = (s.link k).queues ∧
      ((s.dropTenon k t).link k).nakSent = ((s.link k).nakSent || !arrivedGood t) ∧
      { s.dropTenon k t with links := s.links } = s := by
  have hnak : ((s.countLink k 0x04).link k).nakSent = (s.link k).nakSent := by
    rw [State.countLink_self]
    rfl
  by_cases h : (arrivedGood t || (s.link k).nakSent) = true
  · have hdrop : s.dropTenon k t = s.countLink k 0x04 := if_pos (by rw [hnak]; exact h)
    rw [hdrop, State.countLink_self]
    refine ⟨rfl, rfl, ?_, rfl⟩
    show (s.link k).nakSent = _
    revert h
    cases arrivedGood t <;> simp
  · have hdrop : s.dropTenon k t =
        ((s.countLink k 0x04).modLink k fun l => { (l.count 0x05) with nakSent := true }).sendAck k true :=
      if_neg (by rw [hnak]; exact h)
    have hbad : arrivedGood t = false := by
      revert h
      cases arrivedGood t <;> simp
    rw [hdrop, State.sendAck, State.modLink_self, State.modLink_self, State.countLink_self, hbad]
    exact ⟨rfl, rfl, (Bool.or_true _).symm, rfl⟩

/-! ## The obligation -/

/-- Settles O40: the tenon that goes out is one to resend or the head of the VC served next, and the one that comes in is accepted
or dropped. -/
theorem tenonsLeaveAndArriveInOrder : Obligations.TenonsLeaveAndArriveInOrder := by
  unfold Obligations.TenonsLeaveAndArriveInOrder
  refine ⟨fun s k => ⟨exec_tenonSend_skips, fun hup hch hre => ?_, fun v q rest hup hch hre hv hq => ⟨fun h2 => ?_, ?_⟩⟩,
    fun s k t => ⟨exec_tenonReceive_skips t, fun hup hgood hhere => ?_, fun out hup hgood hfar hroute hout hhops huse => ?_,
      fun hup hbad => ?_⟩⟩
  · refine ⟨_, exec_tenonSend_resends hup hch hre, ?_⟩
    rw [State.modLink_self]
    exact ⟨rfl, Link.resendOne_retry_seq _, rfl, rfl, rfl, rfl⟩
  · exact (Option.some.inj ((Link.nextVc_of_canSend_two h2).symm.trans hv)).symm
  · obtain ⟨t, hexec, hframe, hqueues, hcredits, hseq, hretry⟩ := exec_tenonSend_sends hup hch hre hv hq
    rw [s.stamped_blocks] at hcredits
    exact ⟨t, hexec, hqueues, hcredits, hseq,
      ⟨_, hretry, rfl, rfl, s.stamped_payload q, s.stamped_dstId q, s.stamped_time⟩, hframe⟩
  · obtain ⟨x, hframe, -, hseq, hnak, hreturned, hexec⟩ := exec_tenonReceive_accepts hup hgood
    exact ⟨x, hexec.trans (if_pos hhere), hseq, hnak, hreturned, hframe⟩
  · obtain ⟨x, hframe, hothers, hseq, -, -, hexec⟩ := exec_tenonReceive_accepts hup hgood
    have hgoes : x.forward k t.tenon = _ := State.forward_goes
      ((congrArg (fun u : State => u.route t.tenon.dstId) hframe).trans hroute) hhops ((hothers out hout).symm ▸ huse)
    refine ⟨_, hexec.trans ((if_neg hfar).trans (congrArg _ hgoes)), ?_, ?_, hframe⟩
    · rw [State.modLink_ne _ _ _ _ hout, State.countLink_self]
      exact hseq
    · rw [State.modLink_self, State.countLink_ne _ _ _ hout, hothers out hout]
  · obtain ⟨f, hf, hexec⟩ := exec_tenonReceive_counts t hup
    obtain ⟨_, _, _, hlink⟩ := hf (s.link k)
    obtain ⟨hseq, hqueues, hnak, hframe⟩ := (s.modLink k f).dropTenon_self k t
    rw [State.modLink_self, hlink] at hseq hqueues hnak
    rw [hexec, if_neg (by rw [hbad]; exact Bool.false_ne_true)]
    exact ⟨_, rfl, hseq, hqueues, hnak, congrArg (fun u : State => { u with links := s.links, free := s.free }) hframe⟩

end Sys2Proof.Machine

/-! PROOFS. CREDIT_ACK, the replay timer, a missing CREDIT_ACK and a VC held too long: acknowledge, resend, retrain (R192, R197,
R198, R200, R201). -/

namespace Sys2Proof.Machine

/-! ## A retraining starts (R201, R202) -/

theorem State.retrain_self (s : State) (k : LinkId) : ((s.retrain k).link k).state = .retraining ∧
    ((s.retrain k).link k).retry = (s.link k).retry ∧ ((s.retrain k).link k).queues = (s.link k).queues := by
  rw [State.retrain, State.setLink_self, State.modLink_self]
  exact ⟨rfl, rfl, rfl⟩

theorem State.retrain_ne (s : State) {k j : LinkId} (h : j ≠ k) : (s.retrain k).link j = s.link j := by
  rw [State.retrain, State.setLink_ne _ _ h, State.modLink_ne _ _ _ _ h.symm]

/-! ## A resend is asked for (R200, R201) -/

theorem State.askResend_of_nil {s : State} {k : LinkId} (h : (s.link k).retry = []) : s.askResend k = s := by
  rw [State.askResend, h]

theorem State.askResend_of_cons {s : State} {k : LinkId} {u : Unacked} {rest : List Unacked} (h : (s.link k).retry = u :: rest) :
    s.askResend k = if u.resends ≥ (s.link k).retryLimit then s.retrain k
      else s.modLink k fun l => { l with resendLeft := l.retry.length } := by
  rw [State.askResend, h]

theorem exec_replayTimer_up {s : State} {k : LinkId} (h : (s.link k).state = .up) :
    exec (.replayTimer k) s = .next (s.askResend k) := congrArg _ (if_pos h)

theorem exec_replayTimer_skips {s : State} {k : LinkId} (h : (s.link k).state ≠ .up ∨ (s.link k).retry = []) :
    exec (.replayTimer k) s = .next s := by
  by_cases hup : (s.link k).state = .up
  · rw [exec_replayTimer_up hup, State.askResend_of_nil (h.resolve_left (not_not.2 hup))]
  · exact congrArg _ (if_neg hup)

/-! ## CREDIT_ACK (R192, R198, R200, R203) -/

/-- ACK_SEQ covers a SEQ that it is less than half the numbers ahead of. -/
theorem Link.ack_retry (l : Link) (seq : BitVec 16) :
    (l.ack seq).retry = l.retry.filter fun u => decide ((seq - u.seq).toInt < 0) := by
  simp only [Link.ack, BitVec.msb_eq_toInt]

/-- The delay of a CREDIT_ACK is counted, and recorded where it is out of bounds (R203). -/
theorem State.noteDelay_counts (s : State) (k : LinkId) (time : DWord) : (s.link k).OnlyCounts ((s.noteDelay k time).link k) ∧
    (s.noteDelay k time).dies = s.dies ∧ (s.noteDelay k time).job = s.job := by
  unfold State.noteDelay
  dsimp only
  split
  · rw [State.report_link, State.countLink_self, State.modLink_self, State.report_dies, State.report_job]
    exact ⟨⟨_, _, _, rfl⟩, rfl, rfl⟩
  · rw [State.modLink_self]
    exact ⟨⟨_, _, _, rfl⟩, rfl, rfl⟩

/-- A far module is gone by a PEER_STATE of FAULTED, or of BOOT once it has been UP (R214). -/
theorem Link.peerGone_noted (l : Link) (st : BitVec 3) : ({ l with peerState := st, peerKnown := true } : Link).peerGone =
    (l.farModule && (decide (st = 6) || (decide (st = 0) && l.farWasUp))) :=
  congrArg (· && (decide (st = 6) || (decide (st = 0) && l.farWasUp))) (Bool.and_true l.farModule)

/-- A PEER_STATE by which no peer is lost, or one already gone, is only noted (R192, R214). -/
theorem State.notePeer_notes {s : State} {k : LinkId} {st : BitVec 3}
    (h : (s.link k).farModule = false ∨ (st ≠ 0 ∧ st ≠ 6) ∨ (s.link k).peerGone = true) :
    s.notePeer k st = s.modLink k fun l => { l with peerState := st, peerKnown := true } := by
  refine if_neg ?_
  rw [State.modLink_self, Bool.and_eq_true, Bool.not_eq_true']
  rintro ⟨hgone, hwas⟩
  rw [Link.peerGone_noted, Bool.and_eq_true] at hgone
  obtain ⟨hmodule, hcode⟩ := hgone
  rcases h with hfar | ⟨h0, h6⟩ | hpeer
  · exact Bool.false_ne_true (hfar.symm.trans hmodule)
  · rw [decide_eq_false h6, decide_eq_false h0] at hcode
    exact Bool.false_ne_true hcode
  · exact Bool.false_ne_true (hwas.symm.trans hpeer)

/-- The lanes' errors counted, the tenons that ACK_SEQ covers freed, and the returned blocks credited. -/
def State.acked (s : State) (k : LinkId) (blk : CreditAck) : State :=
  (s.noteLanes k blk.lanes).modLink k fun l => { (l.ack blk.ackSeq) with
    credits := Vector.ofFn fun v : Fin 4 => l.credits[v] + (blk.returns.getD v.val 0).toNat }

theorem exec_creditAck_skips {s : State} {k : LinkId} (blk : CreditAck) (h : (s.link k).state ≠ .up) :
    exec (.creditAck k blk) s = .next s := if_neg h

theorem exec_creditAck_up {s : State} {k : LinkId} {blk : CreditAck} (h : (s.link k).state = .up) (hnak : blk.nak = false) :
    exec (.creditAck k blk) s =
      .next ((((s.acked k blk).noteDelay k blk.time).notePeer k blk.peerState).sendAck k false) :=
  (if_pos h).trans (congrArg _ (if_neg (by simp [hnak])))

/-- What a CREDIT_ACK without NAK leaves of its link, where no peer is lost by it. -/
theorem exec_creditAck_acks {s : State} {k : LinkId} {blk : CreditAck} (hup : (s.link k).state = .up) (hnak : blk.nak = false)
    (hpeer : (s.link k).farModule = false ∨ (blk.peerState ≠ 0 ∧ blk.peerState ≠ 6) ∨ (s.link k).peerGone = true) :
    ∃ t : State, exec (.creditAck k blk) s = .next t ∧ (t.link k).retry = ((s.link k).ack blk.ackSeq).retry ∧
      (t.link k).credits = (Vector.ofFn fun v : Fin 4 => (s.link k).credits[v] + (blk.returns.getD v.val 0).toNat) ∧
      (t.link k).peerState = blk.peerState ∧ (t.link k).state = .up ∧ (t.link k).queues = (s.link k).queues ∧
      t.dies = s.dies ∧ t.job = s.job := by
  obtain ⟨f, hf, hlanes⟩ := s.noteLanes_counts k blk.lanes
  obtain ⟨_, _, _, hcounted⟩ := hf (s.link k)
  obtain ⟨⟨_, _, _, hlink⟩, hdies, hjob⟩ := (s.acked k blk).noteDelay_counts k blk.time
  rw [State.acked, hlanes, State.modLink_self, State.modLink_self, hcounted, ← hlanes, ← State.acked] at hlink
  have hnotes := State.notePeer_notes (s := (s.acked k blk).noteDelay k blk.time) (k := k) (st := blk.peerState)
    (by rw [hlink]; exact hpeer)
  refine ⟨_, by rw [exec_creditAck_up hup hnak, hnotes], ?_⟩
  rw [State.sendAck, State.modLink_self, State.modLink_self, hlink]
  exact ⟨rfl, rfl, rfl, hup, rfl, hdies, hjob⟩

/-! ## Timeouts (R197, R201) -/

theorem exec_creditAckTimeout_skips {s : State} {k : LinkId} (h : (s.link k).state ≠ .up) :
    exec (.creditAckTimeout k) s = .next s := congrArg _ (if_neg h)

theorem exec_creditAckTimeout_up {s : State} {k : LinkId} (h : (s.link k).state = .up) :
    exec (.creditAckTimeout k) s = .next (s.retrain k) := congrArg _ (if_pos h)

theorem exec_creditHoldTimeout (k : LinkId) (vc : Fin 4) (s : State) :
    exec (.creditHoldTimeout k vc) s = .next s ∨ ∃ r : Report, exec (.creditHoldTimeout k vc) s = .next (s.report r) := by
  by_cases h : ((s.link k).usable && !(s.link k).queues[vc].isEmpty) = true
  · exact .inr ⟨_, congrArg _ (if_pos h)⟩
  · exact .inl (congrArg _ (if_neg h))

/-! ## The obligation -/

/-- Settles O41: what a CREDIT_ACK frees and credits, and what the replay timer and the two timeouts ask for. -/
theorem linksRetryAndRetrain : Obligations.LinksRetryAndRetrain := by
  unfold Obligations.LinksRetryAndRetrain
  refine fun s k => ⟨fun blk => exec_creditAck_skips blk, fun blk hup hnak hpeer => ?_, exec_replayTimer_skips,
    fun u rest hup hretry => ⟨fun hlt => ?_, fun hle => ?_⟩, exec_creditAckTimeout_skips, fun hup => ?_, fun vc => ?_⟩
  · obtain ⟨t, hexec, hretry, hcredits, hstate⟩ := exec_creditAck_acks hup hnak hpeer
    refine ⟨t, hexec, hretry.trans (Link.ack_retry _ _), fun v => ?_, hstate⟩
    rw [hcredits]
    simp
  · rw [exec_replayTimer_up hup, State.askResend_of_cons hretry, if_neg (not_le.2 hlt)]
  · rw [exec_replayTimer_up hup, State.askResend_of_cons hretry, if_pos hle]
    obtain ⟨hstate, hkept, -⟩ := s.retrain_self k
    exact ⟨_, rfl, hstate, hkept⟩
  · obtain ⟨hstate, hretry, hqueues⟩ := s.retrain_self k
    exact ⟨_, exec_creditAckTimeout_up hup, hstate, hretry, hqueues, fun j => s.retrain_ne⟩
  · rcases exec_creditHoldTimeout k vc s with h | ⟨r, h⟩
    · exact ⟨s, h, rfl, rfl, rfl, rfl⟩
    · exact ⟨_, h, s.report_links r, s.report_dies r, s.report_job r, s.report_kp r⟩

end Sys2Proof.Machine

/-! PROOFS. LINK_BRING_UP, HELLO and LINK_RETRAINING: lanes in common, HELLOs that meet, and a retraining that ends (R200, R202,
R204, R205, R212). -/

namespace Sys2Proof.Machine

/-! ## Tenons that waited for a link (R197, R214) -/

/-- Of the links `t` differs from `s` at most in the queues of one, and its routes are those of `s`. -/
def OnlyQueuesOf (k : LinkId) (s t : State) : Prop :=
  (∃ queues, t.link k = { s.link k with queues := queues }) ∧ (∀ j, j ≠ k → t.link j = s.link j) ∧
    ∀ dst, t.route dst = s.route dst

theorem OnlyQueuesOf.trans {k : LinkId} {s t u : State} (h : OnlyQueuesOf k s t) (h' : OnlyQueuesOf k t u) :
    OnlyQueuesOf k s u := by
  obtain ⟨⟨_, hself⟩, hothers, hroutes⟩ := h
  obtain ⟨⟨queues, hself'⟩, hothers', hroutes'⟩ := h'
  exact ⟨⟨queues, by rw [hself', hself]⟩, fun j hj => (hothers' j hj).trans (hothers j hj),
    fun dst => (hroutes' dst).trans (hroutes dst)⟩

/-- A tenon whose route is a link joins a queue of that link, or is held. -/
theorem State.emit_only {s : State} {k : LinkId} {t : Tenon} (hr : s.route t.dstId = some k) : OnlyQueuesOf k s (s.emit t) := by
  rw [State.emit, hr]
  dsimp only
  split
  · exact ⟨⟨_, s.modLink_self k _⟩, fun j hj => s.modLink_ne k j _ hj.symm, fun _ => rfl⟩
  · exact ⟨⟨_, rfl⟩, fun _ _ => rfl, fun _ => rfl⟩

/-- Tenons that go out on a link as it comes UP are those whose route it is: they join its queues. -/
theorem State.sendHeld_only (s : State) (k : LinkId) : OnlyQueuesOf k s (s.sendHeld k) :=
  List.foldlRecOn (motive := OnlyQueuesOf k s) _ _ ⟨⟨_, rfl⟩, fun _ _ => rfl, fun _ => rfl⟩ fun _ ht x hx => by
    have hroute : s.route x.dstId = some k := by simpa using (List.mem_filter.1 hx).2
    obtain ⟨-, -, hroutes⟩ := id ht
    exact ht.trans (State.emit_only ((hroutes x.dstId).trans hroute))

/-! ## HELLOs that meet (R202, R204, R205, R212) -/

/-- Why a HELLO is refused rests on the module's identity, its board and LINK_CTRL alone. -/
theorem State.helloRefused_congr {s t : State} {k : LinkId} (f : HelloFields) (hboard : t.kp.boardId = s.kp.boardId)
    (hid : t.kp.moduleId = s.kp.moduleId) (hctrl : (t.link k).ctrl = (s.link k).ctrl) :
    t.helloRefused k f = s.helloRefused k f := by
  have hmodule : t.moduleId = s.moduleId := by rw [State.moduleId, hid, State.moduleId]
  have hprofile : (t.link k).profile = (s.link k).profile := by rw [Link.profile, hctrl, Link.profile]
  have hself : (t.link k).allowSelf = (s.link k).allowSelf := by rw [Link.allowSelf, hctrl, Link.allowSelf]
  unfold State.helloRefused
  rw [hboard, hmodule, hprofile, hself]

theorem helloDiffers_of_same {f old : HelloFields} (hkind : f.farKind = old.farKind) (hid : f.moduleId = old.moduleId)
    (hboard : f.boardId = old.boardId) : helloDiffers f (some old) = false := by
  simp [helloDiffers, hkind, hid, hboard]

/-- The module has sent its HELLO. -/
def State.greeted (s : State) (k : LinkId) : State := s.modLink k fun l => { l with helloSent := some (s.helloOut k) }

theorem State.greeted_self (s : State) (k : LinkId) :
    (s.greeted k).link k = { s.link k with helloSent := some (s.helloOut k) } := s.modLink_self k _

theorem State.greeted_refused (s : State) (k : LinkId) (f : HelloFields) :
    (s.greeted k).helloRefused k f = s.helloRefused k f :=
  State.helloRefused_congr f rfl rfl (by rw [State.greeted_self])

/-- With no previous HELLO a link starts at SEQ 0; else all that is not acknowledged waits to be resent. -/
def Link.met (l : Link) (f : HelloFields) : Link :=
  match l.lastHello with
  | none => { (l.meets f) with txSeq := 0, rxSeq := 0, retry := [], resendLeft := 0, peerKnown := false }
  | some _ => { (l.meets f) with resendLeft := l.retry.length }

section MeetHello
variable {s : State} {k : LinkId} {f : HelloFields} (hc : (s.link k).creditsGood = true)
include hc

theorem State.meetHello_refuses (h : s.helloRefused k f = true ∨ helloDiffers f (s.link k).lastHello = true) :
    s.meetHello k f =
      ((s.greeted k).modLink k fun l => { l with farKind := f.farKind, farId := f.moduleId }).loseLink k .refused := by
  have hrefused : ((s.greeted k).helloRefused k f || helloDiffers f ((s.greeted k).link k).lastHello) = true := by
    rw [State.greeted_refused, State.greeted_self, Bool.or_eq_true]
    exact h
  exact (if_neg (by simp [hc])).trans (if_pos hrefused)

/-- Good HELLOs bring the link UP, and the tenons that waited for it join its queues. -/
theorem State.meetHello_meets (hr : s.helloRefused k f = false) (hd : helloDiffers f (s.link k).lastHello = false) :
    (∃ queues, (s.meetHello k f).link k =
      { (({ s.link k with helloSent := some (s.helloOut k) } : Link).met f) with state := .up, queues := queues }) ∧
    ∀ j, j ≠ k → (s.meetHello k f).link j = s.link j := by
  have hgood : ¬((s.greeted k).helloRefused k f || helloDiffers f ((s.greeted k).link k).lastHello) = true := by
    rw [State.greeted_refused, State.greeted_self, hr]
    exact Bool.eq_false_iff.1 hd
  have hmeets : s.meetHello k f = (((s.greeted k).modLink k fun l => l.met f).setLink k .up).sendHeld k :=
    (if_neg (by simp [hc])).trans (if_neg hgood)
  obtain ⟨⟨queues, hself⟩, hothers, -⟩ := State.sendHeld_only (((s.greeted k).modLink k fun l => l.met f).setLink k .up) k
  rw [State.setLink_self, State.modLink_self, State.greeted_self] at hself
  rw [hmeets]
  refine ⟨⟨queues, hself⟩, fun j hj => ?_⟩
  rw [hothers j hj, State.setLink_ne _ _ hj, State.modLink_ne _ _ _ _ hj.symm, State.greeted, State.modLink_ne _ _ _ _ hj.symm]

end MeetHello

/-- A link whose credits do not fit is counted, and is in HELLO. -/
theorem State.meetHello_stays {s : State} {k : LinkId} (f : HelloFields) (hc : (s.link k).creditsGood = false) :
    s.meetHello k f = (s.countLink k 0x0E).setLink k .hello := if_pos (by simp [hc])

theorem exec_hello_meets {s : State} {k : LinkId} (f : HelloFields) (hh : (s.link k).state = .hello) (hpeg : s.kp.peg = true) :
    exec (.hello k f) s = .next (s.meetHello k f) := congrArg _ (if_pos (by simp [hh, hpeg]))

theorem exec_hello_skips {s : State} {k : LinkId} (f : HelloFields) (h : (s.link k).state ≠ .hello ∨ s.kp.peg = false) :
    exec (.hello k f) s = .next s := by
  refine congrArg _ (if_neg ?_)
  rw [Bool.and_eq_true, decide_eq_true_eq]
  rintro ⟨hh, hpeg⟩
  exact h.elim (fun hn => hn hh) fun hp => Bool.false_ne_true (hp.symm.trans hpeg)

/-! ## The end of a training (R204) -/

theorem exec_linkBringUp_skips {s : State} {k : LinkId} (usable far : BitVec 9) (h : (s.link k).state ≠ .training) :
    exec (.linkBringUp k usable far) s = .next s := if_neg h

section BringUp
variable {s : State} {k : LinkId} {usable far : BitVec 9} (h : (s.link k).state = .training)
include h

theorem exec_linkBringUp_down (hlt : (lanesOf (usable &&& far &&& ~~~(s.link k).laneRecords)).length < 7) :
    exec (.linkBringUp k usable far) s =
      .next ((s.modLink k fun l => l.noLanes (usable &&& far &&& ~~~(s.link k).laneRecords)).setLink k .down) :=
  (if_pos h).trans (if_pos hlt)

theorem exec_linkBringUp_hello (hle : 7 ≤ (lanesOf (usable &&& far &&& ~~~(s.link k).laneRecords)).length) :
    exec (.linkBringUp k usable far) s =
      .next (((s.modLink k fun l => l.mapLanes (usable &&& far &&& ~~~(s.link k).laneRecords)).evalCauses).setLink k .hello) :=
  (if_pos h).trans (if_neg (not_lt.2 hle))

end BringUp

/-! ## The end of a retraining attempt (R202) -/

theorem State.retrainFailed_counts {s : State} {k : LinkId} (h : (s.link k).retrainFails + 1 < (s.link k).retrainLimit) :
    s.retrainFailed k = s.modLink k fun l => { (l.count 0x08) with retrainFails := l.retrainFails + 1 } := by
  refine if_neg ?_
  rw [State.modLink_self]
  exact not_le.2 h

theorem State.causeStarted_kp (s : State) (n : Nat) : (s.causeStarted n).kp = s.kp := by
  obtain ⟨-, hkp, -⟩ := (State.postEvent_only _ _ _ _ _).frame
  rw [State.causeStarted, hkp, State.report_kp]

/-- The causes of REPLACE_REQ are all that their evaluation changes of the kingpost (R357). -/
theorem State.evalCauses_kp (s : State) : ∃ causes, s.evalCauses.kp = { s.kp with causes := causes } :=
  List.foldlRecOn (motive := fun t : State => ∃ causes, t.kp = { s.kp with causes := causes }) _ _ ⟨_, rfl⟩
    fun _ ⟨_, ht⟩ n _ => ite_both (P := fun u : State => ∃ causes, u.kp = { s.kp with causes := causes })
      ⟨_, (State.causeStarted_kp _ n).trans (by rw [ht])⟩ ⟨_, by rw [ht]⟩

/-- The state in which the HELLOs of a retraining meet, on the lanes in common. -/
def State.relaned (s : State) (k : LinkId) (common : BitVec 9) : State := (s.modLink k fun l => l.mapLanes common).evalCauses

theorem State.relaned_self (s : State) (k : LinkId) (common : BitVec 9) :
    (s.relaned k common).link k = (s.link k).mapLanes common := by
  rw [State.relaned, State.evalCauses_link, State.modLink_self]

theorem State.relaned_refused (s : State) (k : LinkId) (common : BitVec 9) (f : HelloFields) :
    (s.relaned k common).helloRefused k f = s.helloRefused k f := by
  obtain ⟨_, hkp⟩ := (s.modLink k fun l => l.mapLanes common).evalCauses_kp
  have hboard : (s.relaned k common).kp.boardId = s.kp.boardId := by rw [State.relaned, hkp]; rfl
  have hid : (s.relaned k common).kp.moduleId = s.kp.moduleId := by rw [State.relaned, hkp]; rfl
  exact State.helloRefused_congr f hboard hid (by rw [State.relaned_self]; rfl)

section Retraining
variable {s : State} {k : LinkId} {usable : BitVec 9} (h : (s.link k).state = .retraining)
include h

theorem exec_linkRetraining_fails : exec (.linkRetraining k usable none) s = .next (s.retrainFailed k) := if_pos h

variable {f : HelloFields}

theorem exec_linkRetraining_down (hlt : (lanesOf (usable &&& f.lanes &&& ~~~(s.link k).laneRecords)).length < 7) :
    exec (.linkRetraining k usable (some f)) s =
      .next ((s.modLink k fun l => l.noLanes (usable &&& f.lanes &&& ~~~(s.link k).laneRecords)).loseLink k .down) :=
  (if_pos h).trans (if_pos hlt)

theorem exec_linkRetraining_meets (hle : 7 ≤ (lanesOf (usable &&& f.lanes &&& ~~~(s.link k).laneRecords)).length) :
    exec (.linkRetraining k usable (some f)) s =
      .next ((s.relaned k (usable &&& f.lanes &&& ~~~(s.link k).laneRecords)).meetHello k f) :=
  (if_pos h).trans (if_neg (not_lt.2 hle))

end Retraining

/-! ## The obligation -/

/-- Settles O42: each end of a training, each HELLO and each end of a retraining attempt by what it finds. -/
theorem linksComeUp : Obligations.LinksComeUp := by
  unfold Obligations.LinksComeUp
  refine fun s k => ⟨fun usable far ht => ?_, exec_linkBringUp_skips, fun f hh hpeg hc hr hlast => ?_,
    fun f hh hpeg hc hr => ?_, fun f hh hpeg hc => ?_, exec_hello_skips, fun usable hre hlt => ?_, fun usable f hre hlt => ?_,
    fun usable f old hre hlast hkind hid hboard hc hr hle => ?_⟩
  · rcases Nat.lt_or_ge (lanesOf (usable &&& far &&& ~~~(s.link k).laneRecords)).length 7 with hlt | hle
    · refine ⟨_, exec_linkBringUp_down ht hlt, ?_⟩
      rw [State.setLink_self, State.modLink_self]
      refine ⟨rfl, fun _ => rfl, fun hle => absurd hlt (not_lt.2 hle), fun j hj => ?_⟩
      rw [State.setLink_ne _ _ hj, State.modLink_ne _ _ _ _ hj.symm]
    · refine ⟨_, exec_linkBringUp_hello ht hle, ?_⟩
      rw [State.setLink_self, State.evalCauses_link, State.modLink_self]
      refine ⟨rfl, fun hlt => absurd hlt (not_lt.2 hle), fun _ => ⟨rfl, rfl⟩, fun j hj => ?_⟩
      rw [State.setLink_ne _ _ hj, State.evalCauses_link, State.modLink_ne _ _ _ _ hj.symm]
  · obtain ⟨⟨_, hlink⟩, hothers⟩ := State.meetHello_meets hc hr (by rw [hlast]; rfl)
    refine ⟨_, exec_hello_meets f hh hpeg, ?_⟩
    rw [hlink, Link.met, hlast]
    exact ⟨rfl, rfl, rfl, rfl, hothers⟩
  · refine ⟨_, (exec_hello_meets f hh hpeg).trans (congrArg _ (State.meetHello_refuses hc hr)), ?_, rfl⟩
    rw [State.modLink_self]
  · have hstate : ((s.countLink k 0x0E).link k).state = .hello := by
      rw [State.countLink_self]
      exact hh
    rw [exec_hello_meets f hh hpeg, State.meetHello_stays f hc, State.setLink_of_eq hstate]
  · refine ⟨_, (exec_linkRetraining_fails hre).trans (congrArg _ (State.retrainFailed_counts hlt)), ?_⟩
    rw [State.modLink_self]
    exact ⟨hre, rfl, rfl⟩
  · obtain ⟨hstate, hretry, hmap⟩ := State.loseLink_self
      (s.modLink k fun l => l.noLanes (usable &&& f.lanes &&& ~~~(s.link k).laneRecords)) k .down
    rw [State.modLink_self] at hmap
    exact ⟨_, exec_linkRetraining_down hre hlt, hstate, hretry, hmap⟩
  · have hself := s.relaned_self k (usable &&& f.lanes &&& ~~~(s.link k).laneRecords)
    obtain ⟨⟨_, hlink⟩, -⟩ := State.meetHello_meets (f := f) (by rw [hself]; exact hc) ((s.relaned_refused k _ f).trans hr)
      (by rw [hself]; exact (congrArg (helloDiffers f) hlast).trans (helloDiffers_of_same hkind hid hboard))
    refine ⟨_, exec_linkRetraining_meets hre hle, ?_⟩
    have hkept : ((s.link k).mapLanes (usable &&& f.lanes &&& ~~~(s.link k).laneRecords)).lastHello = some old := hlast
    rw [hlink, hself, Link.met, hkept]
    exact ⟨rfl, rfl, rfl, rfl, rfl⟩

end Sys2Proof.Machine

/-! PROOFS. LANE_FAILURE, LANE_MAP, LANE_MAP_ACK and LANE_SWITCH_FRAME: a lane is lost on both sides and replaced (R206 to
R209). -/

namespace Sys2Proof.Machine

/-! ## A lane is lost (R206 to R209) -/

/-- The record of a lane failure leaves the link but for its lane records. -/
theorem State.recordLane_self (s : State) (k : LinkId) (i : Fin 9) :
    ∃ records, (s.recordLane k i).link k = { s.link k with laneRecords := records } := by
  unfold State.recordLane
  rw [State.evalCauses_link, State.report_link, State.report_link, State.modLink_self]
  exact ⟨_, rfl⟩

/-- The change that a lost lane begins: this side's own where the far side has named no switch frame (R207). -/
def State.laneChange (s : State) (i : Fin 9) (replacement : Option (Fin 9)) (farFrame : Option Nat) : LaneChange :=
  ⟨i, replacement, s.takeFree.1, farFrame, farFrame.isNone⟩

/-- The lane is lost and recorded, whatever is left of the link. -/
def State.laneLost (s : State) (k : LinkId) (c : LaneChange) : State :=
  (s.takeFree.2.modLink k fun l => l.loseLane c).recordLane k c.lane

theorem State.loseLane_eq (s : State) (k : LinkId) (i : Fin 9) (replacement : Option (Fin 9)) (farFrame : Option Nat) :
    s.loseLane k i replacement farFrame =
      let t := s.laneLost k (s.laneChange i replacement farFrame)
      if (lanesOf (t.link k).laneOk).length < 7 then t.loseLink k .down else t := rfl

/-- A link that keeps 7 lanes is left as its lane change says. -/
theorem State.loseLane_self {s : State} {k : LinkId} {i : Fin 9} (replacement : Option (Fin 9)) (farFrame : Option Nat)
    (hle : 7 ≤ (lanesOf ((s.link k).laneOk &&& ~~~BitVec.ofNat 9 (2 ^ i.val))).length) :
    ∃ records, (s.loseLane k i replacement farFrame).link k =
      { (s.link k).loseLane (s.laneChange i replacement farFrame) with laneRecords := records } := by
  obtain ⟨records, hlink⟩ : ∃ records, (s.laneLost k (s.laneChange i replacement farFrame)).link k =
      { (s.link k).loseLane (s.laneChange i replacement farFrame) with laneRecords := records } := by
    obtain ⟨records, hlink⟩ := State.recordLane_self (s.takeFree.2.modLink k fun l =>
      l.loseLane (s.laneChange i replacement farFrame)) k i
    rw [State.modLink_self] at hlink
    exact ⟨records, hlink⟩
  refine ⟨records, ?_⟩
  rw [State.loseLane_eq, if_neg (by rw [hlink]; exact not_lt.2 hle)]
  exact hlink

/-! ## The events of a lane change (R206 to R208) -/

/-- A link that is UP or in HELLO sends frames on its lanes. -/
def Link.Carries (l : Link) : Prop := l.state = .up ∨ l.state = .hello

theorem Link.carries_iff (l : Link) : (l.state = .up || l.state = .hello) = true ↔ l.Carries := by
  rw [Bool.or_eq_true, decide_eq_true_eq, decide_eq_true_eq, Link.Carries]

section LaneEvents
variable {s : State} {k : LinkId} {lane : Fin 9}

theorem laneChange_skips (h : ¬(s.link k).Carries ∨ (s.link k).laneOk.getLsbD lane.val = false) :
    ¬(((s.link k).state = .up || (s.link k).state = .hello) && (s.link k).laneOk.getLsbD lane.val) = true := by
  rw [Bool.and_eq_true, Link.carries_iff]
  rintro ⟨hcarries, hok⟩
  exact h.elim (fun hn => hn hcarries) fun hbad => Bool.false_ne_true (hbad.symm.trans hok)

theorem exec_laneFailure_skips (why : LaneFault) (h : ¬(s.link k).Carries ∨ (s.link k).laneOk.getLsbD lane.val = false) :
    exec (.laneFailure k lane why) s = .next s := if_neg (laneChange_skips h)

theorem exec_laneMap_skips (to' : Byte) (frame : Nat)
    (h : ¬(s.link k).Carries ∨ (s.link k).laneOk.getLsbD lane.val = false) : exec (.laneMap k lane to' frame) s = .next s :=
  congrArg _ (if_neg (laneChange_skips h))

/-- The replacement that a LANE_MAP names; a code of no lane names none (R207). -/
def laneOfByte (b : Byte) : Option (Fin 9) := if h : b.toNat < 9 then some ⟨b.toNat, h⟩ else none

theorem laneOfByte_val (b : Byte) : (laneOfByte b).map Fin.val = if b.toNat < 9 then some b.toNat else none := by
  unfold laneOfByte
  split <;> rfl

variable (hcarries : (s.link k).Carries) (hok : (s.link k).laneOk.getLsbD lane.val = true)
include hcarries hok

theorem laneChange_begins :
    (((s.link k).state = .up || (s.link k).state = .hello) && (s.link k).laneOk.getLsbD lane.val) = true := by
  rw [Bool.and_eq_true, Link.carries_iff]
  exact ⟨hcarries, hok⟩

theorem exec_laneFailure_loses (why : LaneFault) : exec (.laneFailure k lane why) s =
    .next ((s.countLink k 0x0A).loseLane k lane ((s.link k).spare.filter fun i => i ≠ lane) none) :=
  if_pos (laneChange_begins hcarries hok)

theorem exec_laneMap_loses (to' : Byte) (frame : Nat) : exec (.laneMap k lane to' frame) s =
    .next (s.loseLane k lane (laneOfByte to') (some frame)) := congrArg _ (if_pos (laneChange_begins hcarries hok))

end LaneEvents

theorem exec_laneMapAck (k : LinkId) (frame : Nat) (s : State) : ∃ f : Link → Link, exec (.laneMapAck k frame) s =
    .next (s.modLink k f) ∧ ∀ (l : Link) (c : LaneChange) (rest : List LaneChange), l.changes = c :: rest →
      (f l).changes = { c with farFrame := some frame } :: rest := by
  refine ⟨_, rfl, fun l c rest h => ?_⟩
  dsimp only
  rw [h]

theorem exec_laneSwitchFrame_switches {s : State} {k : LinkId} (h : (s.link k).Carries) :
    exec (.laneSwitchFrame k) s = .next (s.modLink k Link.switchLane) := congrArg _ (if_pos ((Link.carries_iff _).2 h))

theorem exec_laneSwitchFrame_skips {s : State} {k : LinkId} (h : ¬(s.link k).Carries) :
    exec (.laneSwitchFrame k) s = .next s := congrArg _ (if_neg fun hc => h ((Link.carries_iff _).1 hc))

/-! ## The switch frame (R207, R208) -/

theorem Link.switchLane_of_nil {l : Link} (h : l.changes = []) : l.switchLane = l := by
  rw [Link.switchLane, h]

/-- The replacement takes the failed lane's place. -/
theorem Link.switchLane_replaces {l : Link} {c : LaneChange} {rest : List LaneChange} {r : Fin 9} (h : l.changes = c :: rest)
    (hr : c.replacement = some r) :
    l.switchLane.changes = rest ∧ l.switchLane.laneMap = l.laneMap.map fun i => if i = c.lane then r else i := by
  unfold Link.switchLane
  rw [h]
  dsimp only
  rw [hr]
  exact ⟨rfl, rfl⟩

/-- With no replacement the link runs on without the failed lane, on 7 lanes if that one was in use. -/
theorem Link.switchLane_drops {l : Link} {c : LaneChange} {rest : List LaneChange} (h : l.changes = c :: rest)
    (hr : c.replacement = none) : l.switchLane.changes = rest ∧
      l.switchLane.laneMap = (l.laneMap.filter fun i => i ≠ c.lane) ∧
      (l.laneMap.contains c.lane = true → l.switchLane.degraded = true) := by
  unfold Link.switchLane
  rw [h]
  dsimp only
  rw [hr]
  dsimp only
  split
  · exact ⟨rfl, rfl, fun _ => rfl⟩
  · next hin =>
    have hkept : (l.laneMap.filter fun i => i ≠ c.lane) = l.laneMap :=
      List.filter_eq_self.2 fun i hi => decide_eq_true fun hic => hin (List.contains_iff_mem.2 (hic ▸ hi))
    exact ⟨rfl, hkept.symm, fun hyes => absurd hyes hin⟩

/-! ## The obligation -/

/-- Settles O43: the two ways a lane is lost, the far side's switch frame, and the switch frame by the change's replacement. -/
theorem lanesAreReplaced : Obligations.LanesAreReplaced := by
  unfold Obligations.LanesAreReplaced
  refine fun s k => ⟨fun lane why hcarries hok hle => ?_, fun lane why => exec_laneFailure_skips why,
    fun lane to' frame hcarries hok hle => ?_, fun lane to' frame => exec_laneMap_skips to' frame,
    fun frame c rest hch => ?_, fun c rest hcarries hch => ?_, fun h => ?_⟩
  · have hcount := s.countLink_self k 0x0A 1
    obtain ⟨_, hlink⟩ := State.loseLane_self (s := s.countLink k 0x0A) (k := k)
      ((s.link k).spare.filter fun i => i ≠ lane) none (by rw [hcount]; exact hle)
    rw [hcount] at hlink
    refine ⟨_, exec_laneFailure_loses hcarries hok why, ?_⟩
    rw [hlink]
    exact ⟨rfl, rfl, rfl, rfl, _, rfl, rfl, rfl, rfl, rfl⟩
  · obtain ⟨_, hlink⟩ := State.loseLane_self (laneOfByte to') (some frame) hle
    refine ⟨_, exec_laneMap_loses hcarries hok to' frame, ?_⟩
    rw [hlink]
    exact ⟨rfl, rfl, _, rfl, rfl, rfl, rfl, laneOfByte_val to'⟩
  · obtain ⟨f, hexec, hf⟩ := exec_laneMapAck k frame s
    refine ⟨_, hexec, ?_, rfl⟩
    rw [State.modLink_self]
    exact hf _ c rest hch
  · refine ⟨_, exec_laneSwitchFrame_switches hcarries, ?_⟩
    rw [State.modLink_self]
    cases hr : c.replacement with
    | none =>
      obtain ⟨hchanges, hmap, hdegraded⟩ := Link.switchLane_drops hch hr
      exact ⟨hchanges, hmap, fun _ => hdegraded, rfl⟩
    | some r =>
      obtain ⟨hchanges, hmap⟩ := Link.switchLane_replaces hch hr
      exact ⟨hchanges, hmap, fun hn => absurd hn (Option.some_ne_none r), rfl⟩
  · by_cases hcarries : (s.link k).Carries
    · refine ⟨_, exec_laneSwitchFrame_switches hcarries, ?_⟩
      rw [State.modLink_self, Link.switchLane_of_nil (h.resolve_left (not_not.2 hcarries))]
    · exact ⟨s, exec_laneSwitchFrame_skips hcarries, rfl⟩

end Sys2Proof.Machine

/-! PROOFS. Stale tenons, and contributions at the owner of a chunk: staged once, and not summed while one is missing (R221 to R223,
R226). -/

namespace Sys2Proof.Machine

theorem exec_reduceData (src : BitVec 15) (context : DWord) (payload : List Byte) (s : State) :
    exec (.reduceData src context payload) s = .next (s.takeReduceData src context payload) := rfl

/-! ## Tenons of another attempt (R221) -/

section Stale

variable {s : State} {src : BitVec 15} {context : DWord} {payload : List Byte}

theorem State.ifFresh_of_stale (h : s.stale context = true) (f : State → State) :
    s.ifFresh context f = s.countEdge (chunkEdge (ctxChunk context)) 0x02 := if_pos h

/-- A stale chunk of copy never waits for the verdict. -/
theorem State.takeGatherData_of_stale (h : s.stale context = true) :
    s.takeGatherData (looseTenon src context payload) = s.countEdge (chunkEdge (ctxChunk context)) 0x02 := by
  have hgo : (s.job.current.isSome && s.job.verdict.isNone && !s.stale context) = false := by
    rw [h, Bool.not_true, Bool.and_false]
  calc s.takeGatherData (looseTenon src context payload)
      = s.landGather src context payload := if_neg (Bool.eq_false_iff.mp hgo)
    _ = s.countEdge (chunkEdge (ctxChunk context)) 0x02 := State.ifFresh_of_stale h _

/-- A stale vote never waits for a slot; it frees none either, so the votes that wait are looked at in vain. -/
theorem State.countVote_of_stale (h : s.stale context = true) (hw : (s.edge (chunkEdge (ctxChunk context))).waiting = []) :
    s.countVote (looseTenon src context payload) = s.countEdge (chunkEdge (ctxChunk context)) 0x02 := by
  have hgoes : s.voteGoes (looseTenon src context payload) = true := by
    show (s.stale context || _ || _) = true
    rw [h, Bool.true_or, Bool.true_or]
  have hnone : ((s.countEdge (chunkEdge (ctxChunk context)) 0x02).edge (chunkEdge (ctxChunk context))).waiting = [] := by
    rw [State.countEdge, State.modEdge_self]
    exact hw
  have htake : s.takeVote (looseTenon src context payload) = s.countEdge (chunkEdge (ctxChunk context)) 0x02 := if_pos h
  calc s.countVote (looseTenon src context payload)
      = (s.takeVote (looseTenon src context payload)).retryEdge (chunkEdge (ctxChunk context)) := if_pos hgoes
    _ = (s.countEdge (chunkEdge (ctxChunk context)) 0x02).retryEdge (chunkEdge (ctxChunk context)) := by rw [htake]
    _ = s.countEdge (chunkEdge (ctxChunk context)) 0x02 := State.retryEdge_of_nil hnone

end Stale

/-! ## Staging (R222, R223) -/

/-- While a member's contribution is missing, fewer are staged than there are members. -/
theorem State.stagedOf_length_lt {s : State} {coll c n j : Nat} (hj : j < n)
    (hm : ∀ x ∈ s.coll.staged, ¬(x.1 = coll ∧ x.2.1 = c ∧ x.2.2.1 = j)) : (s.stagedOf coll c n).length < n := by
  have hnone : (s.coll.staged.find? fun x => x.1 = coll && x.2.1 = c && x.2.2.1 = j) = none :=
    List.find?_eq_none.2 fun x hx => by simpa [and_assoc] using hm x hx
  calc (s.stagedOf coll c n).length
      < (List.range n).length := List.length_filterMap_lt_length_iff_exists.2 ⟨j, List.mem_range.2 hj, by rw [hnone]; rfl⟩
    _ = n := List.length_range

theorem State.trySum_of_missing {s : State} {coll c n j : Nat} (e : CollEntry) (hj : j < n)
    (hm : ∀ x ∈ s.coll.staged, ¬(x.1 = coll ∧ x.2.1 = c ∧ x.2.2.1 = j)) : s.trySum coll e n c = s :=
  if_neg (State.stagedOf_length_lt hj hm).ne

/-- A member's first contribution goes to its slot and is noted; no sum is formed while another member's is missing. -/
theorem State.stage_first {s : State} {coll c n i j : Nat} {e : CollEntry} {bytes : List Byte}
    (hnew : (s.coll.staged.any fun x => x.1 = coll && x.2.1 = c && x.2.2.1 = i) = false) (hj : j < n) (hji : j ≠ i)
    (hm : ∀ x ∈ s.coll.staged, ¬(x.1 = coll ∧ x.2.1 = c ∧ x.2.2.1 = j))
    (hp : s.badPartials (localAddr (stackOf e.chunks n c) (stageAt e n c i)) bytes.length = []) :
    ∃ t : State, OnlySills s t ∧ s.stage coll e n c i bytes =
      { t with coll := { t.coll with staged := t.coll.staged ++ [(coll, c, i, bytes.length)] } } := by
  have honly : OnlySills s (s.writeStack (stackOf e.chunks n c) (stageAt e n c i) bytes) := s.writeMerged_only _ hp
  refine ⟨_, honly, (if_neg (Bool.eq_false_iff.mp hnew)).trans (State.trySum_of_missing e hj fun x hx => ?_)⟩
  rw [honly] at hx
  rcases List.mem_append.1 hx with hx | hx
  · exact hm x hx
  · rintro ⟨-, -, h⟩
    rw [List.mem_singleton.1 hx] at h
    exact hji h.symm

/-- A second contribution of a member is counted and sets REPLAY. -/
theorem State.stage_again {s : State} {coll c i : Nat} (e : CollEntry) (n : Nat) (bytes : List Byte)
    (h : (s.coll.staged.any fun x => x.1 = coll && x.2.1 = c && x.2.2.1 = i) = true) :
    s.stage coll e n c i bytes = (s.countEdge (chunkEdge c) 0x04).setReplay := if_pos h

/-- A member's contribution to a chunk of this module's is staged (R222). -/
theorem State.takeReduceData_stages {s : State} {src : BitVec 15} {context : DWord} {e : CollEntry} {g : List Nat} {i : Nat}
    (hf : s.stale context = false) (ho : s.ownedChunk context false = some (e, g)) (hi : memberIx g src = some i)
    (payload : List Byte) :
    s.takeReduceData src context payload = s.stage (ctxColl context) e g.length (ctxChunk context) i payload := by
  simp only [State.takeReduceData, State.ifFresh_of_fresh hf, ho, hi]

/-! ## The obligation -/

/-- Settles O28: a stale tenon goes no further than `ifFresh`, and a contribution is staged for the first time or again. -/
theorem contributionsAreStagedOnce : Obligations.ContributionsAreStagedOnce := by
  unfold Obligations.ContributionsAreStagedOnce
  refine ⟨fun s src context payload h => ⟨?_, ?_, fun hw => ?_, ?_, ?_, ?_, ?_, ?_⟩,
    fun s src context payload e g i hf ho hi => ⟨fun hnew ⟨j, hj, hji, hm⟩ hp => ?_, fun hagain hk hphase => ?_⟩⟩
  · rw [exec_reduceData, State.takeReduceData, State.ifFresh_of_stale h]
  · rw [exec_gatherData, State.takeGatherData_of_stale h]
  · rw [exec_voteSigns, State.countVote_of_stale h hw]
  · rw [exec_voteResult, State.takeVoteResult, State.ifFresh_of_stale h]
  · rw [exec_dispatchCount, State.ifFresh_of_stale h]
  · rw [exec_dispatchGrant, State.ifFresh_of_stale h]
  · rw [exec_dispatchRows, State.ifFresh_of_stale h]
  · rw [exec_combineRows, State.ifFresh_of_stale h]
  · obtain ⟨t, ht : t = _, hstage⟩ := State.stage_first hnew hj hji hm hp
    rw [exec_reduceData, State.takeReduceData_stages hf ho hi, hstage]
    exact ⟨_, rfl, by rw [ht], by rw [ht], by rw [ht]⟩
  · rw [exec_reduceData, State.takeReduceData_stages hf ho hi, State.stage_again e _ _ hagain,
      State.setReplay_of_running (s := s.countEdge _ 0x04) hk hphase]
    exact ⟨_, rfl, Bool.or_true _, rfl, rfl⟩

end Sys2Proof.Machine

/-! PROOFS. The admission of one expert's tokens at its home (R236). -/

namespace Sys2Proof.Machine

theorem grantInOrder_members (capacity used : Nat) (asked : List (BitVec 15 × Nat)) :
    (grantInOrder capacity used asked).map Prod.fst = asked.map Prod.fst := by
  induction asked generalizing used with
  | nil => rfl
  | cons x rest ih => exact congrArg (x.1 :: ·) (ih _)

/-- Together the members get what is left of the capacity, or all that was asked. -/
theorem grantInOrder_sum (capacity used : Nat) (asked : List (BitVec 15 × Nat)) :
    ((grantInOrder capacity used asked).map Prod.snd).sum = min (capacity - used) (asked.map Prod.snd).sum := by
  induction asked generalizing used with
  | nil => exact (Nat.min_zero _).symm
  | cons x rest ih =>
    simp only [grantInOrder, List.map_cons, List.sum_cons, ih]
    omega

theorem grantInOrder_le_asked {capacity used k : Nat} {asked : List (BitVec 15 × Nat)} {x y : BitVec 15 × Nat}
    (hx : (grantInOrder capacity used asked)[k]? = some x) (hy : asked[k]? = some y) : x.2 ≤ y.2 := by
  induction asked generalizing used k with
  | nil => cases hy
  | cons a rest ih =>
    cases k with
    | zero =>
      obtain rfl := Option.some.inj hx
      obtain rfl := Option.some.inj hy
      exact Nat.min_le_left _ _
    | succ k => exact ih hx hy

/-- Settles O30, by induction on the members in admission order, from any part of the capacity in use. -/
theorem admissionFillsTheCapacity : Obligations.AdmissionFillsTheCapacity :=
  fun capacity asked => ⟨grantInOrder_members capacity 0 asked, grantInOrder_sum capacity 0 asked,
    fun _ _ _ => grantInOrder_le_asked⟩

end Sys2Proof.Machine

/-! PROOFS. VERDICT_UP and VERDICT_DOWN: noted, passed on and taken, or discarded and counted (R221, R231 to R233). -/

namespace Sys2Proof.Machine

section Verdicts

variable {s : State} {src : BitVec 15} {context : DWord} {t : TreeEntry}

theorem exec_verdictUp (src : BitVec 15) (context : DWord) (found : List (SillId × Nat)) (s : State) :
    exec (.verdictUp src context found) s = .next (s.takeVerdictUp src context found) := rfl

theorem exec_verdictDown (src : BitVec 15) (context : DWord) (found : List (SillId × Nat)) (s : State) :
    exec (.verdictDown src context found) s = .next (s.takeVerdictDown src context found) := rfl

/-! ## VERDICT_UP -/

theorem State.takeVerdictUp_of_stale (found : List (SillId × Nat)) (h : s.stale context = true) :
    s.takeVerdictUp src context found = s.countEdge 0 0x02 := if_pos h

theorem State.takeVerdictUp_of_no_tree (found : List (SillId × Nat)) (hf : s.stale context = false) (ht : s.coll.tree = none) :
    s.takeVerdictUp src context found = s.dropVerdict := by
  simp only [State.takeVerdictUp, hf, ht, Bool.false_eq_true, if_false]

/-- A report of a module that is no child here, or that has reported, is discarded (R233). -/
theorem State.takeVerdictUp_drops (found : List (SillId × Nat)) (hf : s.stale context = false) (ht : s.coll.tree = some t)
    (h : src ∉ t.children ∨ ∃ b, (src, b) ∈ s.job.children) : s.takeVerdictUp src context found = s.dropVerdict := by
  have hdrop : (s.job.current.isSome && t.children.contains src && !(s.job.children.any fun x => x.1 = src)) = false := by
    rcases h with h | ⟨b, hb⟩
    · simp [h]
    · have hany : (s.job.children.any fun x => x.1 = src) = true := List.any_eq_true.2 ⟨_, hb, decide_eq_true rfl⟩
      rw [hany, Bool.not_true, Bool.and_false]
  simp only [State.takeVerdictUp, hf, ht, hdrop, Bool.false_eq_true, if_false]

/-- A child's first report in a step is noted, and the verdict goes on from there if it can (R232). -/
theorem State.takeVerdictUp_notes (found : List (SillId × Nat)) (hf : s.stale context = false) (ht : s.coll.tree = some t)
    (hmem : src ∈ t.children) (hnew : ∀ b, (src, b) ∉ s.job.children) (hc : s.job.current ≠ none) :
    s.takeVerdictUp src context found = ({ s with job := { s.job with
      children := s.job.children ++ [(src, Bits.ofCode (ctxBits context))] } } : State).verdictFlow found := by
  have hany : (s.job.children.any fun x => x.1 = src) = false :=
    List.any_eq_false.2 fun x hx h => hnew x.2 (of_decide_eq_true h ▸ hx)
  simp only [State.takeVerdictUp, hf, ht, hany, Option.isSome_iff_ne_none.2 hc, List.contains_iff_mem.2 hmem, Bool.not_false,
    Bool.and_self, Bool.false_eq_true, if_false, if_true]

/-- Away from the fence no verdict flows. -/
theorem State.verdictFlow_of_not_fence {s : State} (found : List (SillId × Nat)) (h : s.job.phase ≠ .fence) :
    s.verdictFlow found = s := by
  unfold State.verdictFlow
  split
  · rfl
  · rw [decide_eq_false h, Bool.false_and, if_neg Bool.false_ne_true]

/-! ## VERDICT_DOWN -/

theorem State.takeVerdictDown_of_stale (found : List (SillId × Nat)) (h : s.stale context = true) :
    s.takeVerdictDown src context found = s.countEdge 0 0x02 := if_pos h

theorem State.takeVerdictDown_of_no_tree (found : List (SillId × Nat)) (hf : s.stale context = false)
    (ht : s.coll.tree = none) : s.takeVerdictDown src context found = s.dropVerdict := by
  simp only [State.takeVerdictDown, hf, ht, Bool.false_eq_true, if_false]

/-- A verdict that this module does not wait for, or not from there, is discarded (R233). -/
theorem State.takeVerdictDown_drops (found : List (SillId × Nat)) (hf : s.stale context = false) (ht : s.coll.tree = some t)
    (h : t.root = true ∨ t.parent ≠ src ∨ s.job.phase ≠ .fence) : s.takeVerdictDown src context found = s.dropVerdict := by
  have hdrop : (decide (s.job.phase = .fence) && !t.root && decide (t.parent = src)) = false := by
    rcases h with h | h | h <;> simp [h]
  simp only [State.takeVerdictDown, hf, ht, hdrop, Bool.false_eq_true, if_false]

/-- At its fence a module takes the verdict from its parent (R232). -/
theorem State.takeVerdictDown_takes (found : List (SillId × Nat)) (hf : s.stale context = false) (ht : s.coll.tree = some t)
    (hroot : t.root = false) (hparent : t.parent = src) (hphase : s.job.phase = .fence) :
    s.takeVerdictDown src context found = s.takeVerdict t (Bits.ofCode (ctxBits context)) found := by
  simp [State.takeVerdictDown, hf, ht, hroot, hparent, hphase]

/-- With no children a verdict is sent nowhere. -/
theorem State.takeVerdict_of_no_children (s : State) (v : Bits) (found : List (SillId × Nat)) (h : t.children = []) :
    s.takeVerdict t v found = s.settle v found := by
  rw [State.takeVerdict, h, List.foldl_nil]

end Verdicts

/-! ## The obligation -/

/-- Settles O36: a message is stale, finds no tree, is not expected, or is taken. -/
theorem verdictMessagesFlowThroughTheTree : Obligations.VerdictMessagesFlowThroughTheTree := by
  unfold Obligations.VerdictMessagesFlowThroughTheTree
  refine fun s src context found => ⟨fun h => ⟨?_, ?_⟩, fun hf ht => ⟨?_, ?_⟩, fun t hf ht =>
    ⟨fun h => ?_, fun hmem hnew hc hphase => ?_, fun h => ?_, fun hroot hparent hphase hleaf => ?_⟩⟩
  · rw [exec_verdictUp, State.takeVerdictUp_of_stale found h]
  · rw [exec_verdictDown, State.takeVerdictDown_of_stale found h]
  · rw [exec_verdictUp, State.takeVerdictUp_of_no_tree found hf ht, State.dropVerdict]
  · rw [exec_verdictDown, State.takeVerdictDown_of_no_tree found hf ht, State.dropVerdict]
  · rw [exec_verdictUp, State.takeVerdictUp_drops found hf ht h, State.dropVerdict]
  · rw [exec_verdictUp, State.takeVerdictUp_notes found hf ht hmem hnew hc]
    exact congrArg _ (State.verdictFlow_of_not_fence found (hphase ▸ (by decide)))
  · rw [exec_verdictDown, State.takeVerdictDown_drops found hf ht h, State.dropVerdict]
  · rw [exec_verdictDown, State.takeVerdictDown_takes found hf ht hroot hparent hphase,
      State.takeVerdict_of_no_children s _ found hleaf]

end Sys2Proof.Machine
